-- ==== Sys2Proof/Word.lean ====
section
/-!
DEFINITION. The word types of the Sellia M80 (R1): bit 0 is the least significant bit.
-/
namespace Sys2Proof

/-- One byte of memory or of a register space. -/
abbrev Byte := BitVec 8

/-- A 32-bit register word, clause header or instruction word (R21, R33). -/
abbrev Word := BitVec 32

/-- A 64-bit value: a register pair, an address, a count of TIME (R33, R92). -/
abbrev DWord := BitVec 64

/-- An operand byte of R33, as it stands in the instruction word. -/
abbrev Opnd := BitVec 8

end Sys2Proof
end

