-- ==== Sys2Proof/Machine/Bits.lean ====
section
/-!
DEFINITION. Bit fields, sign extension, little-endian bytes (R1), and the sparse tables that hold the machine's indexed state.
-/
namespace Sys2Proof.Machine

/-- Bits lo to lo + w − 1 of an n-bit value. -/
abbrev field {n : Nat} (x : BitVec n) (lo w : Nat) : BitVec w := x.extractLsb' lo w

/-- The natural number held by bits lo to lo + w − 1. -/
def bits {n : Nat} (x : BitVec n) (lo w : Nat) : Nat := (x.extractLsb' lo w).toNat

/-- Bit k as a Bool. -/
abbrev bit {n : Nat} (x : BitVec n) (k : Nat) : Bool := x.getLsbD k

/-- `x` with bits lo to lo + w − 1 replaced by `v` (R5 writes x[h:l] := v). -/
def setBits {n : Nat} (x : BitVec n) (lo w : Nat) (v : Nat) : BitVec n :=
  let m := BitVec.ofNat n ((2 ^ w - 1) <<< lo)
  (x &&& ~~~m) ||| (BitVec.ofNat n (v <<< lo) &&& m)

/-- `x` with bit k set to `b`. -/
def setBit {n : Nat} (x : BitVec n) (k : Nat) (b : Bool) : BitVec n := setBits x k 1 b.toNat

/-- The low n bytes of a number, least significant first (R1). -/
def leBytes : Nat → Nat → List Byte
  | 0, _ => []
  | n + 1, v => BitVec.ofNat 8 v :: leBytes n (v / 256)

/-- The number that bytes at ascending addresses hold (R1). -/
def ofLeBytes : List Byte → Nat
  | [] => 0
  | b :: t => b.toNat + 256 * ofLeBytes t

/-- The bytes of 32-bit words at ascending addresses. -/
def wordBytes (ws : List Word) : List Byte := ws.flatMap fun w => leBytes 4 w.toNat

/-- The bytes of 8-byte words at ascending addresses. -/
def dwordBytes (ws : List DWord) : List Byte := ws.flatMap fun w => leBytes 8 w.toNat

/-- The first n little-endian words of w bytes each in a byte list; missing bytes count as zero. -/
def leWords (w : Nat) : Nat → List Byte → List Nat
  | 0, _ => []
  | n + 1, bs => ofLeBytes (bs.take w) :: leWords w n (bs.drop w)

/-- The bytes off to off + n − 1 of a byte list as a little-endian number. -/
def fieldBytes (bs : List Byte) (off n : Nat) : Nat := ofLeBytes ((bs.drop off).take n)

/-- `bs` with the bytes from `off` on overwritten by `new`, keeping its length. -/
def patchBytes (bs : List Byte) (off : Nat) (new : List Byte) : List Byte :=
  (bs.take off ++ new ++ bs.drop (off + new.length)).take bs.length

/-- Whether all bytes off to off + n − 1 are zero. -/
def zeroBytes (bs : List Byte) (off n : Nat) : Bool := ((bs.drop off).take n).all (· == 0)

/-- The count of 1 bits. -/
def popcount {n : Nat} (x : BitVec n) : Nat := ((List.range n).filter fun k => x.getLsbD k).length

/-- The index of the highest 1 bit of a number, plus one; 0 for 0. -/
def bitLen (n : Nat) : Nat := if n = 0 then 0 else Nat.log2 n + 1

/-- The mask whose bit k is set for each k of the list. -/
def maskOf (ks : List Nat) : BitVec 64 := ks.foldl (fun m k => m ||| BitVec.twoPow 64 k) 0

/-- The indices below n whose bit is set, ascending. -/
def maskList (n : Nat) (m : BitVec 64) : List Nat := (List.range n).filter fun k => m.getLsbD k

/-- A sparse table: pairs of an index and a value. -/
abbrev Tab (α : Type) := List (Nat × α)

/-- The entry at an index. -/
def tget {α : Type} : Tab α → Nat → Option α
  | [], _ => none
  | (j, v) :: t, k => if k = j then some v else tget t k

/-- The entry at an index, or a default where none stands. -/
def tgetD {α : Type} (t : Tab α) (k : Nat) (d : α) : α := (tget t k).getD d

/-- The table with the entry at an index replaced, kept in ascending order. -/
def tput {α : Type} : Tab α → Nat → α → Tab α
  | [], k, v => [(k, v)]
  | (j, w) :: t, k, v =>
    if k < j then (k, v) :: (j, w) :: t else if k = j then (k, v) :: t else (j, w) :: tput t k v

/-- The table without the entries at an index. -/
def tdel {α : Type} (t : Tab α) (k : Nat) : Tab α := t.filter fun p => p.1 != k

/-- The table with the entry at an index changed, where there is one. -/
def tmod {α : Type} (t : Tab α) (k : Nat) (f : α → α) : Tab α :=
  match tget t k with
  | none => t
  | some v => tput t k (f v)

/-- The smallest index below the bound at which no entry stands. -/
def tfree {α : Type} (t : Tab α) (bound : Nat) : Option Nat :=
  (List.range bound).find? fun k => (tget t k).isNone

end Sys2Proof.Machine
end

