-- ==== Sys2Proof/Syntax.lean ====
section
/-!
DEFINITION. The syntax of the machine's steps: one constructor for each row of spec/opcode_table.json.
The gang, matrix, copy and collective constructors are instructions (R140), with the fields of R30, R32 and R41 to R43 that
their descriptions use; the others are the indivisible steps of the part's asynchronous units and of its management plane.
-/
namespace Sys2Proof

/-- The memory GX of R32, with its reserved bits left out (non-zero ones are no instruction). -/
structure MemGx where
  nt : Bool
  lat : Bool
  scope : BitVec 2
  ord : BitVec 2
  offset : BitVec 16
  deriving DecidableEq, Repr

/-- A Fethes packet (R312, R313): the header's fields and the payload in 8-byte words.
`key`, `ctx` and `fail` are not on the wire: they carry the sealing key of the attaching base die's locked access (R325), the
context whose owner tag a scratchpad write sets (R91), and the code and cause with which a response reports a failure (R16). -/
structure Packet where
  opnd : BitVec 64 := 0
  addr : BitVec 56 := 0
  tag : BitVec 32 := 0
  part : BitVec 12 := 0
  spkg : BitVec 12 := 0
  ssock : BitVec 5 := 0
  dpkg : BitVec 12 := 0
  dsock : BitVec 5 := 0
  hop : BitVec 4 := 0
  vc : BitVec 4 := 0
  lat : Bool := false
  ord : Bool := false
  echo : Bool := false
  leaves : BitVec 4 := 0
  size : BitVec 3 := 0
  kind : BitVec 8 := 0
  aop : BitVec 4 := 0
  gidx : BitVec 4 := 0
  gcnt : BitVec 5 := 0
  nopnd : BitVec 7 := 0
  rsvd : BitVec 12 := 0
  payload : List DWord := []
  /-- what R312's layout has no place for and the receiver needs: the mode of a token request or grant, the kind of a recall, the rounding mode of
  an ATOMG, the bytes that a failure names (log entry 25) -/
  side : BitVec 64 := 0
  key : Option (BitVec 8) := none
  ctx : Option (BitVec 8) := none
  fail : Option (Nat × Nat) := none
  deriving DecidableEq, Repr

/-- An Attar message in flight: a contribution (R338) or a CSEND line (R348). `src` names the sending engine's socket and
program context when the sender is of this package; `srcPkg` is its package. -/
structure AttarMsg where
  srcPkg : BitVec 12
  src : Option (Nat × Nat)
  part : BitVec 12
  tag : BitVec 16
  slot : Nat
  index : Nat
  line : List DWord
  deriving DecidableEq, Repr

/-- A network packet at its receiver (R285, R287, R327): `ext` is the 4-byte Gulwald extension, `none` when absent. -/
structure NetPacket where
  src : Nat
  ext : Option Word
  ctx : Nat
  msg : Nat
  off : Nat
  total : Nat
  raddr : DWord
  rsig : DWord
  data : List Byte
  /-- a COPYR asks for the bytes at `raddr` instead of bringing them (R285) -/
  fetch : Bool := false
  deriving DecidableEq, Repr

/-- The acknowledgement of a network packet at its sender (R286, R300, R327): for COPYR it is a packet of its own, with the header's extension and the
bytes read. -/
structure NetReply where
  ext : Option Word
  bytes : List Byte
  deriving DecidableEq, Repr

/-- What a recall packet names (R322, R326): the region and the partition it goes under. -/
structure Recall where
  region : Nat
  part : BitVec 12
  deriving DecidableEq, Repr

/-- What a flit's header brings over a link (R310, R314): its own number, the number of flits accepted the other way, and the flits of buffer given back
per channel. -/
structure Flit where
  seq : Nat
  ack : Nat
  credits : List (Nat × Nat)
  /-- whether it asks for every flit after the acknowledged one again (R314) -/
  again : Bool := false
  deriving DecidableEq, Repr

/-- A mailbox message as the root hands it to the die that serves it (R389): its ring slot, tag, socket and the seven
8-byte words of PAYLOAD. -/
structure Mail where
  slot : Nat
  tag : Word
  sock : Nat
  words : List DWord
  deriving DecidableEq, Repr

/-- A bind record (R382). -/
structure BindRec where
  kdesc : DWord
  args : DWord
  launch : Word
  tfirst : Nat
  tcount : Nat
  x : Nat
  y : Nat
  w : Nat
  h : Nat
  tpc : Nat
  prio : Nat
  state : Nat
  deriving DecidableEq, Repr

/-- The TDISP requests on the interface of a compute-die function (R396). -/
inductive TdispReq where
  | lock
  | start
  | stop
  | getState
  deriving DecidableEq, Repr

/-- Every step of the machine. -/
inductive Instr where

  /-- CLAUSE_ISSUE (R22). issue of the clause header `hdr`. -/
  | clauseIssue (hdr : Word)
  /-- ISSUE_AGE_PROMOTION (R107). promotion of a ready split entry of age 64. -/
  | issueAgePromotion (gang entry : Nat)
  /-- NOP (R147). Has no effect and empties the latch. -/
  | nop
  /-- MOV (R147). Copies 32 bits of A to D in each taking-part lane. -/
  | mov (d a : Opnd)
  /-- MOVI (R147). Writes the sign-extended imm16 to D. -/
  | movi (d : Opnd) (imm : BitVec 16)
  /-- MOVH (R147). Replaces D bits 31:16 with imm16 and keeps bits 15:0. -/
  | movh (d : Opnd) (imm : BitVec 16)
  /-- MOVW (R147). Writes the 32-bit extension word to D. -/
  | movw (d : Opnd) (imm : Word)
  /-- SEL (R148). Selects A or B per lane by a predicate, at 32 or 64 bits. -/
  | sel (d a b : Opnd) (wide neg : Bool) (pred : BitVec 3)
  /-- VIEW (R149). `which` is 0 VB, 1 TB, 2 AB. -/
  | view (which : BitVec 8) (imm : BitVec 16)
  /-- RDSR (R150). Reads a special register into each taking-part lane, trapping PRIV or ILLOPND for forbidden numbers. -/
  | rdsr (d : Opnd) (num : BitVec 16)
  /-- WRSR (R150). field D is the source. -/
  | wrsr (d : Opnd) (num : BitVec 16)
  /-- ADD (R152). Adds A and B modulo 2^32. -/
  | add (d a b : Opnd)
  /-- SUB (R152). Subtracts B from A modulo 2^32. -/
  | sub (d a b : Opnd)
  /-- ADDI (R152). Adds the sign-extended imm8 to A modulo 2^32. -/
  | addi (d a : Opnd) (imm : BitVec 8)
  /-- MUL (R152). Writes the low 32 bits of A times B. -/
  | mul (d a b : Opnd)
  /-- MULHI (R152). Writes the high 32 bits of the signed product. -/
  | mulhi (d a b : Opnd)
  /-- MULHU (R152). Writes the high 32 bits of the unsigned product. -/
  | mulhu (d a b : Opnd)
  /-- MAD (R152). Writes the low 32 bits of A times B plus D. -/
  | mad (d a b : Opnd)
  /-- ADD64 (R152). Adds two register pairs modulo 2^64. -/
  | add64 (d a b : Opnd)
  /-- SUB64 (R152). Subtracts two register pairs modulo 2^64. -/
  | sub64 (d a b : Opnd)
  /-- MUL64 (R152). Writes the low 64 bits of the product of two pairs. -/
  | mul64 (d a b : Opnd)
  /-- MIN (R152). Writes the signed minimum. -/
  | min (d a b : Opnd)
  /-- MAX (R152). Writes the signed maximum. -/
  | max (d a b : Opnd)
  /-- MINU (R152). Writes the unsigned minimum. -/
  | minu (d a b : Opnd)
  /-- MAXU (R152). Writes the unsigned maximum. -/
  | maxu (d a b : Opnd)
  /-- ABS (R152). Writes the signed absolute value modulo 2^32. -/
  | abs (d a : Opnd)
  /-- ADDS (R152). Adds signed values with saturation to 32 bits. -/
  | adds (d a b : Opnd)
  /-- AND (R153). Bitwise and. -/
  | and (d a b : Opnd)
  /-- OR (R153). Bitwise or. -/
  | or (d a b : Opnd)
  /-- XOR (R153). Bitwise exclusive-or. -/
  | xor (d a b : Opnd)
  /-- ANDN (R153). Writes A and not B. -/
  | andn (d a b : Opnd)
  /-- NOT (R153). Writes the bitwise complement of A. -/
  | not (d a : Opnd)
  /-- SHL (R153). Shifts left by B, giving 0 for B of 32 or more. -/
  | shl (d a b : Opnd)
  /-- SHR (R153). Shifts right with zero fill by B. -/
  | shr (d a b : Opnd)
  /-- SAR (R153). Shifts right with sign fill by B. -/
  | sar (d a b : Opnd)
  /-- SHLI (R153). Shifts left by an immediate below 32. -/
  | shli (d a : Opnd) (imm : BitVec 8)
  /-- SHRI (R153). Shifts right with zero fill by an immediate below 32. -/
  | shri (d a : Opnd) (imm : BitVec 8)
  /-- SARI (R153). Shifts right with sign fill by an immediate below 32. -/
  | sari (d a : Opnd) (imm : BitVec 8)
  /-- ROTL (R153). Rotates A left by B modulo 32. -/
  | rotl (d a b : Opnd)
  /-- POPC (R153). Counts the 1 bits of A. -/
  | popc (d a : Opnd)
  /-- CLZ (R153). Counts the leading 0 bits of A. -/
  | clz (d a : Opnd)
  /-- BFE (R154). Extracts a bit field of A, zero- or sign-extended. -/
  | bfe (d a : Opnd) (sx : Bool) (pos : BitVec 5) (len : BitVec 6)
  /-- BFI (R154). Inserts the low bits of A into a field of D. -/
  | bfi (d a : Opnd) (pos : BitVec 5) (len : BitVec 6)
  /-- CMPEQ (R155). Sets a predicate when A equals B. -/
  | cmpeq (d a b : Opnd)
  /-- CMPNE (R155). Sets a predicate when A differs from B. -/
  | cmpne (d a b : Opnd)
  /-- CMPLT (R155). Sets a predicate when A is signed-less than B. -/
  | cmplt (d a b : Opnd)
  /-- CMPLE (R155). Sets a predicate when A is signed-less or equal to B. -/
  | cmple (d a b : Opnd)
  /-- CMPLTU (R155). Sets a predicate when A is unsigned-less than B. -/
  | cmpltu (d a b : Opnd)
  /-- CMPLEU (R155). Sets a predicate when A is unsigned-less or equal to B. -/
  | cmpleu (d a b : Opnd)
  /-- FCMPEQ (R156). FP32 quiet equality compare into a predicate. -/
  | fcmpeq (d a b : Opnd)
  /-- FCMPLT (R156). FP32 signalling less-than compare into a predicate. -/
  | fcmplt (d a b : Opnd)
  /-- FCMPLE (R156). FP32 signalling less-or-equal compare into a predicate. -/
  | fcmple (d a b : Opnd)
  /-- FCMPUN (R156). FP32 unordered test into a predicate. -/
  | fcmpun (d a b : Opnd)
  /-- PAND (R155). Predicate and. -/
  | pand (d a b : Opnd)
  /-- POR (R155). Predicate or. -/
  | por (d a b : Opnd)
  /-- PXOR (R155). Predicate exclusive-or. -/
  | pxor (d a b : Opnd)
  /-- PNOT (R155). Predicate complement. -/
  | pnot (d a : Opnd)
  /-- P2V (R155). Writes 1 or 0 to a register from a predicate. -/
  | p2v (d a : Opnd)
  /-- V2P (R155). Sets a predicate when a register is non-zero. -/
  | v2p (d a : Opnd)
  /-- FADD (R157). FP32 addition rounded once. -/
  | fadd (d a b : Opnd)
  /-- FSUB (R157). FP32 subtraction rounded once. -/
  | fsub (d a b : Opnd)
  /-- FMUL (R157). FP32 multiplication rounded once. -/
  | fmul (d a b : Opnd)
  /-- FFMA (R157). FP32 fused multiply-add into D. -/
  | ffma (d a b : Opnd)
  /-- FMIN (R158). FP32 minimumNumber. -/
  | fmin (d a b : Opnd)
  /-- FMAX (R158). FP32 maximumNumber. -/
  | fmax (d a b : Opnd)
  /-- FABS (R158). Clears the FP32 sign bit, canonicalising NaNs without a flag. -/
  | fabs (d a : Opnd)
  /-- FNEG (R158). Inverts the FP32 sign bit, canonicalising NaNs without a flag. -/
  | fneg (d a : Opnd)
  /-- FRCP (R159). Correctly rounded FP32 reciprocal. -/
  | frcp (d a : Opnd)
  /-- FRSQ (R159). Correctly rounded FP32 reciprocal square root. -/
  | frsq (d a : Opnd)
  /-- FSQRT (R159). Correctly rounded FP32 square root. -/
  | fsqrt (d a : Opnd)
  /-- FDIV (R159). Correctly rounded FP32 division. -/
  | fdiv (d a b : Opnd)
  /-- FLOG2 (R159). Correctly rounded FP32 base-2 logarithm. -/
  | flog2 (d a : Opnd)
  /-- FEXP2 (R159). Correctly rounded FP32 power of two. -/
  | fexp2 (d a : Opnd)
  /-- FLN (R159). Correctly rounded FP32 natural logarithm. -/
  | fln (d a : Opnd)
  /-- FEXP (R159). Correctly rounded FP32 natural exponential. -/
  | fexp (d a : Opnd)
  /-- DADD (R157). FP64 addition of pairs. -/
  | dadd (d a b : Opnd)
  /-- DSUB (R157). FP64 subtraction of pairs. -/
  | dsub (d a b : Opnd)
  /-- DMUL (R157). FP64 multiplication of pairs. -/
  | dmul (d a b : Opnd)
  /-- DFMA (R157). FP64 fused multiply-add into D. -/
  | dfma (d a b : Opnd)
  /-- DMIN (R158). FP64 minimumNumber. -/
  | dmin (d a b : Opnd)
  /-- DMAX (R158). FP64 maximumNumber. -/
  | dmax (d a b : Opnd)
  /-- DDIV (R159). Correctly rounded FP64 division. -/
  | ddiv (d a b : Opnd)
  /-- DSQRT (R159). Correctly rounded FP64 square root. -/
  | dsqrt (d a : Opnd)
  /-- DCMPEQ (R156). FP64 quiet equality compare. -/
  | dcmpeq (d a b : Opnd)
  /-- DCMPLT (R156). FP64 signalling less-than compare. -/
  | dcmplt (d a b : Opnd)
  /-- DCMPLE (R156). FP64 signalling less-or-equal compare. -/
  | dcmple (d a b : Opnd)
  /-- DCMPUN (R156). FP64 unordered test. -/
  | dcmpun (d a b : Opnd)
  /-- CVT (R161). Converts between float and integer formats with saturation and rounding. -/
  | cvt (d a : Opnd) (dyn : Bool) (rnd : BitVec 2) (src dst : BitVec 4)
  /-- PKLN6 (R164). Quantises four FP32 values into a 3-byte LN6 group under an E8 scale. -/
  | pkln6 (d a b : Opnd) (j : BitVec 3)
  /-- UPLN6 (R165). Expands a 3-byte LN6 group into four FP32 values under an E8 scale. -/
  | upln6 (d a b : Opnd) (j : BitVec 3)
  /-- FRND (R162). Rounds an FP32 or FP64 value to an integral value in its format. -/
  | frnd (d a : Opnd) (wide dyn : Bool) (rnd : BitVec 2)
  /-- SHFL (R168). Reads A from the lane named by B, with a validity predicate. -/
  | shfl (d a b : Opnd) (wide : Bool) (pv : BitVec 3)
  /-- SHFLUP (R168). Reads A from the lane B places below. -/
  | shflup (d a b : Opnd) (wide : Bool) (pv : BitVec 3)
  /-- SHFLDN (R168). Reads A from the lane B places above. -/
  | shfldn (d a b : Opnd) (wide : Bool) (pv : BitVec 3)
  /-- SHFLX (R168). Reads A from the lane at lane xor B. -/
  | shflx (d a b : Opnd) (wide : Bool) (pv : BitVec 3)
  /-- VOTEALL (R169). Sets a predicate to the and of a predicate over active lanes. -/
  | voteall (d a : Opnd)
  /-- VOTEANY (R169). Sets a predicate to the or of a predicate over active lanes. -/
  | voteany (d a : Opnd)
  /-- BALLOT (R169). Writes the 64-bit mask of active lanes whose predicate holds. -/
  | ballot (d a : Opnd)
  /-- GRED (R171). Reduces A over the active lanes by an operator. -/
  | gred (d a : Opnd) (wide : Bool) (op : BitVec 4)
  /-- GSCAN (R171). Forms the inclusive prefix of A over active lanes by an operator. -/
  | gscan (d a : Opnd) (wide : Bool) (op : BitVec 4)
  /-- MATCH (R169). Writes the mask of active lanes holding the same value as the lane. -/
  | matchLanes (d a : Opnd)
  /-- SPLIT (R117). Divides a converged, drained gang into parts of a narrower width. -/
  | split (d : Opnd) (w : BitVec 8)
  /-- FUSE (R118). Joins the gang with its buddy gang of equal width, returning a status. -/
  | fuse (d : Opnd)
  /-- FUSETMO_EXPIRY (R118). the FUSETMO wait of a split passes. -/
  | fusetmoExpiry (gang entry : Nat)
  /-- CONVERGE (R115). Holds splits until all stand at this word with no overflow, then joins them. -/
  | converge
  /-- BRA (R173). Transfers every taking-part lane to the displacement target. -/
  | bra (disp : BitVec 24)
  /-- BRP (R173). Transfers the lanes whose predicate holds, dividing the split. -/
  | brp (neg : Bool) (pred : BitVec 3) (disp : BitVec 20)
  /-- BRU (R173). Transfers all taking-part lanes only if the predicate holds in every one. -/
  | bru (neg : Bool) (pred : BitVec 3) (disp : BitVec 20)
  /-- BRX (R174). Transfers lanes to per-lane register targets, grouped by target. -/
  | brx (a : Opnd)
  /-- CALL (R175). Writes the link to o6:o7 and branches as BRA. -/
  | call (disp : BitVec 24)
  /-- CALLX (R175). Writes the link to a pair and branches as BRX. -/
  | callx (d a : Opnd)
  /-- RET (R175). Branches as BRX to the link pair. -/
  | ret (a : Opnd)
  /-- EXIT (R176). Removes taking-part lanes from the gang, discarding their open proposal. -/
  | exit
  /-- GANG_END (R176). the end of a gang without a live lane. -/
  | gangEnd (gang : Nat)
  /-- TRAP (R177). Raises SWTRAP with the imm16 in TRAPARG and SKIP set. -/
  | trap (imm : BitVec 16)
  /-- RTT (R178). Ends a handler, checks the split table, releases the Umbra and resumes or takes the gang off the core. -/
  | rtt
  /-- MCALL (R46). Executes a control-store microprogram with substituted operand parameters. -/
  | mcall (n : BitVec 8) (b : Opnd) (params : Word)
  /-- FORK (R179). Starts a loop-nest program on the core's matrix sequencer, returning a status. -/
  | fork (d a b : Opnd) (ctr : BitVec 4)
  /-- JOINE (R180). Returns MSTAT, waiting for the forked program's end in mode 0. -/
  | joine (d : Opnd) (mode : BitVec 8)
  /-- DOZE (R95). Gives up the issue slot until TIME reaches the largest lane deadline. -/
  | doze (a : Opnd)
  /-- DOZE_WAKE (R95). TIME reaches the deadline of a dozing split. -/
  | dozeWake (gang entry : Nat)
  /-- YIELD (R181). Gives up the issue port after this word. -/
  | yield
  /-- BRK (R177). Raises DEBUG with SKIP set. -/
  | brk
  /-- LDT (R203). Loads from the team's team memory against a counter. -/
  | ldt (d a : Opnd) (ctr size : BitVec 4)
  /-- STT (R203). Stores to the team's team memory against a counter. -/
  | stt (d a : Opnd) (ctr size : BitVec 4)
  /-- ATOMT (R206). Performs an atomic read-modify-write on team memory in ascending lane order. -/
  | atomt (d a b : Opnd) (wide : Bool) (op ctr : BitVec 4)
  /-- LDSP (R204). Loads from the lane's spill stack. -/
  | ldsp (d a : Opnd) (ctr size : BitVec 4)
  /-- STSP (R204). Stores to the lane's spill stack. -/
  | stsp (d a : Opnd) (ctr size : BitVec 4)
  /-- LDP (R204). Loads from the context's scratchpad window. -/
  | ldp (d a : Opnd) (ctr size : BitVec 4)
  /-- STP (R204). Stores to the context's scratchpad window. -/
  | stp (d a : Opnd) (ctr size : BitVec 4)
  /-- RINGROT (R207). Atomically advances a ring head and hands each lane a consecutive slot address. -/
  | ringrot (d a b : Opnd) (logs : BitVec 4) (logn : BitVec 5) (ctr : BitVec 4)
  /-- LDG (R208). Issues a split-phase global load with scope, ordering and class. -/
  | ldg (d a : Opnd) (ctr size : BitVec 4) (gx : MemGx)
  /-- STG (R208). Issues a global store with scope, ordering and class. -/
  | stg (d a : Opnd) (ctr size : BitVec 4) (gx : MemGx)
  /-- ATOMG (R211). Performs a global atomic operator, lanes of one element applied as one group. -/
  | atomg (d a : Opnd) (ctr size : BitVec 4) (gx : MemGx)
  /-- FADDG (R210). Issues an integer fetch-and-add eligible for combining. -/
  | faddg (d a : Opnd) (ctr size : BitVec 4) (gx : MemGx)
  /-- CASG (R212). Performs a global compare-and-swap. -/
  | casg (d a : Opnd) (ctr size : BitVec 4) (gx : MemGx)
  /-- PREFG (R209). Brings a line into L1 or the memory-side cache without faulting. -/
  | prefg (a : Opnd) (ctr size : BitVec 4) (gx : MemGx)
  /-- ACCESS_COMPLETE (R202). completion of the asynchronous operation `op`. -/
  | accessComplete (op : Nat)
  /-- WAITC (R219). Holds the split until a counter's outstanding count is at most n, delivering failures. -/
  | waitc (ctr : BitVec 4) (n : BitVec 8)
  /-- FENCE (R65). Orders the lane's earlier accesses before later ones at a scope, invalidating L1 at die scope or wider. -/
  | fence (scope : BitVec 2)
  /-- ACQ (R213). Loads a sync word with acquire and invalidates its bound L1 lines. -/
  | acq (d a : Opnd) (ctr : BitVec 4) (gx : MemGx)
  /-- REL (R213). Stores a sync word after the lane's bound writes are performed. -/
  | rel (d a : Opnd) (ctr : BitVec 4) (gx : MemGx)
  /-- BIND (R220). Records a binding of a virtual range to a sync word for the context. -/
  | bind (d a b : Opnd) (scope : BitVec 2)
  /-- UNBIND (R220). Removes a binding by index. -/
  | unbind (a : Opnd)
  /-- TOKACQ (R221). Requests the shared or exclusive token of a 2 MiB region, returning a status. -/
  | tokacq (d a : Opnd) (ex : Bool) (ctr : BitVec 4)
  /-- TOKREL (R222). Releases the context's token after writing back and invalidating the region. -/
  | tokrel (d a : Opnd)
  /-- TOKQRY (R222). Writes the package's local token state for the region. -/
  | tokqry (d a : Opnd)
  /-- COLL (R223). Starts an Attar program on a base die of the package against a counter. -/
  | coll (d a b : Opnd) (sock ctr : BitVec 4)
  /-- BAR (R225). Arrives at a team barrier and waits for the phase to complete. -/
  | bar (k : BitVec 4) (pub : Bool) (n4 : BitVec 8)
  /-- BARARV (R225). Arrives at a team barrier and continues at once. -/
  | bararv (k : BitVec 4) (pub : Bool) (n4 : BitVec 8)
  /-- BARWT (R225). Waits for the phase of the gang's last BARARV to complete. -/
  | barwt (k : BitVec 4)
  /-- MBINIT (R227). Initialises or clears a memory barrier word and its tag. -/
  | mbinit (d a : Opnd) (ctr : BitVec 4)
  /-- MBARV (R227). Arrives with a count on a memory barrier word as a release. -/
  | mbarv (d a : Opnd) (ctr : BitVec 4)
  /-- MBWAIT (R227). Holds the split until a memory barrier word's phase differs from a value. -/
  | mbwait (d a : Opnd)
  /-- BSEAL (R229). Closes the open copy batch and writes its number. -/
  | bseal (d : Opnd)
  /-- BWAIT (R229). Waits for every copy in batches up to n and records n as waited. -/
  | bwait (d : Opnd) (imm : BitVec 16)
  /-- CLBAR (R226). Arrives at the cluster barrier of the team slot. -/
  | clbar (pub : Bool)
  /-- SIGNAL (R224). Atomically subtracts from a signal object as a release and notifies the front ends. -/
  | signal (a b : Opnd)
  /-- SHBEGIN (R183). Opens a proposal over a group of registers in the shadow bank. -/
  | shbegin (vbase : Opnd) (n : BitVec 8)
  /-- ACCEPT (R184). Decides the proposal per lane against the log of a uniform word and closes it. -/
  | accept (d a b : Opnd) (natural : Bool)
  /-- SHABORT (R185). Closes and discards the open proposal. -/
  | shabort
  /-- SHREAD (R185). Reads a group word as the gang would see it. -/
  | shread (d a : Opnd)
  /-- RAND (R188). Advances the lane's RAND state and returns 32 bits. -/
  | rand (d : Opnd)
  /-- RSEED (R188). Sets the lane's RAND state. -/
  | rseed (a : Opnd)
  /-- ACCRD (R186). Writes ACCN and PROPN to a pair. -/
  | accrd (d : Opnd)
  /-- ACCCLR (R186). Clears ACCN and PROPN. -/
  | accclr
  /-- TIME (R189). Writes the TIME count to a pair. -/
  | time (d : Opnd)
  /-- TRACE (R190). Writes a kind 0x0001 sillage trace record with a tag and 16 payload bytes. -/
  | trace (a : Opnd) (tag : BitVec 16)
  /-- CYCLE (R189). Writes the CYCLE count to a pair. -/
  | cycle (d : Opnd)
  /-- XSAVE (R192). Waits for counters to drain and writes the interrupted gang's save image. -/
  | xsave (a : Opnd)
  /-- XRSTR (R193). Installs a save image into the interrupted gang. -/
  | xrstr (a : Opnd)
  /-- SPLRD (R194). Reads an item of the interrupted split table. -/
  | splrd (d a : Opnd)
  /-- SPLWR (R194). Writes an item of the interrupted split table. -/
  | splwr (a b : Opnd)
  /-- REPLV (R195). Completes a load failed by MEMUE with replacement values. -/
  | replv (a : Opnd)
  /-- TLBINV (R196). Invalidates the context's translations in every TLB of the package. -/
  | tlbinv (a b : Opnd)
  /-- SHSAVE (R197). Writes the shadow-bank image of the interrupted gang. -/
  | shsave (a : Opnd)
  /-- SHRSTR (R197). Restores the shadow-bank image into the interrupted gang. -/
  | shrstr (a : Opnd)
  /-- MSTORE (R198). Loads a range of microprograms into the core's control store. -/
  | mstore (a b : Opnd)
  /-- DRAINLIM_EXPIRY (R86). DRAINLIM passes while teams of a draining context remain. -/
  | drainlimExpiry (ctx : Nat)
  /-- PREEMPT_ENTRY (R87). Once the gang's outstanding operations are done, it enters PVEC with PREEMPT and a reason code. -/
  | preemptEntry (gang : Nat)
  /-- FORCED_SAVE_HELD_TIMEOUT (R216). Held accesses still outstanding after the drain limit report the context as a drain failure. -/
  | forcedSaveHeldTimeout (ctx : Nat)
  /-- HANDLER_RTT_TIMEOUT (R87). A forced save pending on a handler with no RTT within DRAINLIM ends the context as a drain failure. -/
  | handlerRttTimeout (ctx : Nat)
  /-- TMMA (R260). Hands off quarter operations multiplying tile rows by a B tile into accumulators. -/
  | tmma (acc tile bsrc : BitVec 4) (f : Opnd) (ctr : BitVec 4) (mode : BitVec 2)
  /-- TGMMA (R260). Hands off quarter operations with A rows gathered from memory. -/
  | tgmma (acc tile bsrc : BitVec 4) (f : Opnd) (ctr : BitVec 4) (mode : BitVec 2)
  /-- TZERO (R262). Zeroes the accumulator row of each taking-part lane. -/
  | tzero (acc ctr : BitVec 4)
  /-- TLD (R262). Loads tile register rows from team memory. -/
  | tld (tile bsrc ctr : BitVec 4) (mode : BitVec 2)
  /-- TST (R262). Stores tile register rows to team memory. -/
  | tst (tile bsrc ctr : BitVec 4) (mode : BitVec 2)
  /-- ACCST (R262). Stores accumulator rows to team memory, optionally narrowed. -/
  | accst (acc bsrc ctr : BitVec 4) (mode : BitVec 2)
  /-- ACCLD (R262). Loads accumulator rows from team memory, optionally widened. -/
  | accld (acc bsrc ctr : BitVec 4) (mode : BitVec 2)
  /-- TAMAX (R263). Writes the absolute maximum of the taking-part accumulator rows to team memory. -/
  | tamax (acc bsrc ctr : BitVec 4) (mode : BitVec 2)
  /-- TTRANS (R264). Writes the transpose of a B tile object. -/
  | ttrans (bsrc : BitVec 4) (f : Opnd) (ctr : BitVec 4)
  /-- TBMAP (R265). Writes the zero-block map of a B tile object. -/
  | tbmap (bsrc : BitVec 4) (f : Opnd) (ctr : BitVec 4)
  /-- STRDEF (R266). Defines a Prism operand stream. -/
  | strdef (f : Opnd) (ctr : BitVec 4)
  /-- STRSUB (R267). Binds a team stream handle to a stream with a window buffer. -/
  | strsub (bsrc : BitVec 4) (f : Opnd) (ctr : BitVec 4)
  /-- STRADV (R268). Advances a stream handle to its next tile. -/
  | stradv (bsrc ctr : BitVec 4)
  /-- STRUNSUB (R268). Unbinds a stream handle. -/
  | strunsub (bsrc ctr : BitVec 4)
  /-- MLOOP (R269). In a loop-nest program, runs the nest from the parameter block. -/
  | mloop
  /-- MEND (R269). Ends a loop-nest program, lowering the FORK counter and freeing the sequencer. -/
  | mend
  /-- MRESUME (R273). Re-enters a saved loop nest from its image. -/
  | mresume (f : Opnd) (ctr : BitVec 4)
  /-- MSAVE (R272). Writes the frozen or failed program's image, optionally releasing it. -/
  | msave (f : Opnd) (ctr : BitVec 4) (release : Bool)
  /-- QUARTER_OP_COMPLETE (R242). completion of a quarter operation of the matrix word `op`. -/
  | quarterOpComplete (op : Nat)
  /-- TILE_STEP (R253). The sequencer completes a tile step, writing C at the last K step and freezing if requested. -/
  | tileStep (core : Nat)
  /-- MATRIX_HANG (R256). Work older than 2^24 engine cycles is a hang, reported for an engine reset. -/
  | matrixHang (core : Nat)
  /-- PRISM_TILE_WRITE (R251). Prism writes the next tile of a subscription. -/
  | prismTileWrite (team handle : Nat)
  /-- COPY (R296). Hands off a copy of LEN bytes from SRC to DST. -/
  | copy (d a : Opnd) (ctr : BitVec 4) (sealed : Bool)
  /-- COPYT (R297). Hands off a tensor box copy with bounds fill. -/
  | copyt (d a : Opnd) (ctr : BitVec 4) (sealed : Bool)
  /-- COPYG (R298). Hands off a gather of indexed rows. -/
  | copyg (d a : Opnd) (ctr : BitVec 4) (sealed : Bool)
  /-- COPYS (R298). Hands off a scatter to indexed rows. -/
  | copys (d a : Opnd) (ctr : BitVec 4) (sealed : Bool)
  /-- COPYM (R299). Hands off an acknowledged multicast to cluster team memories. -/
  | copym (d a : Opnd) (ctr : BitVec 4) (sealed : Bool)
  /-- COPYN (R300). Hands off a network send to a peer. -/
  | copyn (d a : Opnd) (ctr : BitVec 4) (sealed : Bool)
  /-- FILL (R296). Hands off a fill of DST with an 8-byte pattern. -/
  | fill (d a : Opnd) (ctr : BitVec 4) (sealed : Bool)
  /-- CHAIN (R302). Claims a chain channel and starts its walk, or rings its doorbell. -/
  | chain (d a : Opnd) (ctr : BitVec 4) (sealed : Bool)
  /-- CHSTAT (R303). Writes a chain channel's status quad. -/
  | chstat (d a : Opnd) (ctr : BitVec 4) (sealed : Bool)
  /-- CHABORT (R304). Stops a held channel's walk and returns it to IDLE. -/
  | chabort (d a : Opnd) (ctr : BitVec 4) (sealed : Bool)
  /-- MIGR (R301). Copies a page between package physical addresses and zeroes its access counters. -/
  | migr (d a : Opnd) (ctr : BitVec 4) (sealed : Bool)
  /-- COPYR (R300). Hands off a network fetch from a peer. -/
  | copyr (d a : Opnd) (ctr : BitVec 4) (sealed : Bool)
  /-- COPY_JOB_COMPLETE (R293). A copy job ends, writes its status word and lowers its counter. -/
  | copyJobComplete (op : Nat)
  /-- CHAIN_RECORD_STEP (R289). A chain channel reads its next record and performs, fails or stops on it. -/
  | chainRecordStep (die chan : Nat)
  /-- COPYM_RECEIVER_ARRIVE (R284). A receiving core's copy engine arrives on ACKW after the block lands. -/
  | copymReceiverArrive (op rank : Nat)
  /-- NET_PACKET_RECEIVE (R287). A receiver writes a network packet's payload and acknowledges it. -/
  | netPacketReceive (p : NetPacket)
  /-- NET_ACK_RECEIVE (R286). acknowledgement of packet `pkt` of message `msg` (for COPYR, its reply and data). -/
  | netAckReceive (msg pkt : Nat) (data : NetReply)
  /-- NEGATIVE_ACK (R286). A negative acknowledgement ends the message with cause REMOTE. -/
  | negativeAck (msg : Nat)
  /-- NET_RETRY_TIMEOUT (R286). A message timeout retransmits unacknowledged packets or fails with NETFAIL after the eighth retry. -/
  | netRetryTimeout (msg : Nat)
  /-- CMOVI (R342). Sets a scalar to a shifted sign-extended immediate. -/
  | cmovi (xd sh : BitVec 4) (imm : BitVec 14)
  /-- CADDI (R342). Adds an immediate to a scalar. -/
  | caddi (xd xa : BitVec 4) (imm : BitVec 14)
  /-- CADD (R342). Adds two scalars. -/
  | cadd (xd xa xb : BitVec 4)
  /-- CLD (R343). Loads 8 bytes into a scalar at fabric scope. -/
  | cld (xd xa : BitVec 4) (imm : BitVec 14)
  /-- CST (R343). Stores a scalar as 8 bytes. -/
  | cst (xa xb : BitVec 4) (imm : BitVec 14)
  /-- CLDL (R343). Loads a 64-byte line into a line register. -/
  | cldl (ld : BitVec 3) (xa : BitVec 4) (imm : BitVec 14)
  /-- CSTL (R343). Stores a line register as 64 bytes. -/
  | cstl (xa : BitVec 4) (lb : BitVec 3) (imm : BitVec 14)
  /-- CVOP (R344). Combines two line registers element by element. -/
  | cvop (ld la lb : BitVec 3) (k : BitVec 4)
  /-- COPEN (R345). Opens the lowest free reduction slot at or above a base. -/
  | copen (xd xa xb : BitVec 4) (k : BitVec 4) (base : BitVec 8)
  /-- CCONT (R346). Sends a contribution line to a slot and waits for its final status. -/
  | ccont (xd xa : BitVec 4) (lb : BitVec 3)
  /-- CWAIT (R347). Waits for a slot to complete and returns its status word. -/
  | cwait (xd xa : BitVec 4)
  /-- CRES (R347). Copies a completed slot's value into a line register. -/
  | cres (ld : BitVec 3) (xa : BitVec 4)
  /-- CSTAT (R347). Reads a slot field, the program status word or TIME by selector. -/
  | cstat (xd xa : BitVec 4) (which : BitVec 14)
  /-- CSEND (R348). Sends a line to another engine's message store. -/
  | csend (xd xa : BitVec 4) (lb : BitVec 3)
  /-- CRECV (R348). Waits for the oldest stored message with a tag, or a timeout. -/
  | crecv (ld : BitVec 3) (xa xb : BitVec 4)
  /-- CBZ (R349). Branches when a scalar is zero. -/
  | cbz (xa : BitVec 4) (disp : BitVec 14)
  /-- CBNZ (R349). Branches when a scalar is non-zero. -/
  | cbnz (xa : BitVec 4) (disp : BitVec 14)
  /-- CBRA (R349). Branches always. -/
  | cbra (disp : BitVec 14)
  /-- CSIG (R350). Sends the program status word as the COLL's signal. -/
  | csig (xa : BitVec 4)
  /-- CFREE (R347). Frees an owned slot and discards its contributions. -/
  | cfree (xa : BitVec 4)
  /-- CEND (R350). Signals if needed, frees owned slots and frees the context. -/
  | cend
  /-- ATTAR_START (R330). The engine takes a queued start into a free context and reads its argument block. -/
  | attarStart (sock : Nat)
  /-- CONTRIBUTION_ACCEPT (R338). A target engine stamps a contribution and stores, drops or retries it. -/
  | contributionAccept (sock : Nat) (m : AttarMsg)
  /-- SLOT_DEADLINE (R339). TIME reaching a slot's deadline completes it with the missing contributors in LATEMASK. -/
  | slotDeadline (sock slot : Nat)
  /-- CONTRIBUTION_RETRY (R338). a context whose contribution or message got a retry reply sends it again. -/
  | contributionRetry (sock ctx : Nat)
  /-- MESSAGE_STORE (R348). A target engine stores an arriving message or hands it to a waiting CRECV. -/
  | messageStore (sock : Nat) (m : AttarMsg)
  /-- MESSAGE_EXPIRY (R348). the oldest stored message has waited 2 ms. -/
  | messageExpiry (sock : Nat)
  /-- CRECV_TIMEOUT (R348). A CRECV whose timeout passes returns status 1. -/
  | crecvTimeout (sock ctx : Nat)
  /-- ROUTER_PACKET_ARRIVE (R306). A router takes a packet and routes it by destination, table, hop limit and partition. -/
  | routerPacketArrive (router inPort : Nat) (p : Packet)
  /-- OUTPUT_GRANT (R316). An output grants one eligible head by promotion or round-robin quota and ages the others. -/
  | outputGrant (router out : Nat)
  /-- ECHO_REPLY (R319). A reply for an echo id is split into two replies and the record freed. -/
  | echoReply (router : Nat) (p : Packet)
  /-- FAILED_REPLY (R320). A failed reply frees matching records and completes its leaves with ATOMLOST. -/
  | failedReply (router : Nat) (p : Packet)
  /-- LINK_FLIT_RECEIVE (R314). A link receiver checks a flit's CRC, acknowledging or asking for a resend. -/
  | linkFlitReceive (router port : Nat) (flit : Flit) (crcOk : Bool)
  /-- LINK_RETRAIN (R315). Sixteen failed resends of a flit retrain the link without loss or duplication. -/
  | linkRetrain (router port : Nat)
  /-- LINK_DOWN (R315). A link not retrained within 1 ms goes down and its unaccepted packets are rerouted. -/
  | linkDown (router port : Nat)
  /-- ROUTE_RECOMPUTE (R308). Routers recompute in-package routes after a router reset or link failure report. -/
  | routeRecompute
  /-- RESPONSE_TIMEOUT (R407). An outbound request with no response after 10 ms is completed as an addressing error. -/
  | responseTimeout (tag : Nat)
  /-- MEMORY_REQUEST (R74). a request packet reaches the unit of socket `sock` that performs it. -/
  | memoryRequest (sock : Nat) (p : Packet)
  /-- TOKEN_ACQUIRE_REQUEST (R321). A home directory takes an acquire, recalling holders before granting. -/
  | tokenAcquireRequest (sock : Nat) (p : Packet)
  /-- TOKEN_RECALL (R322). the home directory recalls the package's token of a peer region. -/
  | tokenRecall (call : Recall)
  /-- RECALL_ACK (R321). A directory removes a holder on its acknowledgement and proceeds with a pending acquire. -/
  | recallAck (sock pkg region : Nat)
  /-- SCRUB_ARRAYS (R394). The hourly scrub reads on-chip arrays, correcting or ending owner contexts. -/
  | scrubArrays (sock : Nat)
  /-- SCRUB_DRAM (R394). The daily scrub reads a stack's DRAM, correcting or poisoning lines. -/
  | scrubDram (sock : Nat)
  /-- HOST_WRITE (R75). A host posted write is performed as a relaxed package-scope access in issue order. -/
  | hostWrite (fn : Nat) (addr : Nat) (bytes : List Byte)
  /-- HOST_READ (R75). A host read completes after its earlier posted writes are performed. -/
  | hostRead (fn : Nat) (addr len : Nat)
  /-- DOORBELL (R368). An 8-byte doorbell store updates a queue's write index or puts it in ERROR. -/
  | doorbell (die queue : Nat) (w : DWord)
  /-- QUEUE_ENABLE (R366). Setting ENABLE, if the record is valid, clears ERRINFO and makes the queue IDLE or READY. -/
  | queueEnable (die queue : Nat)
  /-- QUEUE_DISABLE (R366). Clearing ENABLE moves the queue to STOPPED. -/
  | queueDisable (die queue : Nat)
  /-- QUEUE_RECORD_WRITE (R366). A write to other queue-record fields is accepted only as the record's rules allow. -/
  | queueRecordWrite (die queue off fn : Nat) (bytes : List Byte)
  /-- PACKET_PROCESSOR_STEP (R374). The packet processor decides up to 32 queues' packets in type groups. -/
  | packetProcessorStep (die : Nat)
  /-- WAITSIG_TIMEOUT (R373). A WAITSIG whose timeout passes puts its queue in ERROR with cause TIMEOUT. -/
  | waitsigTimeout (die queue : Nat)
  /-- LAUNCH_COMPLETE (R370). A launch completes when its teams have ended and writes are performed, releasing graph successors. -/
  | launchComplete (die launch : Nat)
  /-- COMPLETION_RECORD_RETRY (R385). A completion record whose write failed is retried every 1 µs. -/
  | completionRecordRetry (die ctx : Nat)
  /-- BIND_RECORD_WRITE (R382). The placement core writes a bind record into the slot table. -/
  | bindRecordWrite (die slot : Nat) (r : BindRec)
  /-- TEAM_DISPATCH (R383). The dispatch hardware places a team from a bind record once it fits on its core. -/
  | teamDispatch (die : Nat)
  /-- CONTEXT_VALID_SET (R384). Setting VALID in a context record validates it or refuses. -/
  | contextValidSet (die ctx : Nat)
  /-- CONTEXT_VALID_CLEAR (R384). Clearing VALID ends the context in the whole package. -/
  | contextValidClear (die ctx : Nat)
  /-- CONTEXT_RECORD_WRITE (R384). A write to other context-record fields, accepted only as the record's rules allow. -/
  | contextRecordWrite (die ctx off : Nat) (bytes : List Byte)
  /-- FAULT_REPLAY (R386). A replay-register write with Replay re-performs held accesses of a SEQ. -/
  | faultReplay (die seq : Nat)
  /-- FAULT_CANCEL (R386). A replay-register write with Cancel fails held accesses of a SEQ. -/
  | faultCancel (die seq : Nat)
  /-- MMIO_REGISTER_WRITE (R365). a write to a device register with no row of its own; `fn` is the PCIe function. -/
  | mmioRegisterWrite (sock off fn : Nat) (bytes : List Byte)
  /-- POWER_READ (R406). Reads power limits and sensors of the serving die. -/
  | powerRead (m : Mail)
  /-- POWER_PACKAGE_LIMIT (R399). Sets the package power limit. -/
  | powerPackageLimit (m : Mail)
  /-- POWER_ISLAND_LIMIT (R399). Sets an island's clock ceiling. -/
  | powerIslandLimit (m : Mail)
  /-- POWER_DIE_DOWN (R399). Drains a compute die and powers it down. -/
  | powerDieDown (m : Mail)
  /-- POWER_DIE_UP (R399). Powers a compute die up. -/
  | powerDieUp (m : Mail)
  /-- RESET_DRAIN (R387). Drains a context in the whole package, escalating at once with SAVE. -/
  | resetDrain (m : Mail)
  /-- RESET_CORE (R391). Resets one core of the serving compute die. -/
  | resetCore (m : Mail)
  /-- RESET_MATRIX_ENGINE (R256). Resets a core's matrix engine, failing its work in flight. -/
  | resetMatrixEngine (m : Mail)
  /-- RESET_DIE (R392). Resets the serving compute die after completing its work as failed. -/
  | resetDie (m : Mail)
  /-- DIE_RESET_COMPLETE (R392). A reset die accepts requests again once its memories are zero. -/
  | dieResetComplete (die : Nat)
  /-- RESET_BASE_DIE (R391). Resets the serving base die's cache, router tables, Attar and tokens. -/
  | resetBaseDie (m : Mail)
  /-- RESET_PACKAGE (R391). Resets the whole package except DRAM contents. -/
  | resetPackage (m : Mail)
  /-- RESET_TLBINV (R196). Invalidates a context's translations through the management endpoint. -/
  | resetTlbinv (m : Mail)
  /-- FUNCTION_LEVEL_RESET (R392). A function-level reset of a compute-die function starts a die reset. -/
  | functionLevelReset (fn : Nat)
  /-- FUNDAMENTAL_RESET (R391). A fundamental reset resets the package. -/
  | fundamentalReset
  /-- ERRLOG_READ (R406). Reads and removes the oldest ERRLOG record. -/
  | errlogRead (m : Mail)
  /-- ERRLOG_COUNTERS (R406). Reads the ERRLOG counters. -/
  | errlogCounters (m : Mail)
  /-- ERRLOG_CLEAR (R406). Clears the ERRLOG counters. -/
  | errlogClear (m : Mail)
  /-- TIME_STATUS (R400). Reads the time servo status. -/
  | timeStatus (m : Mail)
  /-- TIME_STEP (R93). Steps TIME forward by n ns at one interposer edge. -/
  | timeStep (m : Mail)
  /-- TIME_LOAD (R93). Loads TIME forward before the first lock. -/
  | timeLoad (m : Mail)
  /-- TIME_PORT_SELECT (R400). Selects the PTP port of the servo. -/
  | timePortSelect (m : Mail)
  /-- PTP_SYNC (R400). one exchange with the grandmaster: measured offset in ns, resulting rate correction in ppb, identity. -/
  | ptpSync (offset ppb : Int) (master : DWord)
  /-- IO_DIE_FAILOVER (R400). I/O die 1 takes over the servo when I/O die 0 fails. -/
  | ioDieFailover
  /-- KEYS_LOAD (R395). `keys` are the 12 words of key material, `secured` whether the message came inside the SPDM session. -/
  | keysLoad (m : Mail) (keys : List DWord) (secured : Bool)
  /-- KEYS_CLEAR (R395). Clears a key slot on all base dies. -/
  | keysClear (m : Mail)
  /-- KEYS_READ (R406). Reads a key slot's range and generation. -/
  | keysRead (m : Mail)
  /-- TELEMETRY_SET_RING (R96). Sets the die's sillage ring base and size. -/
  | telemetrySetRing (m : Mail)
  /-- TELEMETRY_DRAIN (R406). Sets the sillage drain index, freeing slots. -/
  | telemetryDrain (m : Mail)
  /-- TELEMETRY_READ (R406). Reads sillage counters and temperature. -/
  | telemetryRead (m : Mail)
  /-- ROUTES_SET_PKG (R401). Sets the package identifier when no context or token holder exists. -/
  | routesSetPkg (m : Mail)
  /-- ROUTES_WRITE (R309). Writes route entries of the serving router. -/
  | routesWrite (m : Mail)
  /-- ROUTES_AGEMAX (R316). Sets the router's AGEMAX. -/
  | routesAgemax (m : Mail)
  /-- ROUTES_PARTITION_MAP (R326). Writes part of an external port's partition map. -/
  | routesPartitionMap (m : Mail)
  /-- MIGRATION_THRESHOLD (R290). Sets the access-counter threshold. -/
  | migrationThreshold (m : Mail)
  /-- MIGRATION_READ_COUNTERS (R406). Reads and clears a page's access counters. -/
  | migrationReadCounters (m : Mail)
  /-- GET_VERSION (R397). SPDM request for supported versions over DOE. -/
  | getVersion (req : List Byte)
  /-- GET_CAPABILITIES (R397). SPDM request for capabilities. -/
  | getCapabilities (req : List Byte)
  /-- NEGOTIATE_ALGORITHMS (R397). SPDM request fixing the algorithms. -/
  | negotiateAlgorithms (req : List Byte)
  /-- GET_DIGESTS (R397). SPDM request for certificate digests. -/
  | getDigests (req : List Byte)
  /-- GET_CERTIFICATE (R397). SPDM request for the certificate chain. -/
  | getCertificate (req : List Byte)
  /-- CHALLENGE (R397). SPDM challenge signed by the device. -/
  | challenge (req : List Byte)
  /-- GET_MEASUREMENTS (R397). SPDM request for firmware and configuration measurements. -/
  | getMeasurements (req : List Byte)
  /-- KEY_EXCHANGE (R397). SPDM ECDHE key exchange opening a session. -/
  | keyExchange (req : List Byte)
  /-- FINISH (R397). SPDM request completing session establishment. -/
  | finish (req : List Byte)
  /-- END_SESSION (R397). SPDM request ending a secured session. -/
  | endSession (req : List Byte)
  /-- IDE_KM (R396). Programs PCIe IDE stream keys over SPDM. -/
  | ideKm (fn : Nat) (stream : Nat) (key : List Byte)
  /-- FIRMWARE_IMAGE_WRITE (R398). `image` names the image, `signed` whether its RSA-4096 signature verifies. -/
  | firmwareImageWrite (image : Nat) (signed : Bool)
  /-- POWER_GOOD (R398). At power good every die's ROM verifies the image, booting or entering recovery. -/
  | powerGood
  /-- TDISP_MESSAGE (R396). A TDISP request on a compute-die function's interface, such as the lock sequence that moves it out of ERROR. -/
  | tdispMessage (fn : Nat) (req : TdispReq)
  /-- BASE_DIE_RESET_COMPLETE (R391). A base die in reset finishes its reset, accepts requests again and its stack's granules become reachable. -/
  | baseDieResetComplete (sock : Nat)
  /-- CORE_RESET_COMPLETE (R391). A core in core reset finishes its reset and becomes available to dispatch again. -/
  | coreResetComplete (core : Nat)
  /-- GOVERNOR_CLOCK_CHANGE (R108). An island governor raises or lowers the island clock within its range and the power and current limits. -/
  | governorClockChange (island : Nat) (mhz : Nat)
  deriving DecidableEq, Repr

end Sys2Proof
end

