-- ==== Sys2Proof/WellFormed.lean ====
section
/-!
DEFINITION. Well-formed steps: the limits that the encodings put on the fields of an instruction (R31, R32, R39, R44 and each
description), and the ranges of the numbers by which an asynchronous step names a unit (R4, R7, R100, R365).
-/
namespace Sys2Proof

/-- Whether a step is well formed. -/
def Instr.wf : Instr → Bool
  | .issueAgePromotion gang entry => gang < 32768 && entry < 4
  | .view which _ => which ≤ 2#8
  | .shli _ _ imm => imm < 32#8
  | .shri _ _ imm => imm < 32#8
  | .sari _ _ imm => imm < 32#8
  | .bfe _ _ _ pos len => len != 0 && pos.toNat + len.toNat ≤ 32
  | .bfi _ _ pos len => len != 0 && pos.toNat + len.toNat ≤ 32
  | .cvt _ _ dyn rnd src dst => (!dyn || rnd == 0) && src < 12#4 && dst < 12#4
  | .frnd _ _ _ dyn rnd => !dyn || rnd == 0
  | .gred _ _ _ op => op < 9#4
  | .gscan _ _ _ op => op < 9#4
  | .split _ w => w == 4#8 || w == 8#8 || w == 16#8 || w == 32#8
  | .fusetmoExpiry gang entry => gang < 32768 && entry < 4
  | .gangEnd gang => gang < 32768
  | .joine _ mode => mode < 2#8
  | .dozeWake gang entry => gang < 32768 && entry < 4
  | .ldt _ _ _ size => size < 6#4
  | .stt _ _ _ size => size < 6#4
  | .atomt _ _ _ _ op _ => op < 11#4
  | .ldsp _ _ _ size => size < 4#4
  | .stsp _ _ _ size => size < 4#4
  | .ldp _ _ _ size => size < 6#4
  | .stp _ _ _ size => size < 6#4
  | .ringrot _ _ _ logs logn _ => 2#4 ≤ logs && logs ≤ 10#4 && 1#5 ≤ logn && logn ≤ 20#5
  | .ldg _ _ _ size gx => size < 6#4 && gx.ord != 3#2
  | .stg _ _ _ size gx => size < 6#4 && gx.ord != 3#2
  | .atomg _ _ _ size gx => (size == 2#4 || size == 3#4) && gx.ord < 2#2 && gx.offset.extractLsb' 0 4 < 10#4
  | .faddg _ _ _ size gx => (size == 2#4 || size == 3#4) && gx.ord < 2#2
  | .casg _ _ _ size gx => (size == 2#4 || size == 3#4) && gx.ord < 2#2
  | .prefg _ _ size gx => size == 5#4 && gx.ord == 0#2
  | .acq _ _ _ gx => gx.ord == 2#2
  | .rel _ _ _ gx => gx.ord == 2#2
  | .drainlimExpiry ctx => ctx < 256
  | .preemptEntry gang => gang < 32768
  | .forcedSaveHeldTimeout ctx => ctx < 256
  | .handlerRttTimeout ctx => ctx < 256
  | .tmma _ _ bsrc _ _ _ => bsrc < 12#4
  | .tgmma _ _ bsrc _ _ _ => bsrc < 12#4
  | .tld _ bsrc _ _ => bsrc < 8#4
  | .tst _ bsrc _ _ => bsrc < 8#4
  | .accst _ bsrc _ _ => bsrc < 8#4
  | .accld _ bsrc _ _ => bsrc < 8#4
  | .tamax _ bsrc _ mode => bsrc < 8#4 && mode < 2#2
  | .ttrans bsrc _ _ => bsrc < 8#4 && !bsrc.getLsbD 0
  | .tbmap bsrc _ _ => bsrc < 8#4
  | .strsub bsrc _ _ => 8#4 ≤ bsrc && bsrc < 12#4
  | .stradv bsrc _ => 8#4 ≤ bsrc && bsrc < 12#4
  | .strunsub bsrc _ => 8#4 ≤ bsrc && bsrc < 12#4
  | .tileStep core => core < 512
  | .matrixHang core => core < 512
  | .prismTileWrite team handle => team < 4096 && handle < 4
  | .chainRecordStep die chan => die < 8 && chan < 64
  | .cvop _ _ _ k => k < 12#4
  | .copen _ _ _ k _ => k < 12#4
  | .cstat _ _ which => which < 6#14 || which == 8#14 || which == 9#14
  | .attarStart sock => sock < 16
  | .contributionAccept sock m => sock < 16 && m.slot < 256 && m.index < 64 && m.line.length == 8
  | .slotDeadline sock slot => sock < 16 && slot < 256
  | .contributionRetry sock ctx => ctx < 16 && sock < 16
  | .messageStore sock m => sock < 16 && m.line.length == 8
  | .messageExpiry sock => sock < 16
  | .crecvTimeout sock ctx => ctx < 16 && sock < 16
  | .routerPacketArrive router inPort _ => router < 16 && inPort < 10
  | .outputGrant router out => router < 16 && out < 10
  | .echoReply router _ => router < 16
  | .failedReply router _ => router < 16
  | .linkFlitReceive router port _ _ => router < 16 && port < 7
  | .linkRetrain router port => router < 16 && port < 7
  | .linkDown router port => router < 16 && port < 9
  | .memoryRequest sock p => sock < 26 && p.rsvd == 0
  | .tokenAcquireRequest sock p => sock < 16 && p.rsvd == 0
  | .recallAck sock _ _ => sock < 16
  | .scrubArrays sock => sock < 26
  | .scrubDram sock => sock < 16
  | .hostWrite fn _ _ => fn < 9
  | .hostRead fn _ _ => fn < 9
  | .doorbell die queue _ => die < 8 && queue < 2048
  | .queueEnable die queue => die < 8 && queue < 2048
  | .queueDisable die queue => die < 8 && queue < 2048
  | .queueRecordWrite die queue _ fn _ => die < 8 && queue < 2048 && fn < 9
  | .packetProcessorStep die => die < 8
  | .waitsigTimeout die queue => die < 8 && queue < 2048
  | .launchComplete die _ => die < 8
  | .completionRecordRetry die ctx => die < 8 && ctx < 256
  | .bindRecordWrite die slot _ => die < 8 && slot < 512
  | .teamDispatch die => die < 8
  | .contextValidSet die ctx => die < 8 && ctx < 256
  | .contextValidClear die ctx => die < 8 && ctx < 256
  | .contextRecordWrite die ctx _ _ => die < 8 && ctx < 256
  | .faultReplay die _ => die < 8
  | .faultCancel die _ => die < 8
  | .mmioRegisterWrite sock _ fn _ => sock < 26 && fn < 9
  | .powerRead m => m.sock < 26
  | .powerPackageLimit m => m.sock < 26
  | .powerIslandLimit m => m.sock < 26
  | .powerDieDown m => m.sock < 26
  | .powerDieUp m => m.sock < 26
  | .resetDrain m => m.sock < 26
  | .resetCore m => m.sock < 26
  | .resetMatrixEngine m => m.sock < 26
  | .resetDie m => m.sock < 26
  | .dieResetComplete die => die < 8
  | .resetBaseDie m => m.sock < 26
  | .resetPackage m => m.sock < 26
  | .resetTlbinv m => m.sock < 26
  | .functionLevelReset fn => fn < 9
  | .errlogRead m => m.sock < 26
  | .errlogCounters m => m.sock < 26
  | .errlogClear m => m.sock < 26
  | .timeStatus m => m.sock < 26
  | .timeStep m => m.sock < 26
  | .timeLoad m => m.sock < 26
  | .timePortSelect m => m.sock < 26
  | .keysLoad m keys _ => m.sock < 26 && keys.length == 12
  | .keysClear m => m.sock < 26
  | .keysRead m => m.sock < 26
  | .telemetrySetRing m => m.sock < 26
  | .telemetryDrain m => m.sock < 26
  | .telemetryRead m => m.sock < 26
  | .routesSetPkg m => m.sock < 26
  | .routesWrite m => m.sock < 26
  | .routesAgemax m => m.sock < 26
  | .routesPartitionMap m => m.sock < 26
  | .migrationThreshold m => m.sock < 26
  | .migrationReadCounters m => m.sock < 26
  | .ideKm fn _ _ => fn < 9
  | .tdispMessage fn _ => fn < 9
  | .baseDieResetComplete sock => sock < 16
  | .coreResetComplete core => core < 512
  | .governorClockChange island _ => island < 640
  | .clauseIssue _ | .nop | .mov _ _ | .movi _ _ | .movh _ _ | .movw _ _
  | .sel _ _ _ _ _ _ | .rdsr _ _ | .wrsr _ _ | .add _ _ _ | .sub _ _ _ | .addi _ _ _
  | .mul _ _ _ | .mulhi _ _ _ | .mulhu _ _ _ | .mad _ _ _ | .add64 _ _ _ | .sub64 _ _ _
  | .mul64 _ _ _ | .min _ _ _ | .max _ _ _ | .minu _ _ _ | .maxu _ _ _ | .abs _ _
  | .adds _ _ _ | .and _ _ _ | .or _ _ _ | .xor _ _ _ | .andn _ _ _ | .not _ _
  | .shl _ _ _ | .shr _ _ _ | .sar _ _ _ | .rotl _ _ _ | .popc _ _ | .clz _ _
  | .cmpeq _ _ _ | .cmpne _ _ _ | .cmplt _ _ _ | .cmple _ _ _ | .cmpltu _ _ _ | .cmpleu _ _ _
  | .fcmpeq _ _ _ | .fcmplt _ _ _ | .fcmple _ _ _ | .fcmpun _ _ _ | .pand _ _ _ | .por _ _ _
  | .pxor _ _ _ | .pnot _ _ | .p2v _ _ | .v2p _ _ | .fadd _ _ _ | .fsub _ _ _
  | .fmul _ _ _ | .ffma _ _ _ | .fmin _ _ _ | .fmax _ _ _ | .fabs _ _ | .fneg _ _
  | .frcp _ _ | .frsq _ _ | .fsqrt _ _ | .fdiv _ _ _ | .flog2 _ _ | .fexp2 _ _
  | .fln _ _ | .fexp _ _ | .dadd _ _ _ | .dsub _ _ _ | .dmul _ _ _ | .dfma _ _ _
  | .dmin _ _ _ | .dmax _ _ _ | .ddiv _ _ _ | .dsqrt _ _ | .dcmpeq _ _ _ | .dcmplt _ _ _
  | .dcmple _ _ _ | .dcmpun _ _ _ | .pkln6 _ _ _ _ | .upln6 _ _ _ _ | .shfl _ _ _ _ _ | .shflup _ _ _ _ _
  | .shfldn _ _ _ _ _ | .shflx _ _ _ _ _ | .voteall _ _ | .voteany _ _ | .ballot _ _ | .matchLanes _ _
  | .fuse _ | .converge | .bra _ | .brp _ _ _ | .bru _ _ _ | .brx _
  | .call _ | .callx _ _ | .ret _ | .exit | .trap _ | .rtt
  | .mcall _ _ _ | .fork _ _ _ _ | .doze _ | .yield | .brk | .accessComplete _
  | .waitc _ _ | .fence _ | .bind _ _ _ _ | .unbind _ | .tokacq _ _ _ _ | .tokrel _ _
  | .tokqry _ _ | .coll _ _ _ _ _ | .bar _ _ _ | .bararv _ _ _ | .barwt _ | .mbinit _ _ _
  | .mbarv _ _ _ | .mbwait _ _ | .bseal _ | .bwait _ _ | .clbar _ | .signal _ _
  | .shbegin _ _ | .accept _ _ _ _ | .shabort | .shread _ _ | .rand _ | .rseed _
  | .accrd _ | .accclr | .time _ | .trace _ _ | .cycle _ | .xsave _
  | .xrstr _ | .splrd _ _ | .splwr _ _ | .replv _ | .tlbinv _ _ | .shsave _
  | .shrstr _ | .mstore _ _ | .tzero _ _ | .strdef _ _ | .mloop | .mend
  | .mresume _ _ | .msave _ _ _ | .quarterOpComplete _ | .copy _ _ _ _ | .copyt _ _ _ _ | .copyg _ _ _ _
  | .copys _ _ _ _ | .copym _ _ _ _ | .copyn _ _ _ _ | .fill _ _ _ _ | .chain _ _ _ _ | .chstat _ _ _ _
  | .chabort _ _ _ _ | .migr _ _ _ _ | .copyr _ _ _ _ | .copyJobComplete _ | .copymReceiverArrive _ _ | .netPacketReceive _
  | .netAckReceive _ _ _ | .negativeAck _ | .netRetryTimeout _ | .cmovi _ _ _ | .caddi _ _ _ | .cadd _ _ _
  | .cld _ _ _ | .cst _ _ _ | .cldl _ _ _ | .cstl _ _ _ | .ccont _ _ _ | .cwait _ _
  | .cres _ _ | .csend _ _ _ | .crecv _ _ _ | .cbz _ _ | .cbnz _ _ | .cbra _
  | .csig _ | .cfree _ | .cend | .routeRecompute | .responseTimeout _ | .tokenRecall _
  | .fundamentalReset | .ptpSync _ _ _ | .ioDieFailover | .getVersion _ | .getCapabilities _ | .negotiateAlgorithms _
  | .getDigests _ | .getCertificate _ | .challenge _ | .getMeasurements _ | .keyExchange _ | .finish _
  | .endSession _ | .firmwareImageWrite _ _ | .powerGood => true

end Sys2Proof
end

