-- ==== Sys2Proof/Decode.lean ====
section
/-!
DEFINITION. The decoder (R21 to R49), total on any bytes, and the encoder written from the same tables of the spec.

A word is read under the CLASS of its clause (R24): 0 gang, 1 matrix, 2 copy, 3 collective. What a row of the tables can
reject from the bits of the word alone is rejected here by name; what depends on the state (REGBYTES, the latch, poison, the
privileged state) is the meaning's.
-/
namespace Sys2Proof

open Sys2Proof.Machine BitVec

/-- Why a word is no instruction (R49). -/
inductive Reject where
  /-- A reserved opcode or op (R37, R44). -/
  | illOp
  /-- A reserved or misused field (R31 to R33, R39, R44). -/
  | illOpnd
  /-- The extension word lies beyond COUNT or beyond the microprogram (R25, R47). -/
  | illClause
  deriving DecidableEq, Repr

/-- The header of a clause (R21). -/
structure Header where
  count : BitVec 4
  cls : BitVec 3
  we : Bool
  wctr : BitVec 4
  wthr : BitVec 6
  ge : Bool
  gn : Bool
  gp : BitVec 3
  yld : Bool
  deriving DecidableEq, Repr

/-- The fields of a header word (R21). -/
def headerOf (w : Word) : Header :=
  ⟨field w 28 4, field w 25 3, bit w 24, field w 20 4, field w 14 6, bit w 13, bit w 12, field w 9 3, bit w 8⟩

/-- The header word a gang may issue (R21, R24): `none` where R49 gives ILLCLAUSE at the header. -/
def decodeHeader (w : Word) : Option Header :=
  if field w 28 4 = 0 ∨ field w 25 3 > 2 ∨ field w 0 8 ≠ 0 then none else some (headerOf w)

/-- The header word of a class-3 clause, which only an Attar engine issues (R24, R332): COUNT. -/
def decodeCollHeader (w : Word) : Option Nat :=
  if field w 28 4 = 0 ∨ field w 25 3 ≠ 3 ∨ field w 0 25 ≠ 0 then none else some (bits w 28 4)

/-- The header word of its fields (R21). -/
def encodeHeader (h : Header) : Word :=
  h.count ++ h.cls ++ ofBool h.we ++ h.wctr ++ h.wthr ++ ofBool h.ge ++ ofBool h.gn ++ h.gp ++ ofBool h.yld ++ 0#8

/-- Field D, bits 23:16, of a gang word (R30). -/
abbrev D (w : Word) : BitVec 8 := field w 16 8
/-- Field A, bits 15:8, of a gang word (R30). -/
abbrev A (w : Word) : BitVec 8 := field w 8 8
/-- Field B or imm8, bits 7:0, of a gang word (R30). -/
abbrev B (w : Word) : BitVec 8 := field w 0 8

/-- The fields of a memory GX (R32). -/
def memGx (gx : Word) : MemGx := ⟨bit gx 21, bit gx 20, field gx 18 2, field gx 16 2, field gx 0 16⟩

/-- The checks R32 makes of a memory GX: bits 31:22 zero and ORD not 3. -/
def gxOk (gx : Word) : Bool := field gx 22 10 == 0 && field gx 16 2 != 3#2

/-- The word of a memory GX (R32). -/
def encGx (g : MemGx) : Word := 0#10 ++ ofBool g.nt ++ ofBool g.lat ++ g.scope ++ g.ord ++ g.offset

/-- A checked reading: ILLOPND where a field breaks its rule (R39, R44, R49). -/
def need (c : Bool) (i : Instr) : Except Reject Instr := if c then .ok i else .error .illOpnd

/-- One row of an opcode table: the op, whether an extension word follows, which of D, A and B hold operand bytes that MCALL
substitutes (R46), and the reading of the word and its extension. -/
structure Row where
  op : Nat
  ext : Bool
  subst : Bool × Bool × Bool
  read : Word → Word → Except Reject Instr

def gangRows0 : List Row := [
  ⟨0x00, false, (false, false, false), fun w _ => need (D w == 0 && A w == 0 && B w == 0) (.nop)⟩,
  ⟨0x01, false, (true, true, false), fun w _ => need (B w == 0) (.mov (D w) (A w))⟩,
  ⟨0x02, false, (true, false, false), fun w _ => .ok (.movi (D w) ((field w 0 16)))⟩,
  ⟨0x03, false, (true, false, false), fun w _ => .ok (.movh (D w) ((field w 0 16)))⟩,
  ⟨0x04, true, (true, false, false), fun w gx => need (A w == 0 && B w == 0) (.movw (D w) (gx))⟩,
  ⟨0x05, true, (true, true, true), fun w gx => need (field gx 5 27 == 0) (.sel (D w) (A w) (B w) (bit gx 4) (bit gx 3) (field gx 0 3))⟩,
  ⟨0x06, false, (false, false, false), fun w _ => need (D w ≤ 2#8) (.view (D w) ((field w 0 16)))⟩,
  ⟨0x07, false, (true, false, false), fun w _ => .ok (.rdsr (D w) ((field w 0 16)))⟩,
  ⟨0x08, false, (true, false, false), fun w _ => .ok (.wrsr (D w) ((field w 0 16)))⟩,
  ⟨0x10, false, (true, true, true), fun w _ => .ok (.add (D w) (A w) (B w))⟩,
  ⟨0x11, false, (true, true, true), fun w _ => .ok (.sub (D w) (A w) (B w))⟩,
  ⟨0x12, false, (true, true, false), fun w _ => .ok (.addi (D w) (A w) (B w))⟩,
  ⟨0x13, false, (true, true, true), fun w _ => .ok (.mul (D w) (A w) (B w))⟩,
  ⟨0x14, false, (true, true, true), fun w _ => .ok (.mulhi (D w) (A w) (B w))⟩,
  ⟨0x15, false, (true, true, true), fun w _ => .ok (.mulhu (D w) (A w) (B w))⟩,
  ⟨0x16, false, (true, true, true), fun w _ => .ok (.mad (D w) (A w) (B w))⟩,
  ⟨0x17, false, (true, true, true), fun w _ => .ok (.add64 (D w) (A w) (B w))⟩,
  ⟨0x18, false, (true, true, true), fun w _ => .ok (.sub64 (D w) (A w) (B w))⟩,
  ⟨0x19, false, (true, true, true), fun w _ => .ok (.mul64 (D w) (A w) (B w))⟩,
  ⟨0x1A, false, (true, true, true), fun w _ => .ok (.min (D w) (A w) (B w))⟩,
  ⟨0x1B, false, (true, true, true), fun w _ => .ok (.max (D w) (A w) (B w))⟩,
  ⟨0x1C, false, (true, true, true), fun w _ => .ok (.minu (D w) (A w) (B w))⟩,
  ⟨0x1D, false, (true, true, true), fun w _ => .ok (.maxu (D w) (A w) (B w))⟩,
  ⟨0x1E, false, (true, true, false), fun w _ => need (B w == 0) (.abs (D w) (A w))⟩]

def gangRows1 : List Row := [
  ⟨0x1F, false, (true, true, true), fun w _ => .ok (.adds (D w) (A w) (B w))⟩,
  ⟨0x20, false, (true, true, true), fun w _ => .ok (.and (D w) (A w) (B w))⟩,
  ⟨0x21, false, (true, true, true), fun w _ => .ok (.or (D w) (A w) (B w))⟩,
  ⟨0x22, false, (true, true, true), fun w _ => .ok (.xor (D w) (A w) (B w))⟩,
  ⟨0x23, false, (true, true, true), fun w _ => .ok (.andn (D w) (A w) (B w))⟩,
  ⟨0x24, false, (true, true, false), fun w _ => need (B w == 0) (.not (D w) (A w))⟩,
  ⟨0x25, false, (true, true, true), fun w _ => .ok (.shl (D w) (A w) (B w))⟩,
  ⟨0x26, false, (true, true, true), fun w _ => .ok (.shr (D w) (A w) (B w))⟩,
  ⟨0x27, false, (true, true, true), fun w _ => .ok (.sar (D w) (A w) (B w))⟩,
  ⟨0x28, false, (true, true, false), fun w _ => need (B w < 32#8) (.shli (D w) (A w) (B w))⟩,
  ⟨0x29, false, (true, true, false), fun w _ => need (B w < 32#8) (.shri (D w) (A w) (B w))⟩,
  ⟨0x2A, false, (true, true, false), fun w _ => need (B w < 32#8) (.sari (D w) (A w) (B w))⟩,
  ⟨0x2B, false, (true, true, true), fun w _ => .ok (.rotl (D w) (A w) (B w))⟩,
  ⟨0x2C, false, (true, true, false), fun w _ => need (B w == 0) (.popc (D w) (A w))⟩,
  ⟨0x2D, false, (true, true, false), fun w _ => need (B w == 0) (.clz (D w) (A w))⟩,
  ⟨0x2E, true, (true, true, false), fun w gx => need (B w == 0 && field gx 17 15 == 0 && field gx 13 3 == 0 && field gx 6 2 == 0 && field gx 0 6 != 0 && bits gx 8 5 + bits gx 0 6 ≤ 32) (.bfe (D w) (A w) (bit gx 16) (field gx 8 5) (field gx 0 6))⟩,
  ⟨0x2F, true, (true, true, false), fun w gx => need (B w == 0 && field gx 16 16 == 0 && field gx 13 3 == 0 && field gx 6 2 == 0 && field gx 0 6 != 0 && bits gx 8 5 + bits gx 0 6 ≤ 32) (.bfi (D w) (A w) (field gx 8 5) (field gx 0 6))⟩,
  ⟨0x30, false, (true, true, true), fun w _ => .ok (.cmpeq (D w) (A w) (B w))⟩,
  ⟨0x31, false, (true, true, true), fun w _ => .ok (.cmpne (D w) (A w) (B w))⟩,
  ⟨0x32, false, (true, true, true), fun w _ => .ok (.cmplt (D w) (A w) (B w))⟩,
  ⟨0x33, false, (true, true, true), fun w _ => .ok (.cmple (D w) (A w) (B w))⟩,
  ⟨0x34, false, (true, true, true), fun w _ => .ok (.cmpltu (D w) (A w) (B w))⟩,
  ⟨0x35, false, (true, true, true), fun w _ => .ok (.cmpleu (D w) (A w) (B w))⟩,
  ⟨0x36, false, (true, true, true), fun w _ => .ok (.fcmpeq (D w) (A w) (B w))⟩]

def gangRows2 : List Row := [
  ⟨0x37, false, (true, true, true), fun w _ => .ok (.fcmplt (D w) (A w) (B w))⟩,
  ⟨0x38, false, (true, true, true), fun w _ => .ok (.fcmple (D w) (A w) (B w))⟩,
  ⟨0x39, false, (true, true, true), fun w _ => .ok (.fcmpun (D w) (A w) (B w))⟩,
  ⟨0x3A, false, (true, true, true), fun w _ => .ok (.pand (D w) (A w) (B w))⟩,
  ⟨0x3B, false, (true, true, true), fun w _ => .ok (.por (D w) (A w) (B w))⟩,
  ⟨0x3C, false, (true, true, true), fun w _ => .ok (.pxor (D w) (A w) (B w))⟩,
  ⟨0x3D, false, (true, true, false), fun w _ => need (B w == 0) (.pnot (D w) (A w))⟩,
  ⟨0x3E, false, (true, true, false), fun w _ => need (B w == 0) (.p2v (D w) (A w))⟩,
  ⟨0x3F, false, (true, true, false), fun w _ => need (B w == 0) (.v2p (D w) (A w))⟩,
  ⟨0x40, false, (true, true, true), fun w _ => .ok (.fadd (D w) (A w) (B w))⟩,
  ⟨0x41, false, (true, true, true), fun w _ => .ok (.fsub (D w) (A w) (B w))⟩,
  ⟨0x42, false, (true, true, true), fun w _ => .ok (.fmul (D w) (A w) (B w))⟩,
  ⟨0x43, false, (true, true, true), fun w _ => .ok (.ffma (D w) (A w) (B w))⟩,
  ⟨0x44, false, (true, true, true), fun w _ => .ok (.fmin (D w) (A w) (B w))⟩,
  ⟨0x45, false, (true, true, true), fun w _ => .ok (.fmax (D w) (A w) (B w))⟩,
  ⟨0x46, false, (true, true, false), fun w _ => need (B w == 0) (.fabs (D w) (A w))⟩,
  ⟨0x47, false, (true, true, false), fun w _ => need (B w == 0) (.fneg (D w) (A w))⟩,
  ⟨0x48, false, (true, true, false), fun w _ => need (B w == 0) (.frcp (D w) (A w))⟩,
  ⟨0x49, false, (true, true, false), fun w _ => need (B w == 0) (.frsq (D w) (A w))⟩,
  ⟨0x4A, false, (true, true, false), fun w _ => need (B w == 0) (.fsqrt (D w) (A w))⟩,
  ⟨0x4B, false, (true, true, true), fun w _ => .ok (.fdiv (D w) (A w) (B w))⟩,
  ⟨0x4C, false, (true, true, false), fun w _ => need (B w == 0) (.flog2 (D w) (A w))⟩,
  ⟨0x4D, false, (true, true, false), fun w _ => need (B w == 0) (.fexp2 (D w) (A w))⟩,
  ⟨0x4E, false, (true, true, false), fun w _ => need (B w == 0) (.fln (D w) (A w))⟩]

def gangRows3 : List Row := [
  ⟨0x4F, false, (true, true, false), fun w _ => need (B w == 0) (.fexp (D w) (A w))⟩,
  ⟨0x50, false, (true, true, true), fun w _ => .ok (.dadd (D w) (A w) (B w))⟩,
  ⟨0x51, false, (true, true, true), fun w _ => .ok (.dsub (D w) (A w) (B w))⟩,
  ⟨0x52, false, (true, true, true), fun w _ => .ok (.dmul (D w) (A w) (B w))⟩,
  ⟨0x53, false, (true, true, true), fun w _ => .ok (.dfma (D w) (A w) (B w))⟩,
  ⟨0x54, false, (true, true, true), fun w _ => .ok (.dmin (D w) (A w) (B w))⟩,
  ⟨0x55, false, (true, true, true), fun w _ => .ok (.dmax (D w) (A w) (B w))⟩,
  ⟨0x56, false, (true, true, true), fun w _ => .ok (.ddiv (D w) (A w) (B w))⟩,
  ⟨0x57, false, (true, true, false), fun w _ => need (B w == 0) (.dsqrt (D w) (A w))⟩,
  ⟨0x58, false, (true, true, true), fun w _ => .ok (.dcmpeq (D w) (A w) (B w))⟩,
  ⟨0x59, false, (true, true, true), fun w _ => .ok (.dcmplt (D w) (A w) (B w))⟩,
  ⟨0x5A, false, (true, true, true), fun w _ => .ok (.dcmple (D w) (A w) (B w))⟩,
  ⟨0x5B, false, (true, true, true), fun w _ => .ok (.dcmpun (D w) (A w) (B w))⟩,
  ⟨0x5C, true, (true, true, false), fun w gx => need (B w == 0 && field gx 11 21 == 0 && (!bit gx 10 || field gx 8 2 == 0) && field gx 4 4 < 12#4 && field gx 0 4 < 12#4) (.cvt (D w) (A w) (bit gx 10) (field gx 8 2) (field gx 4 4) (field gx 0 4))⟩,
  ⟨0x5D, true, (true, true, true), fun w gx => need (field gx 3 29 == 0) (.pkln6 (D w) (A w) (B w) (field gx 0 3))⟩,
  ⟨0x5E, true, (true, true, true), fun w gx => need (field gx 3 29 == 0) (.upln6 (D w) (A w) (B w) (field gx 0 3))⟩,
  ⟨0x5F, true, (true, true, false), fun w gx => need (B w == 0 && field gx 12 20 == 0 && field gx 0 8 == 0 && (!bit gx 10 || field gx 8 2 == 0)) (.frnd (D w) (A w) (bit gx 11) (bit gx 10) (field gx 8 2))⟩,
  ⟨0x60, true, (true, true, true), fun w gx => need (field gx 5 27 == 0 && !bit gx 3) (.shfl (D w) (A w) (B w) (bit gx 4) (field gx 0 3))⟩,
  ⟨0x61, true, (true, true, true), fun w gx => need (field gx 5 27 == 0 && !bit gx 3) (.shflup (D w) (A w) (B w) (bit gx 4) (field gx 0 3))⟩,
  ⟨0x62, true, (true, true, true), fun w gx => need (field gx 5 27 == 0 && !bit gx 3) (.shfldn (D w) (A w) (B w) (bit gx 4) (field gx 0 3))⟩,
  ⟨0x63, true, (true, true, true), fun w gx => need (field gx 5 27 == 0 && !bit gx 3) (.shflx (D w) (A w) (B w) (bit gx 4) (field gx 0 3))⟩,
  ⟨0x64, false, (true, true, false), fun w _ => need (B w == 0) (.voteall (D w) (A w))⟩,
  ⟨0x65, false, (true, true, false), fun w _ => need (B w == 0) (.voteany (D w) (A w))⟩,
  ⟨0x66, false, (true, true, false), fun w _ => need (B w == 0) (.ballot (D w) (A w))⟩]

def gangRows4 : List Row := [
  ⟨0x67, true, (true, true, false), fun w gx => need (B w == 0 && field gx 5 27 == 0 && field gx 0 4 < 9#4) (.gred (D w) (A w) (bit gx 4) (field gx 0 4))⟩,
  ⟨0x68, true, (true, true, false), fun w gx => need (B w == 0 && field gx 5 27 == 0 && field gx 0 4 < 9#4) (.gscan (D w) (A w) (bit gx 4) (field gx 0 4))⟩,
  ⟨0x69, false, (true, true, false), fun w _ => need (B w == 0) (.matchLanes (D w) (A w))⟩,
  ⟨0x6A, false, (true, false, false), fun w _ => need (A w == 0 && (B w == 4#8 || B w == 8#8 || B w == 16#8 || B w == 32#8)) (.split (D w) (B w))⟩,
  ⟨0x6B, false, (true, false, false), fun w _ => need (A w == 0 && B w == 0) (.fuse (D w))⟩,
  ⟨0x6C, false, (false, false, false), fun w _ => need (D w == 0 && A w == 0 && B w == 0) (.converge)⟩,
  ⟨0x70, false, (false, false, false), fun w _ => .ok (.bra (field w 0 24))⟩,
  ⟨0x71, false, (false, false, false), fun w _ => .ok (.brp (bit w 23) (field w 20 3) (field w 0 20))⟩,
  ⟨0x72, false, (false, false, false), fun w _ => .ok (.bru (bit w 23) (field w 20 3) (field w 0 20))⟩,
  ⟨0x73, false, (false, true, false), fun w _ => need (D w == 0 && B w == 0) (.brx (A w))⟩,
  ⟨0x74, false, (false, false, false), fun w _ => .ok (.call (field w 0 24))⟩,
  ⟨0x75, false, (true, true, false), fun w _ => need (B w == 0) (.callx (D w) (A w))⟩,
  ⟨0x76, false, (false, true, false), fun w _ => need (D w == 0 && B w == 0) (.ret (A w))⟩,
  ⟨0x77, false, (false, false, false), fun w _ => need (D w == 0 && A w == 0 && B w == 0) (.exit)⟩,
  ⟨0x78, false, (false, false, false), fun w _ => need (D w == 0) (.trap ((field w 0 16)))⟩,
  ⟨0x79, false, (false, false, false), fun w _ => need (D w == 0 && A w == 0 && B w == 0) (.rtt)⟩,
  ⟨0x7A, true, (false, false, true), fun w gx => need (A w == 0) (.mcall (D w) (B w) (gx))⟩,
  ⟨0x7B, true, (true, true, true), fun w gx => need (field gx 4 28 == 0) (.fork (D w) (A w) (B w) (field gx 0 4))⟩,
  ⟨0x7C, false, (true, false, false), fun w _ => need (A w == 0 && B w < 2#8) (.joine (D w) (B w))⟩,
  ⟨0x7D, false, (false, true, false), fun w _ => need (D w == 0 && B w == 0) (.doze (A w))⟩,
  ⟨0x7E, false, (false, false, false), fun w _ => need (D w == 0 && A w == 0 && B w == 0) (.yield)⟩,
  ⟨0x7F, false, (false, false, false), fun w _ => need (D w == 0 && A w == 0 && B w == 0) (.brk)⟩,
  ⟨0x80, false, (true, true, false), fun w _ => need (field w 0 4 < 6#4) (.ldt (D w) (A w) (field w 4 4) (field w 0 4))⟩,
  ⟨0x81, false, (true, true, false), fun w _ => need (field w 0 4 < 6#4) (.stt (D w) (A w) (field w 4 4) (field w 0 4))⟩]

def gangRows5 : List Row := [
  ⟨0x82, true, (true, true, true), fun w gx => need (field gx 9 23 == 0 && field gx 4 4 < 11#4) (.atomt (D w) (A w) (B w) (bit gx 8) (field gx 4 4) (field gx 0 4))⟩,
  ⟨0x83, false, (true, true, false), fun w _ => need (field w 0 4 < 4#4) (.ldsp (D w) (A w) (field w 4 4) (field w 0 4))⟩,
  ⟨0x84, false, (true, true, false), fun w _ => need (field w 0 4 < 4#4) (.stsp (D w) (A w) (field w 4 4) (field w 0 4))⟩,
  ⟨0x85, false, (true, true, false), fun w _ => need (field w 0 4 < 6#4) (.ldp (D w) (A w) (field w 4 4) (field w 0 4))⟩,
  ⟨0x86, false, (true, true, false), fun w _ => need (field w 0 4 < 6#4) (.stp (D w) (A w) (field w 4 4) (field w 0 4))⟩,
  ⟨0x87, true, (true, true, true), fun w gx => need (field gx 13 19 == 0 && 2#4 ≤ field gx 9 4 && field gx 9 4 ≤ 10#4 && 1#5 ≤ field gx 4 5 && field gx 4 5 ≤ 20#5) (.ringrot (D w) (A w) (B w) (field gx 9 4) (field gx 4 5) (field gx 0 4))⟩,
  ⟨0x90, true, (true, true, false), fun w gx => need (field w 0 4 < 6#4 && gxOk gx) (.ldg (D w) (A w) (field w 4 4) (field w 0 4) (memGx gx))⟩,
  ⟨0x91, true, (true, true, false), fun w gx => need (field w 0 4 < 6#4 && gxOk gx) (.stg (D w) (A w) (field w 4 4) (field w 0 4) (memGx gx))⟩,
  ⟨0x92, true, (true, true, false), fun w gx => need ((field w 0 4 == 2#4 || field w 0 4 == 3#4) && gxOk gx && field gx 16 2 != 2#2 && field gx 0 4 < 10#4) (.atomg (D w) (A w) (field w 4 4) (field w 0 4) (memGx gx))⟩,
  ⟨0x93, true, (true, true, false), fun w gx => need ((field w 0 4 == 2#4 || field w 0 4 == 3#4) && gxOk gx && field gx 16 2 != 2#2) (.faddg (D w) (A w) (field w 4 4) (field w 0 4) (memGx gx))⟩,
  ⟨0x94, true, (true, true, false), fun w gx => need ((field w 0 4 == 2#4 || field w 0 4 == 3#4) && gxOk gx && field gx 16 2 != 2#2) (.casg (D w) (A w) (field w 4 4) (field w 0 4) (memGx gx))⟩,
  ⟨0x95, true, (false, true, false), fun w gx => need (D w == 0 && field w 0 4 == 5#4 && gxOk gx && field gx 16 2 == 0) (.prefg (A w) (field w 4 4) (field w 0 4) (memGx gx))⟩,
  ⟨0x96, false, (false, false, false), fun w _ => need (A w == 0 && D w < 16#8) (.waitc (field w 16 4) (B w))⟩,
  ⟨0x97, false, (false, false, false), fun w _ => need (D w == 0 && A w == 0 && B w < 4#8) (.fence (field w 0 2))⟩,
  ⟨0x98, true, (true, true, false), fun w gx => need (field w 0 4 == 3#4 && gxOk gx && field gx 16 2 == 2#2) (.acq (D w) (A w) (field w 4 4) (memGx gx))⟩,
  ⟨0x99, true, (true, true, false), fun w gx => need (field w 0 4 == 3#4 && gxOk gx && field gx 16 2 == 2#2) (.rel (D w) (A w) (field w 4 4) (memGx gx))⟩,
  ⟨0x9A, true, (true, true, true), fun w gx => need (field gx 2 30 == 0) (.bind (D w) (A w) (B w) (field gx 0 2))⟩,
  ⟨0x9B, false, (false, true, false), fun w _ => need (D w == 0 && B w == 0) (.unbind (A w))⟩,
  ⟨0x9C, true, (true, true, false), fun w gx => need (B w == 0 && field gx 5 27 == 0) (.tokacq (D w) (A w) (bit gx 4) (field gx 0 4))⟩,
  ⟨0x9D, false, (true, true, false), fun w _ => need (B w == 0) (.tokrel (D w) (A w))⟩,
  ⟨0x9E, false, (true, true, false), fun w _ => need (B w == 0) (.tokqry (D w) (A w))⟩,
  ⟨0x9F, true, (true, true, true), fun w gx => need (field gx 8 24 == 0) (.coll (D w) (A w) (B w) (field gx 4 4) (field gx 0 4))⟩,
  ⟨0xA0, false, (false, false, false), fun w _ => need (D w < 16#8 && A w < 2#8) (.bar (field w 16 4) (bit w 8) (B w))⟩,
  ⟨0xA1, false, (false, false, false), fun w _ => need (D w < 16#8 && A w < 2#8) (.bararv (field w 16 4) (bit w 8) (B w))⟩]

def gangRows6 : List Row := [
  ⟨0xA2, false, (false, false, false), fun w _ => need (D w < 16#8 && A w == 0 && B w == 0) (.barwt (field w 16 4))⟩,
  ⟨0xA3, false, (true, true, false), fun w _ => need (field w 0 4 == 3#4) (.mbinit (D w) (A w) (field w 4 4))⟩,
  ⟨0xA4, false, (true, true, false), fun w _ => need (field w 0 4 == 3#4) (.mbarv (D w) (A w) (field w 4 4))⟩,
  ⟨0xA5, false, (true, true, false), fun w _ => need (B w == 3#8) (.mbwait (D w) (A w))⟩,
  ⟨0xA6, false, (true, false, false), fun w _ => need (field w 0 16 == 0) (.bseal (D w))⟩,
  ⟨0xA7, false, (true, false, false), fun w _ => .ok (.bwait (D w) ((field w 0 16)))⟩,
  ⟨0xA8, false, (false, false, false), fun w _ => need (D w == 0 && A w < 2#8 && B w == 0) (.clbar (bit w 8))⟩,
  ⟨0xA9, false, (false, true, true), fun w _ => need (D w == 0) (.signal (A w) (B w))⟩,
  ⟨0xB0, false, (true, false, false), fun w _ => need (A w == 0) (.shbegin (D w) (B w))⟩,
  ⟨0xB1, true, (true, true, true), fun w gx => need (field gx 1 31 == 0) (.accept (D w) (A w) (B w) (bit gx 0))⟩,
  ⟨0xB2, false, (false, false, false), fun w _ => need (D w == 0 && A w == 0 && B w == 0) (.shabort)⟩,
  ⟨0xB3, false, (true, true, false), fun w _ => need (B w == 0) (.shread (D w) (A w))⟩,
  ⟨0xB4, false, (true, false, false), fun w _ => need (A w == 0 && B w == 0) (.rand (D w))⟩,
  ⟨0xB5, false, (false, true, false), fun w _ => need (D w == 0 && B w == 0) (.rseed (A w))⟩,
  ⟨0xB6, false, (true, false, false), fun w _ => need (A w == 0 && B w == 0) (.accrd (D w))⟩,
  ⟨0xB7, false, (false, false, false), fun w _ => need (D w == 0 && A w == 0 && B w == 0) (.accclr)⟩,
  ⟨0xB8, false, (true, false, false), fun w _ => need (A w == 0 && B w == 0) (.time (D w))⟩,
  ⟨0xB9, true, (false, true, false), fun w gx => need (D w == 0 && B w == 0 && field gx 16 16 == 0) (.trace (A w) (field gx 0 16))⟩,
  ⟨0xBA, false, (true, false, false), fun w _ => need (A w == 0 && B w == 0) (.cycle (D w))⟩,
  ⟨0xC0, false, (false, true, false), fun w _ => need (D w == 0 && B w == 0) (.xsave (A w))⟩,
  ⟨0xC1, false, (false, true, false), fun w _ => need (D w == 0 && B w == 0) (.xrstr (A w))⟩,
  ⟨0xC2, false, (true, true, false), fun w _ => need (B w == 0) (.splrd (D w) (A w))⟩,
  ⟨0xC3, false, (false, true, true), fun w _ => need (D w == 0) (.splwr (A w) (B w))⟩,
  ⟨0xC4, false, (false, true, false), fun w _ => need (D w == 0 && B w == 0) (.replv (A w))⟩]

def gangRows7 : List Row := [
  ⟨0xC5, false, (false, true, true), fun w _ => need (D w == 0) (.tlbinv (A w) (B w))⟩,
  ⟨0xC6, false, (false, true, false), fun w _ => need (D w == 0 && B w == 0) (.shsave (A w))⟩,
  ⟨0xC7, false, (false, true, false), fun w _ => need (D w == 0 && B w == 0) (.shrstr (A w))⟩,
  ⟨0xC8, false, (false, true, true), fun w _ => need (D w == 0) (.mstore (A w) (B w))⟩]

/-- The gang opcode map (R37), with the formats of R38. -/
def gangRows : List Row :=
  gangRows0 ++ gangRows1 ++ gangRows2 ++ gangRows3 ++ gangRows4 ++ gangRows5 ++ gangRows6 ++ gangRows7

def matrixRows0 : List Row := [
  ⟨0x01, false, (false, false, false), fun w _ => need (field w 6 4 < 12#4) (.tmma (field w 14 4) (field w 10 4) (field w 6 4) (field w 18 8) (field w 2 4) (field w 0 2))⟩,
  ⟨0x02, false, (false, false, false), fun w _ => need (field w 6 4 < 12#4) (.tgmma (field w 14 4) (field w 10 4) (field w 6 4) (field w 18 8) (field w 2 4) (field w 0 2))⟩,
  ⟨0x03, false, (false, false, false), fun w _ => need (field w 18 8 == 0 && field w 10 4 == 0 && field w 6 4 == 0 && field w 0 2 == 0) (.tzero (field w 14 4) (field w 2 4))⟩,
  ⟨0x04, false, (false, false, false), fun w _ => need (field w 18 8 == 0 && field w 14 4 == 0 && field w 6 4 < 8#4) (.tld (field w 10 4) (field w 6 4) (field w 2 4) (field w 0 2))⟩,
  ⟨0x05, false, (false, false, false), fun w _ => need (field w 18 8 == 0 && field w 14 4 == 0 && field w 6 4 < 8#4) (.tst (field w 10 4) (field w 6 4) (field w 2 4) (field w 0 2))⟩,
  ⟨0x06, false, (false, false, false), fun w _ => need (field w 18 8 == 0 && field w 10 4 == 0 && field w 6 4 < 8#4) (.accst (field w 14 4) (field w 6 4) (field w 2 4) (field w 0 2))⟩,
  ⟨0x07, false, (false, false, false), fun w _ => need (field w 18 8 == 0 && field w 10 4 == 0 && field w 6 4 < 8#4) (.accld (field w 14 4) (field w 6 4) (field w 2 4) (field w 0 2))⟩,
  ⟨0x08, false, (false, false, false), fun w _ => need (field w 18 8 == 0 && field w 10 4 == 0 && field w 6 4 < 8#4 && field w 0 2 < 2#2) (.tamax (field w 14 4) (field w 6 4) (field w 2 4) (field w 0 2))⟩,
  ⟨0x09, false, (false, false, false), fun w _ => need (field w 14 4 == 0 && field w 10 4 == 0 && field w 0 2 == 0 && field w 6 4 < 8#4 && !bit w 6) (.ttrans (field w 6 4) (field w 18 8) (field w 2 4))⟩,
  ⟨0x0A, false, (false, false, false), fun w _ => need (field w 14 4 == 0 && field w 10 4 == 0 && field w 0 2 == 0 && field w 6 4 < 8#4) (.tbmap (field w 6 4) (field w 18 8) (field w 2 4))⟩,
  ⟨0x0B, false, (false, false, false), fun w _ => need (field w 14 4 == 0 && field w 10 4 == 0 && field w 6 4 == 0 && field w 0 2 == 0) (.strdef (field w 18 8) (field w 2 4))⟩,
  ⟨0x0C, false, (false, false, false), fun w _ => need (field w 14 4 == 0 && field w 10 4 == 0 && field w 0 2 == 0 && 8#4 ≤ field w 6 4 && field w 6 4 < 12#4) (.strsub (field w 6 4) (field w 18 8) (field w 2 4))⟩,
  ⟨0x0D, false, (false, false, false), fun w _ => need (field w 18 8 == 0 && field w 14 4 == 0 && field w 10 4 == 0 && field w 0 2 == 0 && 8#4 ≤ field w 6 4 && field w 6 4 < 12#4) (.stradv (field w 6 4) (field w 2 4))⟩,
  ⟨0x0E, false, (false, false, false), fun w _ => need (field w 18 8 == 0 && field w 14 4 == 0 && field w 10 4 == 0 && field w 0 2 == 0 && 8#4 ≤ field w 6 4 && field w 6 4 < 12#4) (.strunsub (field w 6 4) (field w 2 4))⟩,
  ⟨0x0F, false, (false, false, false), fun w _ => need (field w 18 8 == 0 && field w 14 4 == 0 && field w 10 4 == 0 && field w 6 4 == 0 && field w 2 4 == 0 && field w 0 2 == 0) (.mloop )⟩,
  ⟨0x10, false, (false, false, false), fun w _ => need (field w 18 8 == 0 && field w 14 4 == 0 && field w 10 4 == 0 && field w 6 4 == 0 && field w 2 4 == 0 && field w 0 2 == 0) (.mend )⟩,
  ⟨0x11, false, (false, false, false), fun w _ => need (field w 14 4 == 0 && field w 10 4 == 0 && field w 6 4 == 0 && field w 0 2 == 0) (.mresume (field w 18 8) (field w 2 4))⟩,
  ⟨0x12, false, (false, false, false), fun w _ => need (field w 14 4 == 0 && field w 10 4 == 0 && field w 6 4 == 0 && !bit w 1) (.msave (field w 18 8) (field w 2 4) (bit w 0))⟩]

/-- The matrix ops (R44, R259). -/
def matrixRows : List Row :=
  matrixRows0

def copyRows0 : List Row := [
  ⟨0x01, false, (false, false, false), fun w _ => need (field w 0 5 == 0) (.copy (field w 18 8) (field w 10 8) (field w 6 4) (bit w 5))⟩,
  ⟨0x02, false, (false, false, false), fun w _ => need (field w 0 5 == 0) (.copyt (field w 18 8) (field w 10 8) (field w 6 4) (bit w 5))⟩,
  ⟨0x03, false, (false, false, false), fun w _ => need (field w 0 5 == 0) (.copyg (field w 18 8) (field w 10 8) (field w 6 4) (bit w 5))⟩,
  ⟨0x04, false, (false, false, false), fun w _ => need (field w 0 5 == 0) (.copys (field w 18 8) (field w 10 8) (field w 6 4) (bit w 5))⟩,
  ⟨0x05, false, (false, false, false), fun w _ => need (field w 0 5 == 0) (.copym (field w 18 8) (field w 10 8) (field w 6 4) (bit w 5))⟩,
  ⟨0x06, false, (false, false, false), fun w _ => need (field w 0 5 == 0) (.copyn (field w 18 8) (field w 10 8) (field w 6 4) (bit w 5))⟩,
  ⟨0x07, false, (false, false, false), fun w _ => need (field w 0 5 == 0) (.fill (field w 18 8) (field w 10 8) (field w 6 4) (bit w 5))⟩,
  ⟨0x08, false, (false, false, false), fun w _ => need (field w 0 5 == 0) (.chain (field w 18 8) (field w 10 8) (field w 6 4) (bit w 5))⟩,
  ⟨0x09, false, (false, false, false), fun w _ => need (field w 0 5 == 0) (.chstat (field w 18 8) (field w 10 8) (field w 6 4) (bit w 5))⟩,
  ⟨0x0A, false, (false, false, false), fun w _ => need (field w 0 5 == 0) (.chabort (field w 18 8) (field w 10 8) (field w 6 4) (bit w 5))⟩,
  ⟨0x0B, false, (false, false, false), fun w _ => need (field w 0 5 == 0) (.migr (field w 18 8) (field w 10 8) (field w 6 4) (bit w 5))⟩,
  ⟨0x0C, false, (false, false, false), fun w _ => need (field w 0 5 == 0) (.copyr (field w 18 8) (field w 10 8) (field w 6 4) (bit w 5))⟩]

/-- The copy ops (R44, R291). -/
def copyRows : List Row :=
  copyRows0

def collRows0 : List Row := [
  ⟨0x01, false, (false, false, false), fun w _ => need (field w 14 4 == 0) (.cmovi (field w 22 4) (field w 18 4) (field w 0 14))⟩,
  ⟨0x02, false, (false, false, false), fun w _ => need (field w 14 4 == 0) (.caddi (field w 22 4) (field w 18 4) (field w 0 14))⟩,
  ⟨0x03, false, (false, false, false), fun w _ => need (field w 0 14 == 0) (.cadd (field w 22 4) (field w 18 4) (field w 14 4))⟩,
  ⟨0x04, false, (false, false, false), fun w _ => need (field w 14 4 == 0) (.cld (field w 22 4) (field w 18 4) (field w 0 14))⟩,
  ⟨0x05, false, (false, false, false), fun w _ => need (field w 22 4 == 0) (.cst (field w 18 4) (field w 14 4) (field w 0 14))⟩,
  ⟨0x06, false, (false, false, false), fun w _ => need (!bit w 25 && field w 14 4 == 0) (.cldl (field w 22 3) (field w 18 4) (field w 0 14))⟩,
  ⟨0x07, false, (false, false, false), fun w _ => need (field w 22 4 == 0 && !bit w 17) (.cstl (field w 18 4) (field w 14 3) (field w 0 14))⟩,
  ⟨0x08, false, (false, false, false), fun w _ => need (!bit w 25 && !bit w 21 && !bit w 17 && field w 4 10 == 0 && field w 0 4 < 12#4) (.cvop (field w 22 3) (field w 18 3) (field w 14 3) (field w 0 4))⟩,
  ⟨0x09, false, (false, false, false), fun w _ => need (field w 12 2 == 0 && field w 8 4 < 12#4) (.copen (field w 22 4) (field w 18 4) (field w 14 4) (field w 8 4) (field w 0 8))⟩,
  ⟨0x0A, false, (false, false, false), fun w _ => need (!bit w 17 && field w 0 14 == 0) (.ccont (field w 22 4) (field w 18 4) (field w 14 3))⟩,
  ⟨0x0B, false, (false, false, false), fun w _ => need (field w 14 4 == 0 && field w 0 14 == 0) (.cwait (field w 22 4) (field w 18 4))⟩,
  ⟨0x0C, false, (false, false, false), fun w _ => need (!bit w 25 && field w 14 4 == 0 && field w 0 14 == 0) (.cres (field w 22 3) (field w 18 4))⟩,
  ⟨0x0D, false, (false, false, false), fun w _ => need (field w 14 4 == 0 && (field w 0 14 < 6#14 || field w 0 14 == 8#14 || field w 0 14 == 9#14)) (.cstat (field w 22 4) (field w 18 4) (field w 0 14))⟩,
  ⟨0x0E, false, (false, false, false), fun w _ => need (!bit w 17 && field w 0 14 == 0) (.csend (field w 22 4) (field w 18 4) (field w 14 3))⟩,
  ⟨0x0F, false, (false, false, false), fun w _ => need (!bit w 25 && field w 0 14 == 0) (.crecv (field w 22 3) (field w 18 4) (field w 14 4))⟩,
  ⟨0x10, false, (false, false, false), fun w _ => need (field w 22 4 == 0 && field w 14 4 == 0) (.cbz (field w 18 4) (field w 0 14))⟩,
  ⟨0x11, false, (false, false, false), fun w _ => need (field w 22 4 == 0 && field w 14 4 == 0) (.cbnz (field w 18 4) (field w 0 14))⟩,
  ⟨0x12, false, (false, false, false), fun w _ => need (field w 22 4 == 0 && field w 18 4 == 0 && field w 14 4 == 0) (.cbra (field w 0 14))⟩,
  ⟨0x13, false, (false, false, false), fun w _ => need (field w 22 4 == 0 && field w 14 4 == 0 && field w 0 14 == 0) (.csig (field w 18 4))⟩,
  ⟨0x14, false, (false, false, false), fun w _ => need (field w 22 4 == 0 && field w 14 4 == 0 && field w 0 14 == 0) (.cfree (field w 18 4))⟩,
  ⟨0x15, false, (false, false, false), fun w _ => need (field w 0 26 == 0) (.cend)⟩]

/-- The collective ops (R44, R341). -/
def collRows : List Row :=
  collRows0

/-- The row of an op in a table. -/
def findRow (rows : List Row) (op : Nat) : Option Row := rows.find? fun r => r.op == op

/-- The table and the op of a word under a class (R37, R44). -/
def rowOf (cls : Nat) (w : Word) : Option Row :=
  match cls with
  | 0 => findRow gangRows (bits w 24 8)
  | 1 => findRow matrixRows (bits w 26 6)
  | 2 => findRow copyRows (bits w 26 6)
  | 3 => findRow collRows (bits w 26 6)
  | _ => none

/-- The instruction a word is under a class, `gx` being the word that follows it inside its clause or microprogram (R24, R25). -/
def decodeWord (cls : Nat) (w : Word) (gx : Option Word) : Except Reject Instr :=
  match rowOf cls w with
  | none => .error .illOp
  | some r =>
    if r.ext then
      match gx with
      | none => .error .illClause
      | some x => r.read w x
    else r.read w 0

/-- How many words the instruction of a word takes: 2 with an extension, else 1 (R25). -/
def wordLen (cls : Nat) (w : Word) : Nat :=
  match rowOf cls w with
  | some r => if r.ext then 2 else 1
  | none => 1

/-- The operand byte a microprogram field stands for: $k for 0xF8 + k, itself otherwise (R46). -/
def substByte (params : BitVec 64) (f : BitVec 8) : BitVec 8 :=
  if f < 0xF8#8 then f else params.extractLsb' (8 * (f.toNat - 0xF8)) 8

/-- A microprogram word after MCALL's substitution of its operand-byte fields (R46). -/
def substWord (params : BitVec 64) (w : Word) : Word :=
  match findRow gangRows (bits w 24 8) with
  | none => w
  | some r =>
    let s (c : Bool) (f : BitVec 8) := if c then substByte params f else f
    field w 24 8 ++ s r.subst.1 (D w) ++ s r.subst.2.1 (A w) ++ s r.subst.2.2 (B w)

/-- The first little-endian word of a byte list and the rest (R1). -/
def takeWord : List Byte → Option (Word × List Byte)
  | b0 :: b1 :: b2 :: b3 :: t => some (b3 ++ b2 ++ b1 ++ b0, t)
  | _ => none

/-- The decoder on bytes: the instruction at the head of the list and the bytes after it. A list that ends inside the
instruction is rejected as an extension beyond the clause is. -/
def decodeBytes (cls : Nat) (bs : List Byte) : Except Reject (Instr × List Byte) :=
  match takeWord bs with
  | none => .error .illClause
  | some (w, t) =>
    if wordLen cls w = 2 then
      match takeWord t with
      | none => .error .illClause
      | some (x, t') =>
        match decodeWord cls w (some x) with
        | .ok i => .ok (i, t')
        | .error e => .error e
    else
      match decodeWord cls w none with
      | .ok i => .ok (i, t)
      | .error e => .error e

/-- The class and the words of an instruction (R30 to R32, R41 to R43 and the descriptions' GX tables); class 4 and no word
for a step that is no instruction word. -/
def encode : Instr → Nat × List Word
  | .clauseIssue hdr => (4, [hdr])
  | .nop => (0, [0x00#8 ++ 0#8 ++ 0#8 ++ 0#8])
  | .mov d a => (0, [0x01#8 ++ d ++ a ++ 0#8])
  | .movi d imm => (0, [0x02#8 ++ d ++ imm])
  | .movh d imm => (0, [0x03#8 ++ d ++ imm])
  | .movw d imm => (0, [0x04#8 ++ d ++ 0#8 ++ 0#8, imm])
  | .sel d a b wide neg pred => (0, [0x05#8 ++ d ++ a ++ b, 0#27 ++ ofBool wide ++ ofBool neg ++ pred])
  | .view which imm => (0, [0x06#8 ++ which ++ imm])
  | .rdsr d num => (0, [0x07#8 ++ d ++ num])
  | .wrsr d num => (0, [0x08#8 ++ d ++ num])
  | .add d a b => (0, [0x10#8 ++ d ++ a ++ b])
  | .sub d a b => (0, [0x11#8 ++ d ++ a ++ b])
  | .addi d a imm => (0, [0x12#8 ++ d ++ a ++ imm])
  | .mul d a b => (0, [0x13#8 ++ d ++ a ++ b])
  | .mulhi d a b => (0, [0x14#8 ++ d ++ a ++ b])
  | .mulhu d a b => (0, [0x15#8 ++ d ++ a ++ b])
  | .mad d a b => (0, [0x16#8 ++ d ++ a ++ b])
  | .add64 d a b => (0, [0x17#8 ++ d ++ a ++ b])
  | .sub64 d a b => (0, [0x18#8 ++ d ++ a ++ b])
  | .mul64 d a b => (0, [0x19#8 ++ d ++ a ++ b])
  | .min d a b => (0, [0x1A#8 ++ d ++ a ++ b])
  | .max d a b => (0, [0x1B#8 ++ d ++ a ++ b])
  | .minu d a b => (0, [0x1C#8 ++ d ++ a ++ b])
  | .maxu d a b => (0, [0x1D#8 ++ d ++ a ++ b])
  | .abs d a => (0, [0x1E#8 ++ d ++ a ++ 0#8])
  | .adds d a b => (0, [0x1F#8 ++ d ++ a ++ b])
  | .and d a b => (0, [0x20#8 ++ d ++ a ++ b])
  | .or d a b => (0, [0x21#8 ++ d ++ a ++ b])
  | .xor d a b => (0, [0x22#8 ++ d ++ a ++ b])
  | .andn d a b => (0, [0x23#8 ++ d ++ a ++ b])
  | .not d a => (0, [0x24#8 ++ d ++ a ++ 0#8])
  | .shl d a b => (0, [0x25#8 ++ d ++ a ++ b])
  | .shr d a b => (0, [0x26#8 ++ d ++ a ++ b])
  | .sar d a b => (0, [0x27#8 ++ d ++ a ++ b])
  | .shli d a imm => (0, [0x28#8 ++ d ++ a ++ imm])
  | .shri d a imm => (0, [0x29#8 ++ d ++ a ++ imm])
  | .sari d a imm => (0, [0x2A#8 ++ d ++ a ++ imm])
  | .rotl d a b => (0, [0x2B#8 ++ d ++ a ++ b])
  | .popc d a => (0, [0x2C#8 ++ d ++ a ++ 0#8])
  | .clz d a => (0, [0x2D#8 ++ d ++ a ++ 0#8])
  | .bfe d a sx pos len => (0, [0x2E#8 ++ d ++ a ++ 0#8, 0#15 ++ ofBool sx ++ 0#3 ++ pos ++ 0#2 ++ len])
  | .bfi d a pos len => (0, [0x2F#8 ++ d ++ a ++ 0#8, 0#19 ++ pos ++ 0#2 ++ len])
  | .cmpeq d a b => (0, [0x30#8 ++ d ++ a ++ b])
  | .cmpne d a b => (0, [0x31#8 ++ d ++ a ++ b])
  | .cmplt d a b => (0, [0x32#8 ++ d ++ a ++ b])
  | .cmple d a b => (0, [0x33#8 ++ d ++ a ++ b])
  | .cmpltu d a b => (0, [0x34#8 ++ d ++ a ++ b])
  | .cmpleu d a b => (0, [0x35#8 ++ d ++ a ++ b])
  | .fcmpeq d a b => (0, [0x36#8 ++ d ++ a ++ b])
  | .fcmplt d a b => (0, [0x37#8 ++ d ++ a ++ b])
  | .fcmple d a b => (0, [0x38#8 ++ d ++ a ++ b])
  | .fcmpun d a b => (0, [0x39#8 ++ d ++ a ++ b])
  | .pand d a b => (0, [0x3A#8 ++ d ++ a ++ b])
  | .por d a b => (0, [0x3B#8 ++ d ++ a ++ b])
  | .pxor d a b => (0, [0x3C#8 ++ d ++ a ++ b])
  | .pnot d a => (0, [0x3D#8 ++ d ++ a ++ 0#8])
  | .p2v d a => (0, [0x3E#8 ++ d ++ a ++ 0#8])
  | .v2p d a => (0, [0x3F#8 ++ d ++ a ++ 0#8])
  | .fadd d a b => (0, [0x40#8 ++ d ++ a ++ b])
  | .fsub d a b => (0, [0x41#8 ++ d ++ a ++ b])
  | .fmul d a b => (0, [0x42#8 ++ d ++ a ++ b])
  | .ffma d a b => (0, [0x43#8 ++ d ++ a ++ b])
  | .fmin d a b => (0, [0x44#8 ++ d ++ a ++ b])
  | .fmax d a b => (0, [0x45#8 ++ d ++ a ++ b])
  | .fabs d a => (0, [0x46#8 ++ d ++ a ++ 0#8])
  | .fneg d a => (0, [0x47#8 ++ d ++ a ++ 0#8])
  | .frcp d a => (0, [0x48#8 ++ d ++ a ++ 0#8])
  | .frsq d a => (0, [0x49#8 ++ d ++ a ++ 0#8])
  | .fsqrt d a => (0, [0x4A#8 ++ d ++ a ++ 0#8])
  | .fdiv d a b => (0, [0x4B#8 ++ d ++ a ++ b])
  | .flog2 d a => (0, [0x4C#8 ++ d ++ a ++ 0#8])
  | .fexp2 d a => (0, [0x4D#8 ++ d ++ a ++ 0#8])
  | .fln d a => (0, [0x4E#8 ++ d ++ a ++ 0#8])
  | .fexp d a => (0, [0x4F#8 ++ d ++ a ++ 0#8])
  | .dadd d a b => (0, [0x50#8 ++ d ++ a ++ b])
  | .dsub d a b => (0, [0x51#8 ++ d ++ a ++ b])
  | .dmul d a b => (0, [0x52#8 ++ d ++ a ++ b])
  | .dfma d a b => (0, [0x53#8 ++ d ++ a ++ b])
  | .dmin d a b => (0, [0x54#8 ++ d ++ a ++ b])
  | .dmax d a b => (0, [0x55#8 ++ d ++ a ++ b])
  | .ddiv d a b => (0, [0x56#8 ++ d ++ a ++ b])
  | .dsqrt d a => (0, [0x57#8 ++ d ++ a ++ 0#8])
  | .dcmpeq d a b => (0, [0x58#8 ++ d ++ a ++ b])
  | .dcmplt d a b => (0, [0x59#8 ++ d ++ a ++ b])
  | .dcmple d a b => (0, [0x5A#8 ++ d ++ a ++ b])
  | .dcmpun d a b => (0, [0x5B#8 ++ d ++ a ++ b])
  | .cvt d a dyn rnd src dst => (0, [0x5C#8 ++ d ++ a ++ 0#8, 0#21 ++ ofBool dyn ++ rnd ++ src ++ dst])
  | .pkln6 d a b j => (0, [0x5D#8 ++ d ++ a ++ b, 0#29 ++ j])
  | .upln6 d a b j => (0, [0x5E#8 ++ d ++ a ++ b, 0#29 ++ j])
  | .frnd d a wide dyn rnd => (0, [0x5F#8 ++ d ++ a ++ 0#8, 0#20 ++ ofBool wide ++ ofBool dyn ++ rnd ++ 0#8])
  | .shfl d a b wide pv => (0, [0x60#8 ++ d ++ a ++ b, 0#27 ++ ofBool wide ++ 0#1 ++ pv])
  | .shflup d a b wide pv => (0, [0x61#8 ++ d ++ a ++ b, 0#27 ++ ofBool wide ++ 0#1 ++ pv])
  | .shfldn d a b wide pv => (0, [0x62#8 ++ d ++ a ++ b, 0#27 ++ ofBool wide ++ 0#1 ++ pv])
  | .shflx d a b wide pv => (0, [0x63#8 ++ d ++ a ++ b, 0#27 ++ ofBool wide ++ 0#1 ++ pv])
  | .voteall d a => (0, [0x64#8 ++ d ++ a ++ 0#8])
  | .voteany d a => (0, [0x65#8 ++ d ++ a ++ 0#8])
  | .ballot d a => (0, [0x66#8 ++ d ++ a ++ 0#8])
  | .gred d a wide op => (0, [0x67#8 ++ d ++ a ++ 0#8, 0#27 ++ ofBool wide ++ op])
  | .gscan d a wide op => (0, [0x68#8 ++ d ++ a ++ 0#8, 0#27 ++ ofBool wide ++ op])
  | .matchLanes d a => (0, [0x69#8 ++ d ++ a ++ 0#8])
  | .split d w => (0, [0x6A#8 ++ d ++ 0#8 ++ w])
  | .fuse d => (0, [0x6B#8 ++ d ++ 0#8 ++ 0#8])
  | .converge => (0, [0x6C#8 ++ 0#8 ++ 0#8 ++ 0#8])
  | .bra disp => (0, [0x70#8 ++ disp])
  | .brp neg pred disp => (0, [0x71#8 ++ ofBool neg ++ pred ++ disp])
  | .bru neg pred disp => (0, [0x72#8 ++ ofBool neg ++ pred ++ disp])
  | .brx a => (0, [0x73#8 ++ 0#8 ++ a ++ 0#8])
  | .call disp => (0, [0x74#8 ++ disp])
  | .callx d a => (0, [0x75#8 ++ d ++ a ++ 0#8])
  | .ret a => (0, [0x76#8 ++ 0#8 ++ a ++ 0#8])
  | .exit => (0, [0x77#8 ++ 0#8 ++ 0#8 ++ 0#8])
  | .trap imm => (0, [0x78#8 ++ 0#8 ++ imm])
  | .rtt => (0, [0x79#8 ++ 0#8 ++ 0#8 ++ 0#8])
  | .mcall n b params => (0, [0x7A#8 ++ n ++ 0#8 ++ b, params])
  | .fork d a b ctr => (0, [0x7B#8 ++ d ++ a ++ b, 0#28 ++ ctr])
  | .joine d mode => (0, [0x7C#8 ++ d ++ 0#8 ++ mode])
  | .doze a => (0, [0x7D#8 ++ 0#8 ++ a ++ 0#8])
  | .yield => (0, [0x7E#8 ++ 0#8 ++ 0#8 ++ 0#8])
  | .brk => (0, [0x7F#8 ++ 0#8 ++ 0#8 ++ 0#8])
  | .ldt d a ctr size => (0, [0x80#8 ++ d ++ a ++ ctr ++ size])
  | .stt d a ctr size => (0, [0x81#8 ++ d ++ a ++ ctr ++ size])
  | .atomt d a b wide op ctr => (0, [0x82#8 ++ d ++ a ++ b, 0#23 ++ ofBool wide ++ op ++ ctr])
  | .ldsp d a ctr size => (0, [0x83#8 ++ d ++ a ++ ctr ++ size])
  | .stsp d a ctr size => (0, [0x84#8 ++ d ++ a ++ ctr ++ size])
  | .ldp d a ctr size => (0, [0x85#8 ++ d ++ a ++ ctr ++ size])
  | .stp d a ctr size => (0, [0x86#8 ++ d ++ a ++ ctr ++ size])
  | .ringrot d a b logs logn ctr => (0, [0x87#8 ++ d ++ a ++ b, 0#19 ++ logs ++ logn ++ ctr])
  | .ldg d a ctr size gx => (0, [0x90#8 ++ d ++ a ++ ctr ++ size, encGx gx])
  | .stg d a ctr size gx => (0, [0x91#8 ++ d ++ a ++ ctr ++ size, encGx gx])
  | .atomg d a ctr size gx => (0, [0x92#8 ++ d ++ a ++ ctr ++ size, encGx gx])
  | .faddg d a ctr size gx => (0, [0x93#8 ++ d ++ a ++ ctr ++ size, encGx gx])
  | .casg d a ctr size gx => (0, [0x94#8 ++ d ++ a ++ ctr ++ size, encGx gx])
  | .prefg a ctr size gx => (0, [0x95#8 ++ 0#8 ++ a ++ ctr ++ size, encGx gx])
  | .waitc ctr n => (0, [0x96#8 ++ 0#4 ++ ctr ++ 0#8 ++ n])
  | .fence scope => (0, [0x97#8 ++ 0#8 ++ 0#8 ++ 0#6 ++ scope])
  | .acq d a ctr gx => (0, [0x98#8 ++ d ++ a ++ ctr ++ 3#4, encGx gx])
  | .rel d a ctr gx => (0, [0x99#8 ++ d ++ a ++ ctr ++ 3#4, encGx gx])
  | .bind d a b scope => (0, [0x9A#8 ++ d ++ a ++ b, 0#30 ++ scope])
  | .unbind a => (0, [0x9B#8 ++ 0#8 ++ a ++ 0#8])
  | .tokacq d a ex ctr => (0, [0x9C#8 ++ d ++ a ++ 0#8, 0#27 ++ ofBool ex ++ ctr])
  | .tokrel d a => (0, [0x9D#8 ++ d ++ a ++ 0#8])
  | .tokqry d a => (0, [0x9E#8 ++ d ++ a ++ 0#8])
  | .coll d a b sock ctr => (0, [0x9F#8 ++ d ++ a ++ b, 0#24 ++ sock ++ ctr])
  | .bar k pub n4 => (0, [0xA0#8 ++ 0#4 ++ k ++ 0#7 ++ ofBool pub ++ n4])
  | .bararv k pub n4 => (0, [0xA1#8 ++ 0#4 ++ k ++ 0#7 ++ ofBool pub ++ n4])
  | .barwt k => (0, [0xA2#8 ++ 0#4 ++ k ++ 0#8 ++ 0#8])
  | .mbinit d a ctr => (0, [0xA3#8 ++ d ++ a ++ ctr ++ 3#4])
  | .mbarv d a ctr => (0, [0xA4#8 ++ d ++ a ++ ctr ++ 3#4])
  | .mbwait d a => (0, [0xA5#8 ++ d ++ a ++ 3#8])
  | .bseal d => (0, [0xA6#8 ++ d ++ 0#16])
  | .bwait d imm => (0, [0xA7#8 ++ d ++ imm])
  | .clbar pub => (0, [0xA8#8 ++ 0#8 ++ 0#7 ++ ofBool pub ++ 0#8])
  | .signal a b => (0, [0xA9#8 ++ 0#8 ++ a ++ b])
  | .shbegin vbase n => (0, [0xB0#8 ++ vbase ++ 0#8 ++ n])
  | .accept d a b natural => (0, [0xB1#8 ++ d ++ a ++ b, 0#31 ++ ofBool natural])
  | .shabort => (0, [0xB2#8 ++ 0#8 ++ 0#8 ++ 0#8])
  | .shread d a => (0, [0xB3#8 ++ d ++ a ++ 0#8])
  | .rand d => (0, [0xB4#8 ++ d ++ 0#8 ++ 0#8])
  | .rseed a => (0, [0xB5#8 ++ 0#8 ++ a ++ 0#8])
  | .accrd d => (0, [0xB6#8 ++ d ++ 0#8 ++ 0#8])
  | .accclr => (0, [0xB7#8 ++ 0#8 ++ 0#8 ++ 0#8])
  | .time d => (0, [0xB8#8 ++ d ++ 0#8 ++ 0#8])
  | .trace a tag => (0, [0xB9#8 ++ 0#8 ++ a ++ 0#8, 0#16 ++ tag])
  | .cycle d => (0, [0xBA#8 ++ d ++ 0#8 ++ 0#8])
  | .xsave a => (0, [0xC0#8 ++ 0#8 ++ a ++ 0#8])
  | .xrstr a => (0, [0xC1#8 ++ 0#8 ++ a ++ 0#8])
  | .splrd d a => (0, [0xC2#8 ++ d ++ a ++ 0#8])
  | .splwr a b => (0, [0xC3#8 ++ 0#8 ++ a ++ b])
  | .replv a => (0, [0xC4#8 ++ 0#8 ++ a ++ 0#8])
  | .tlbinv a b => (0, [0xC5#8 ++ 0#8 ++ a ++ b])
  | .shsave a => (0, [0xC6#8 ++ 0#8 ++ a ++ 0#8])
  | .shrstr a => (0, [0xC7#8 ++ 0#8 ++ a ++ 0#8])
  | .mstore a b => (0, [0xC8#8 ++ 0#8 ++ a ++ b])
  | .tmma acc tile bsrc f ctr mode => (1, [0x01#6 ++ f ++ acc ++ tile ++ bsrc ++ ctr ++ mode])
  | .tgmma acc tile bsrc f ctr mode => (1, [0x02#6 ++ f ++ acc ++ tile ++ bsrc ++ ctr ++ mode])
  | .tzero acc ctr => (1, [0x03#6 ++ 0#8 ++ acc ++ 0#4 ++ 0#4 ++ ctr ++ 0#2])
  | .tld tile bsrc ctr mode => (1, [0x04#6 ++ 0#8 ++ 0#4 ++ tile ++ bsrc ++ ctr ++ mode])
  | .tst tile bsrc ctr mode => (1, [0x05#6 ++ 0#8 ++ 0#4 ++ tile ++ bsrc ++ ctr ++ mode])
  | .accst acc bsrc ctr mode => (1, [0x06#6 ++ 0#8 ++ acc ++ 0#4 ++ bsrc ++ ctr ++ mode])
  | .accld acc bsrc ctr mode => (1, [0x07#6 ++ 0#8 ++ acc ++ 0#4 ++ bsrc ++ ctr ++ mode])
  | .tamax acc bsrc ctr mode => (1, [0x08#6 ++ 0#8 ++ acc ++ 0#4 ++ bsrc ++ ctr ++ mode])
  | .ttrans bsrc f ctr => (1, [0x09#6 ++ f ++ 0#4 ++ 0#4 ++ bsrc ++ ctr ++ 0#2])
  | .tbmap bsrc f ctr => (1, [0x0A#6 ++ f ++ 0#4 ++ 0#4 ++ bsrc ++ ctr ++ 0#2])
  | .strdef f ctr => (1, [0x0B#6 ++ f ++ 0#4 ++ 0#4 ++ 0#4 ++ ctr ++ 0#2])
  | .strsub bsrc f ctr => (1, [0x0C#6 ++ f ++ 0#4 ++ 0#4 ++ bsrc ++ ctr ++ 0#2])
  | .stradv bsrc ctr => (1, [0x0D#6 ++ 0#8 ++ 0#4 ++ 0#4 ++ bsrc ++ ctr ++ 0#2])
  | .strunsub bsrc ctr => (1, [0x0E#6 ++ 0#8 ++ 0#4 ++ 0#4 ++ bsrc ++ ctr ++ 0#2])
  | .mloop => (1, [0x0F#6 ++ 0#8 ++ 0#4 ++ 0#4 ++ 0#4 ++ 0#4 ++ 0#2])
  | .mend => (1, [0x10#6 ++ 0#8 ++ 0#4 ++ 0#4 ++ 0#4 ++ 0#4 ++ 0#2])
  | .mresume f ctr => (1, [0x11#6 ++ f ++ 0#4 ++ 0#4 ++ 0#4 ++ ctr ++ 0#2])
  | .msave f ctr release => (1, [0x12#6 ++ f ++ 0#4 ++ 0#4 ++ 0#4 ++ ctr ++ 0#1 ++ ofBool release])
  | .copy d a ctr sealed => (2, [0x01#6 ++ d ++ a ++ ctr ++ ofBool sealed ++ 0#5])
  | .copyt d a ctr sealed => (2, [0x02#6 ++ d ++ a ++ ctr ++ ofBool sealed ++ 0#5])
  | .copyg d a ctr sealed => (2, [0x03#6 ++ d ++ a ++ ctr ++ ofBool sealed ++ 0#5])
  | .copys d a ctr sealed => (2, [0x04#6 ++ d ++ a ++ ctr ++ ofBool sealed ++ 0#5])
  | .copym d a ctr sealed => (2, [0x05#6 ++ d ++ a ++ ctr ++ ofBool sealed ++ 0#5])
  | .copyn d a ctr sealed => (2, [0x06#6 ++ d ++ a ++ ctr ++ ofBool sealed ++ 0#5])
  | .fill d a ctr sealed => (2, [0x07#6 ++ d ++ a ++ ctr ++ ofBool sealed ++ 0#5])
  | .chain d a ctr sealed => (2, [0x08#6 ++ d ++ a ++ ctr ++ ofBool sealed ++ 0#5])
  | .chstat d a ctr sealed => (2, [0x09#6 ++ d ++ a ++ ctr ++ ofBool sealed ++ 0#5])
  | .chabort d a ctr sealed => (2, [0x0A#6 ++ d ++ a ++ ctr ++ ofBool sealed ++ 0#5])
  | .migr d a ctr sealed => (2, [0x0B#6 ++ d ++ a ++ ctr ++ ofBool sealed ++ 0#5])
  | .copyr d a ctr sealed => (2, [0x0C#6 ++ d ++ a ++ ctr ++ ofBool sealed ++ 0#5])
  | .cmovi xd sh imm => (3, [0x01#6 ++ xd ++ sh ++ 0#4 ++ imm])
  | .caddi xd xa imm => (3, [0x02#6 ++ xd ++ xa ++ 0#4 ++ imm])
  | .cadd xd xa xb => (3, [0x03#6 ++ xd ++ xa ++ xb ++ 0#14])
  | .cld xd xa imm => (3, [0x04#6 ++ xd ++ xa ++ 0#4 ++ imm])
  | .cst xa xb imm => (3, [0x05#6 ++ 0#4 ++ xa ++ xb ++ imm])
  | .cldl ld xa imm => (3, [0x06#6 ++ 0#1 ++ ld ++ xa ++ 0#4 ++ imm])
  | .cstl xa lb imm => (3, [0x07#6 ++ 0#4 ++ xa ++ 0#1 ++ lb ++ imm])
  | .cvop ld la lb k => (3, [0x08#6 ++ 0#1 ++ ld ++ 0#1 ++ la ++ 0#1 ++ lb ++ 0#10 ++ k])
  | .copen xd xa xb k base => (3, [0x09#6 ++ xd ++ xa ++ xb ++ 0#2 ++ k ++ base])
  | .ccont xd xa lb => (3, [0x0A#6 ++ xd ++ xa ++ 0#1 ++ lb ++ 0#14])
  | .cwait xd xa => (3, [0x0B#6 ++ xd ++ xa ++ 0#4 ++ 0#14])
  | .cres ld xa => (3, [0x0C#6 ++ 0#1 ++ ld ++ xa ++ 0#4 ++ 0#14])
  | .cstat xd xa sel => (3, [0x0D#6 ++ xd ++ xa ++ 0#4 ++ sel])
  | .csend xd xa lb => (3, [0x0E#6 ++ xd ++ xa ++ 0#1 ++ lb ++ 0#14])
  | .crecv ld xa xb => (3, [0x0F#6 ++ 0#1 ++ ld ++ xa ++ xb ++ 0#14])
  | .cbz xa disp => (3, [0x10#6 ++ 0#4 ++ xa ++ 0#4 ++ disp])
  | .cbnz xa disp => (3, [0x11#6 ++ 0#4 ++ xa ++ 0#4 ++ disp])
  | .cbra disp => (3, [0x12#6 ++ 0#4 ++ 0#4 ++ 0#4 ++ disp])
  | .csig xa => (3, [0x13#6 ++ 0#4 ++ xa ++ 0#4 ++ 0#14])
  | .cfree xa => (3, [0x14#6 ++ 0#4 ++ xa ++ 0#4 ++ 0#14])
  | .cend => (3, [0x15#6 ++ 0#4 ++ 0#4 ++ 0#4 ++ 0#14])
  | .issueAgePromotion _ _ | .fusetmoExpiry _ _ | .gangEnd _
  | .dozeWake _ _ | .accessComplete _ | .drainlimExpiry _ | .preemptEntry _
  | .forcedSaveHeldTimeout _ | .handlerRttTimeout _ | .quarterOpComplete _ | .tileStep _
  | .matrixHang _ | .prismTileWrite _ _ | .copyJobComplete _ | .chainRecordStep _ _
  | .copymReceiverArrive _ _ | .netPacketReceive _ | .netAckReceive _ _ _ | .negativeAck _
  | .netRetryTimeout _ | .attarStart _ | .contributionAccept _ _ | .slotDeadline _ _
  | .contributionRetry _ _ | .messageStore _ _ | .messageExpiry _ | .crecvTimeout _ _
  | .routerPacketArrive _ _ _ | .outputGrant _ _ | .echoReply _ _ | .failedReply _ _
  | .linkFlitReceive _ _ _ _ | .linkRetrain _ _ | .linkDown _ _ | .routeRecompute
  | .responseTimeout _ | .memoryRequest _ _ | .tokenAcquireRequest _ _ | .tokenRecall _
  | .recallAck _ _ _ | .scrubArrays _ | .scrubDram _ | .hostWrite _ _ _
  | .hostRead _ _ _ | .doorbell _ _ _ | .queueEnable _ _ | .queueDisable _ _
  | .queueRecordWrite _ _ _ _ _ | .packetProcessorStep _ | .waitsigTimeout _ _ | .launchComplete _ _
  | .completionRecordRetry _ _ | .bindRecordWrite _ _ _ | .teamDispatch _ | .contextValidSet _ _
  | .contextValidClear _ _ | .contextRecordWrite _ _ _ _ | .faultReplay _ _ | .faultCancel _ _
  | .mmioRegisterWrite _ _ _ _ | .powerRead _ | .powerPackageLimit _ | .powerIslandLimit _
  | .powerDieDown _ | .powerDieUp _ | .resetDrain _ | .resetCore _
  | .resetMatrixEngine _ | .resetDie _ | .dieResetComplete _ | .resetBaseDie _
  | .resetPackage _ | .resetTlbinv _ | .functionLevelReset _ | .fundamentalReset
  | .errlogRead _ | .errlogCounters _ | .errlogClear _ | .timeStatus _
  | .timeStep _ | .timeLoad _ | .timePortSelect _ | .ptpSync _ _ _
  | .ioDieFailover | .keysLoad _ _ _ | .keysClear _ | .keysRead _
  | .telemetrySetRing _ | .telemetryDrain _ | .telemetryRead _ | .routesSetPkg _
  | .routesWrite _ | .routesAgemax _ | .routesPartitionMap _ | .migrationThreshold _
  | .migrationReadCounters _ | .getVersion _ | .getCapabilities _ | .negotiateAlgorithms _
  | .getDigests _ | .getCertificate _ | .challenge _ | .getMeasurements _
  | .keyExchange _ | .finish _ | .endSession _ | .ideKm _ _ _
  | .firmwareImageWrite _ _ | .powerGood | .tdispMessage _ _ | .baseDieResetComplete _
  | .coreResetComplete _ | .governorClockChange _ _ => (4, [])

/-- The bytes of an instruction as the hardware stores them (R1). -/
def encodeBytes (i : Instr) : List Byte := wordBytes (encode i).2

/-- Whether an instruction is a control transfer, which must end its clause (R26). -/
def isTransfer : Instr → Bool
  | .bra _ | .brp _ _ _ | .bru _ _ _ | .brx _ | .call _ | .callx _ _ | .ret _ | .exit | .rtt => true
  | _ => false

/-- Whether an Attar instruction is a control transfer (R332). -/
def isCollTransfer : Instr → Bool
  | .cbz _ _ | .cbnz _ _ | .cbra _ | .cend => true
  | _ => false

/-- The reading of a table word: numbers the words as the opcode table does, the first word in bits 31:0 and its extension
above. The table gives the words of the four classes without their clause, so one number may be words of several classes; the
first class that accepts it is taken, in the order gang word without extension, matrix, copy, collective, gang word with
extension (DESIGN CHOICE, log entry 3). [DESIGN CHOICE, log entry 3] -/
def tableClass (w : Nat) : Option (Nat × Instr) :=
  let lo := BitVec.ofNat 32 w
  let hi := BitVec.ofNat 32 (w / 2 ^ 32)
  let gang := decodeWord 0 lo (some hi)
  match wordLen 0 lo, gang, decodeWord 1 lo none, decodeWord 2 lo none, decodeWord 3 lo none with
  | 1, .ok i, _, _, _ => some (0, i)
  | _, _, .ok i, _, _ => some (1, i)
  | _, _, _, .ok i, _ => some (2, i)
  | _, _, _, _, .ok i => some (3, i)
  | _, .ok i, _, _, _ => some (0, i)
  | _, _, _, _, _ => none

/-- The instruction the decoder reads from a word of the opcode table (its bits above `nbits` are zero). [DESIGN CHOICE, log entry 3] -/
def decodeTableWord (nbits w : Nat) : Option Instr := (tableClass (w % 2 ^ nbits)).map (·.2)

end Sys2Proof
end

