-- ==== Sys2Proof/Config.lean ====
section
/-!
DEFINITION. What the spec leaves to an implementation or leaves open: constants without a body, so that nothing can be proved
of their values (log entries 5, 30, 38, 40, 41, 42, 53).
-/
namespace Sys2Proof.Config

/-- How many nanoseconds TIME advances during step n (R92). [DESIGN CHOICE, log entries 5 and 47] -/
opaque elapsedNs : Nat → Nat

/-- The value number n that the spec does not state. [DESIGN CHOICE, log entry 42] -/
opaque freeValue : Nat → DWord

/-- The reading number n of a sensor of socket s: 0 package power, 1 core-rail current, 2 highest temperature (R406). [DESIGN CHOICE, log entry 40] -/
opaque sensor : Nat → Nat → Nat → DWord

/-- The bytes that the attestation kernels compute for a response, from the request and the response's number (R397). [PRESUMED, log entry 41] -/
opaque attest : Nat → List Byte → List Byte

/-- The SHA-512 digest of the firmware that the die of a socket runs from an image (R397). [PRESUMED, log entry 41] -/
opaque firmwareDigest : Nat → Nat → BitVec 512

/-- The ROM version, and the security configuration as the attestation kernels report it (R397). [PRESUMED, log entry 41] -/
opaque romVersion : Word
opaque securityConfig : Nat → DWord

/-- The key of a function's TDISP interface that its lock makes, by the number of the step (R392, R396). [PRESUMED, log entry 41] -/
opaque interfaceKey : Nat → Nat → DWord

/-- The byte that a read during a step returns at an offset of a doorbell page or of the replay register (R365, R368, R386). [DESIGN CHOICE, log entry 30] -/
opaque registerByte : Nat → Nat → Byte

/-- Whether the data of a lane lands in its registers when it comes, during a step, or when its operation completes (R36). [DESIGN CHOICE, log entry 53] -/
opaque landsEarly : Nat → Nat → Bool

/-- The nominal clock in MHz of an island that is no core's (R399, R406). [DESIGN CHOICE, log entry 38] -/
opaque nominalClock : Nat → Nat

end Sys2Proof.Config
end

