-- ==== Sys2Proof/Machine/Cipher.lean ====
section
/-!
DEFINITION. The cipher and the tag of sealed lines (R324): AES-256, XTS with a 64-byte data unit, and AES-CMAC.
-/
namespace Sys2Proof.Machine

def sbox0 : List Nat := [
  0x63, 0x7c, 0x77, 0x7b, 0xf2, 0x6b, 0x6f, 0xc5, 0x30, 0x01, 0x67, 0x2b, 0xfe, 0xd7, 0xab, 0x76,
  0xca, 0x82, 0xc9, 0x7d, 0xfa, 0x59, 0x47, 0xf0, 0xad, 0xd4, 0xa2, 0xaf, 0x9c, 0xa4, 0x72, 0xc0,
  0xb7, 0xfd, 0x93, 0x26, 0x36, 0x3f, 0xf7, 0xcc, 0x34, 0xa5, 0xe5, 0xf1, 0x71, 0xd8, 0x31, 0x15,
  0x04, 0xc7, 0x23, 0xc3, 0x18, 0x96, 0x05, 0x9a, 0x07, 0x12, 0x80, 0xe2, 0xeb, 0x27, 0xb2, 0x75]

def sbox1 : List Nat := [
  0x09, 0x83, 0x2c, 0x1a, 0x1b, 0x6e, 0x5a, 0xa0, 0x52, 0x3b, 0xd6, 0xb3, 0x29, 0xe3, 0x2f, 0x84,
  0x53, 0xd1, 0x00, 0xed, 0x20, 0xfc, 0xb1, 0x5b, 0x6a, 0xcb, 0xbe, 0x39, 0x4a, 0x4c, 0x58, 0xcf,
  0xd0, 0xef, 0xaa, 0xfb, 0x43, 0x4d, 0x33, 0x85, 0x45, 0xf9, 0x02, 0x7f, 0x50, 0x3c, 0x9f, 0xa8,
  0x51, 0xa3, 0x40, 0x8f, 0x92, 0x9d, 0x38, 0xf5, 0xbc, 0xb6, 0xda, 0x21, 0x10, 0xff, 0xf3, 0xd2]

def sbox2 : List Nat := [
  0xcd, 0x0c, 0x13, 0xec, 0x5f, 0x97, 0x44, 0x17, 0xc4, 0xa7, 0x7e, 0x3d, 0x64, 0x5d, 0x19, 0x73,
  0x60, 0x81, 0x4f, 0xdc, 0x22, 0x2a, 0x90, 0x88, 0x46, 0xee, 0xb8, 0x14, 0xde, 0x5e, 0x0b, 0xdb,
  0xe0, 0x32, 0x3a, 0x0a, 0x49, 0x06, 0x24, 0x5c, 0xc2, 0xd3, 0xac, 0x62, 0x91, 0x95, 0xe4, 0x79,
  0xe7, 0xc8, 0x37, 0x6d, 0x8d, 0xd5, 0x4e, 0xa9, 0x6c, 0x56, 0xf4, 0xea, 0x65, 0x7a, 0xae, 0x08]

def sbox3 : List Nat := [
  0xba, 0x78, 0x25, 0x2e, 0x1c, 0xa6, 0xb4, 0xc6, 0xe8, 0xdd, 0x74, 0x1f, 0x4b, 0xbd, 0x8b, 0x8a,
  0x70, 0x3e, 0xb5, 0x66, 0x48, 0x03, 0xf6, 0x0e, 0x61, 0x35, 0x57, 0xb9, 0x86, 0xc1, 0x1d, 0x9e,
  0xe1, 0xf8, 0x98, 0x11, 0x69, 0xd9, 0x8e, 0x94, 0x9b, 0x1e, 0x87, 0xe9, 0xce, 0x55, 0x28, 0xdf,
  0x8c, 0xa1, 0x89, 0x0d, 0xbf, 0xe6, 0x42, 0x68, 0x41, 0x99, 0x2d, 0x0f, 0xb0, 0x54, 0xbb, 0x16]

/-- The AES S-box. -/
def sbox : List Nat := sbox0 ++ sbox1 ++ sbox2 ++ sbox3

def subByte (b : Byte) : Byte := BitVec.ofNat 8 (sbox.getD b.toNat 0)

/-- The byte of the S-box whose image is b. -/
def invSubByte (b : Byte) : Byte := BitVec.ofNat 8 (sbox.idxOf b.toNat)

/-- Multiplication by x in the field of AES. -/
def xtime (b : Byte) : Byte := (b <<< 1) ^^^ (if b.msb then 0x1b else 0)

/-- Multiplication in the field of AES by a number below 16. -/
def gmul (k : Nat) (b : Byte) : Byte :=
  (if k.testBit 0 then b else 0) ^^^ (if k.testBit 1 then xtime b else 0)
    ^^^ (if k.testBit 2 then xtime (xtime b) else 0) ^^^ (if k.testBit 3 then xtime (xtime (xtime b)) else 0)

def xorBytes (a b : List Byte) : List Byte := a.zipWith (· ^^^ ·) b

/-- The round-key words of AES-256 from the last eight words, newest first: n more words. -/
def expandKey : Nat → Nat → Byte → List (List Byte) → List (List Byte)
  | 0, _, _, ws => ws
  | n + 1, i, rcon, ws =>
    let prev := ws.getD 0 []
    let old := ws.getD 7 []
    let t :=
      if i % 8 = 0 then xorBytes ((prev.drop 1 ++ prev.take 1).map subByte) [rcon, 0, 0, 0]
      else if i % 8 = 4 then prev.map subByte
      else prev
    expandKey n (i + 1) (if i % 8 = 0 then xtime rcon else rcon) (xorBytes old t :: ws)

/-- The 15 round keys of a 32-byte key. -/
def roundKeys (key : List Byte) : List (List Byte) :=
  let first := (List.range 8).map fun i => (key.drop (4 * i)).take 4
  let ws := (expandKey 52 8 1 first.reverse).reverse
  (List.range 15).map fun r => ((ws.drop (4 * r)).take 4).flatten

/-- Byte r of column c moved to column c − r (R324; AES ShiftRows). -/
def shiftRows (s : List Byte) : List Byte :=
  (List.range 16).map fun i => s.getD ((i + 4 * (i % 4)) % 16) 0

def invShiftRows (s : List Byte) : List Byte :=
  (List.range 16).map fun i => s.getD ((i + 16 - 4 * (i % 4)) % 16) 0

/-- Each column multiplied by the circulant of the four coefficients. -/
def mixColumns (k0 k1 k2 k3 : Nat) (s : List Byte) : List Byte :=
  (List.range 16).map fun i =>
    let c := i / 4 * 4
    let r := i % 4
    let at' (j : Nat) := s.getD (c + (r + j) % 4) 0
    gmul k0 (at' 0) ^^^ gmul k1 (at' 1) ^^^ gmul k2 (at' 2) ^^^ gmul k3 (at' 3)

/-- AES-256 encryption of a 16-byte block. -/
def aesEncrypt (key block : List Byte) : List Byte :=
  let ks := roundKeys key
  let mid := (List.range 13).foldl
    (fun s r => xorBytes (mixColumns 2 3 1 1 (shiftRows (s.map subByte))) (ks.getD (r + 1) [])) (xorBytes block (ks.getD 0 []))
  xorBytes (shiftRows (mid.map subByte)) (ks.getD 14 [])

/-- AES-256 decryption of a 16-byte block. -/
def aesDecrypt (key block : List Byte) : List Byte :=
  let ks := roundKeys key
  let first := (invShiftRows (xorBytes block (ks.getD 14 []))).map invSubByte
  let mid := (List.range 13).foldl
    (fun s r => (invShiftRows (mixColumns 14 11 13 9 (xorBytes s (ks.getD (13 - r) [])))).map invSubByte) first
  xorBytes mid (ks.getD 0 [])

/-- The tweak times alpha, a 16-byte little-endian polynomial (IEEE 1619). -/
def timesAlpha (t : List Byte) : List Byte :=
  let v := ofLeBytes t * 2
  leBytes 16 (if v < 2 ^ 128 then v else (v - 2 ^ 128) ^^^ 0x87)

/-- XTS over whole 16-byte blocks. -/
def xts (f : List Byte → List Byte) : Nat → List Byte → List Byte → List Byte
  | 0, _, _ => []
  | n + 1, t, bs => xorBytes (f (xorBytes (bs.take 16) t)) t ++ xts f n (timesAlpha t) (bs.drop 16)

/-- The ciphertext of a 64-byte line at a physical address (R324). -/
def sealLine (data tweak : List Byte) (pa : Nat) (line : List Byte) : List Byte :=
  xts (aesEncrypt data) 4 (aesEncrypt tweak (leBytes 16 pa)) line

/-- The plaintext of a 64-byte line at a physical address (R324). -/
def openLine (data tweak : List Byte) (pa : Nat) (line : List Byte) : List Byte :=
  xts (aesDecrypt data) 4 (aesEncrypt tweak (leBytes 16 pa)) line

/-- Doubling in the field of CMAC, on a big-endian block. -/
def cmacDouble (b : List Byte) : List Byte :=
  let v := ofLeBytes b.reverse * 2
  (leBytes 16 (if v < 2 ^ 128 then v else (v - 2 ^ 128) ^^^ 0x87)).reverse

/-- The first 8 bytes of the AES-CMAC of a message of 76 bytes: four whole blocks and one of 12 bytes (R324). -/
def lineTag (key msg : List Byte) : List Byte :=
  let k2 := cmacDouble (cmacDouble (aesEncrypt key (List.replicate 16 0)))
  let last := xorBytes (msg.drop 64 ++ [0x80, 0, 0, 0]) k2
  let mid := (List.range 4).foldl (fun c i => aesEncrypt key (xorBytes c ((msg.drop (16 * i)).take 16))) (List.replicate 16 0)
  (aesEncrypt key (xorBytes mid last)).take 8

/-- The tag of the line at a physical address under a key and its generation (R324). -/
def tagOf (key : List Byte) (pa gen : Nat) (cipher : List Byte) : List Byte :=
  lineTag key (cipher ++ leBytes 8 pa ++ leBytes 4 gen)

end Sys2Proof.Machine
end

