-- ==== Sys2Proof/Machine/State.lean ====
section
/-!
DEFINITION. The state of one Sellia M80 package as plain data: everything R7 to R407 give the machine, and the model's own
bookkeeping of what is in flight and which agent moves next. Indexed state is held in sparse tables (`Tab`): an index without
an entry holds the default that the accessors of Machine/Ops.lean name.
-/
namespace Sys2Proof.Machine

/-- One lane of a gang (R99, R109, R110, R122, R188). -/
structure Lane where
  /-- the register space in aligned 4-byte words, by word index; unlisted words hold 0 (R106, R109) -/
  regs : Tab Word := []
  /-- the word indices whose poison bit is set (R257) -/
  poison : List Nat := []
  /-- o0 to o7 (R110) -/
  ofile : Tab Word := []
  /-- p0 to p7, p0 in bit 0 (R110) -/
  preds : BitVec 8 := 0
  /-- the last-result latch, `none` when empty (R35) -/
  latch : Option DWord := none
  /-- the RAND state (R188) -/
  rand : DWord := 0
  /-- the lane has not executed EXIT (R112) -/
  live : Bool := true
  /-- the taking-part bit of the clause of its split (R22, R403) -/
  takes : Bool := false
  /-- the uncommitted copies of group words 0 to 15 (R122) -/
  shadow : Tab Word := []
  /-- which physical copy of each group word is the committed one (R122, R197) -/
  bank : BitVec 16 := 0
  /-- written bits of the open proposal (R122) -/
  written : BitVec 16 := 0
  /-- poison bits of the uncommitted copies (R257) -/
  shPoison : BitVec 16 := 0
  /-- the lane's Umbra while a handler holds it, by word index (R106, R125) -/
  umbra : Tab Word := []
  deriving DecidableEq, Repr

/-- Why a split does not issue (R107). -/
inductive Hold where
  /-- it is not held -/
  | run
  /-- it stands at a word or a clause header whose wait it tests again when it next issues (R22, R219) -/
  | wait
  /-- it has arrived at barrier k in the given phase (R225) -/
  | bar (k phase : Nat)
  /-- its lanes have arrived at the cluster barrier in the given phase of the team (R226) -/
  | clbar (phase : Nat)
  /-- it dozes until TIME reaches the value (R95) -/
  | doze (t : DWord)
  /-- DOZE_WAKE has ended its doze (R95) -/
  | woken
  /-- it waits in FUSE, with this D, past its own checks since a core cycle (R118) -/
  | fuse (since : DWord) (d : Opnd)
  /-- FUSETMO has passed in its FUSE (R118) -/
  | fuseTmo
  /-- its buddy has ended during its FUSE (R118) -/
  | fuseGone
  /-- it stands in CONVERGE or SPLIT (R115, R117) -/
  | converge
  /-- it stands at an RTT word (R178) -/
  | rtt
  /-- it stands in TOKREL until the region's lines are home, and this status is its result (R74, R222) -/
  | tokrel (region : Nat) (status : Word)
  /-- a held fault with a sequence number, a cause and an address holds it at SIGNAL (R216, R224) -/
  | fault (seq : Word) (cause : Nat) (va : DWord)
  /-- the fault that held it at SIGNAL has been cancelled: the word fails with this code at the address when it next issues (R216, R224) -/
  | cancelled (code : Nat) (va : DWord)
  deriving DecidableEq, Repr

/-- An entry of a split table with its position (R112, R403). -/
structure Split where
  pc : DWord
  mask : BitVec 64
  incl : Bool := false
  widx : Nat := 0
  /-- the header of the clause it stands inside -/
  hdr : Word := 0
  mvalid : Bool := false
  midx : Nat := 0
  mparams : DWord := 0
  /-- with MVALID, the words of the microprogram as they stood at the MCALL's issue or at the last resume (R47, R48) [DEDUCED, log entry 13] -/
  mprog : List Word := []
  hold : Hold := .run
  /-- RTT has resumed it: its clause's header, and its MCALL's entry, are still to be read again; `some true` where SKIP is set and its word could not be
  read at the RTT, so that it has still to be passed (R47, R84) [DEDUCED, log entry 12] -/
  resume : Option Bool := none
  /-- cycles passed over while ready (R107) -/
  age : Nat := 0
  promoted : Bool := false
  deriving DecidableEq, Repr

/-- Where the data of an asynchronous operation lands in a lane (R36), fixed at its issue: nowhere, in the operand file, or in bytes of
the register space or of the Umbra. -/
inductive Dest where
  | none
  | file (k : Nat)
  | reg (umbra : Bool) (off : Nat)
  deriving DecidableEq, Repr

/-- A failed asynchronous operation that no wait has delivered yet (R80, R202). -/
structure Failure where
  ctr : Nat
  code : Nat
  cause : Nat := 0
  arg : DWord := 0
  mask : BitVec 64 := 0
  /-- for a load failed by MEMUE cause 1 or 2 (R195): its destination and bytes per lane, and its number, which keeps its counter up -/
  repl : Option (Dest × Nat) := none
  op : Nat := 0
  /-- the counter still stands higher by 1 for it: no change of width has cleared the counters since (R120) [DEDUCED, log entry 14] -/
  counted : Bool := true
  deriving DecidableEq, Repr

/-- What trap entry keeps of a lane (R82, R403). -/
structure SavedLane where
  preds : BitVec 8
  latch : Option DWord
  takes : Bool
  deriving DecidableEq, Repr

/-- A running trap handler (R82, R125, R126): the interrupted split table and lanes, and the handler's own views. -/
structure Handler where
  /-- `none` for an entry at TVEC, the PREEMPT reason for an entry at PVEC (R88) -/
  reason : Option Nat
  splits : List (Option Split)
  lanes : List SavedLane
  vb : Word := 0x8000
  tb : Word := 0x8000
  ab : Word := 0x8000
  /-- the failure that the entry delivered, for REPLV (R195) -/
  failure : Option Failure := none
  /-- what SPLWR has written into free entries of the interrupted table (R194) [DEDUCED, log entry 19] -/
  staged : Tab (DWord × BitVec 64) := []
  deriving DecidableEq, Repr

/-- An open proposal (R122, R123): the vbase of SHBEGIN, the group size and the VB in force at SHBEGIN. -/
structure Proposal where
  vbase : Nat
  n : Nat
  gvb : Nat
  deriving DecidableEq, Repr

/-- A gang (R99, R103, R109). -/
structure Gang where
  core : Nat
  id : Nat
  team : Nat
  ctx : Nat
  launch : Word
  width : Nat
  slice : Nat
  level : Nat
  regBytes : Nat
  spBytes : Nat
  vb : Word := 0
  tb : Word := 0
  ab : Word := 0
  fpctl : Word := 0
  fpflags : Word := 0
  batch : Word := 0
  wbatch : Word := 0
  /-- batches waited with BWAIT, which every publication of the gang publishes (R68) -/
  waited : List Nat := []
  fuseTmo : Word := 16384
  trapCode : Word := 0
  trapPc : DWord := 0
  trapMask : BitVec 64 := 0
  trapArg : DWord := 0
  trapSplit : Word := 0
  tvec : DWord := 0
  argBase : DWord := 0
  accn : Word := 0
  propn : Word := 0
  proposal : Option Proposal := none
  /-- outstanding counts of c0 to c15 (R24, R202) -/
  ctrs : Tab Nat := []
  failures : List Failure := []
  splits : List (Option Split)
  /-- NSPLIT.OVF: records in the divergence overflow area (R111) -/
  ovf : Nat := 0
  lanes : List Lane
  /-- the phase of the last BARARV on each barrier (R225) [DEDUCED, log entry 15] -/
  arv : Tab Nat := []
  /-- MROW, MCOL, MDEP and MSTAT of the forked program that ended last (R254) -/
  mrow : Word := 0
  mcol : Word := 0
  mdep : Word := 0
  mstat : Word := 0
  /-- the kernel carries SERVICE (R81) -/
  service : Bool := false
  handler : Option Handler := none
  /-- a trap entry that waits for the Umbra of its slices (R125): the trap and its split -/
  pendingTrap : Option (Nat × Failure × Bool) := none
  /-- a forced save has been requested, with its reason (R87, R88) -/
  saving : Option Nat := none
  deriving DecidableEq, Repr

/-- A hardware barrier of a team (R225). -/
structure Barrier where
  count : Nat := 0
  target : Option Nat := none
  phase : Nat := 0
  /-- the publication set: (gang, batch) pairs (R68) -/
  pubs : List (Nat × Nat) := []
  deriving DecidableEq, Repr

/-- A subscription of a team to a Prism stream (R251). -/
structure Sub where
  /-- the handle 0 to 3 bound to it; `none` once it is unbound, while words handed off earlier still read it (R268) -/
  handle : Option Nat
  stream : Nat
  window : Nat
  buf : Nat
  consumed : Nat := 0
  /-- tiles written so far -/
  arrived : Nat := 0
  /-- Prism has taken it up (R267) -/
  active : Bool := false
  /-- the code, with its cause above bit 7, and the argument with which it has failed (R78, R402) -/
  failed : Option (Nat × DWord) := none
  deriving DecidableEq, Repr

/-- A resident team (R99, R105, R106). -/
structure Team where
  core : Nat
  /-- the core's team slot that it occupies (R105), and the slot of its identity (R101) -/
  slot : Nat
  tslot : Nat
  ctx : Nat
  launch : Word
  /-- byte offset of its allocation in the core's team memory, and its size -/
  base : Nat
  shared : Nat
  dx : Nat
  dy : Nat
  logW : Nat := 0
  logH : Nat := 0
  bars : Tab Barrier := []
  /-- phases of the cluster barrier that have completed (R226) -/
  clPhase : Nat := 0
  clPubs : List (Nat × Nat) := []
  /-- subscriptions by the number of their STRSUB -/
  subs : Tab Sub := []
  /-- slice contexts (level, slice) that a SPLIT left without a gang (R117) -/
  orphans : List (Nat × Nat) := []
  /-- gangs have left by a save entry's RTT, so that the team is saved, not ended (R178) -/
  saved : Bool := false
  deriving DecidableEq, Repr

/-- A loop-nest program on a core's sequencer (R252 to R255, R269). -/
structure Nest where
  gang : Nat
  ctr : Nat
  ppc : DWord
  pblk : Nat
  params : List Byte := []
  mrow : Nat := 0
  mcol : Nat := 0
  mdep : Nat := 0
  code : Nat := 0
  /-- the argument and the cause of the failure -/
  arg : DWord := 0
  cause : Nat := 0
  /-- MSTAT.STATE (R254) -/
  state : Nat := 1
  /-- MACC and C0, one 64-bit pattern per element (R253, R255) -/
  macc : List DWord := []
  c0 : List DWord := []
  /-- a freeze is requested (R253) -/
  freeze : Bool := false
  /-- the program, or the image at an address, has still to be fetched (R269, R273) -/
  fresh : Bool := true
  image : Option DWord := none
  /-- the FORK or MRESUME word that started it, as the TRAPARG of an ILLOPND (R402) -/
  word : DWord := 0
  /-- the number of its MRESUME among the operations handed off (R258) -/
  order : Nat := 0
  /-- the core cycle count at which its current tile step began or became the engine's oldest work, and the number of the next operation when it began
  (R256) -/
  since : DWord := 0
  stepOp : Nat := 0
  deriving DecidableEq, Repr

/-- The units of one core (R46, R59, R107, R253). -/
structure Core where
  /-- the control store: the words of each microprogram (R46) -/
  control : Tab (List Word) := []
  nest : Option Nest := none
  /-- L1 lines by line address (R59) [DESIGN CHOICE, log entry 24] -/
  l1 : Tab (List Byte) := []
  /-- the last entry issued on each port: gang × 4 + split (R107) -/
  last : Tab Nat := []
  /-- the entry that has given up each port by YLD, until the port has chosen another (R23) -/
  yields : Tab Nat := []
  /-- the core is in core reset (R391), and the mailbox messages to answer when it has ended -/
  inReset : Bool := false
  mails : List Mail := []
  /-- the core's CYCLE count when its clock last changed or it was last reset, and the uptime of the package then (R108, R151) [DESIGN CHOICE, log
  entry 6] -/
  counted : DWord := 0
  since : Nat := 0
  deriving DecidableEq, Repr

/-- A binding of a context (R62). -/
structure Binding where
  lo : Nat
  hi : Nat
  sync : DWord
  scope : Nat
  deriving DecidableEq, Repr

/-- A drain of a context (R86, R387). -/
structure Drain where
  /-- the die whose teams it covers, `none` for the whole package -/
  die : Option Nat
  /-- the TIME at which it began, and at which it was escalated to a forced save, with the save's reason (R86 to R88) -/
  since : DWord := 0
  escalated : Option (Nat × DWord) := none
  /-- the mailbox messages that asked for it -/
  mails : List Mail := []
  /-- it ended on a die as a drain failure, by that die's reset (R392) -/
  failed : Bool := false
  deriving DecidableEq, Repr

/-- The package-wide part of a context (R384). -/
structure Ctx where
  ctxid : Word := 0
  partid : BitVec 12 := 0
  root : Nat := 0
  spillBase : DWord := 0
  spBase : DWord := 0
  spLim : Word := 0
  pvec : DWord := 0
  drainLim : Word := 2000
  peerTab : DWord := 0
  peerN : Nat := 0
  saveMap : DWord := 0
  immSave : Bool := false
  bindings : Tab Binding := []
  drains : List Drain := []
  /-- the records of the teams that drains have removed, for re-binding (R387), and those of them that a die's placement core has still to list at
  SAVEMAP (R384) -/
  removed : List BindRec := []
  unlisted : List (Nat × BindRec) := []
  /-- what the machine knows of saved gangs where the driver's table names none (R193, R388): launch, team identity (TEAMID), gang identifier, width
  [DEDUCED, log entry 19] -/
  savedGangs : List (Word × Nat × Nat × Nat) := []
  /-- the context is ending, and completion records of it are still to be written (R384, R385, R404) -/
  ending : Option Nat := none
  deriving DecidableEq, Repr

/-- A queue record (R366). -/
structure Queue where
  base : DWord := 0
  write : Nat := 0
  read : Nat := 0
  pass : Nat := 0
  tickets : Nat := 0
  logsize : Nat := 0
  ctx : Nat := 0
  /-- 0 IDLE, 1 READY, 2 BLOCKED, 3 ERROR, 4 STOPPED -/
  state : Nat := 0
  enable : Bool := false
  priv : Bool := false
  lend : Nat := 0
  errsig : DWord := 0
  errinfo : DWord := 0
  /-- the TIME at which the WAITSIG at READ first blocked, and the queue it lends to (R373, R377) -/
  waitFrom : Option DWord := none
  lendsTo : Option Nat := none
  /-- ring indices of packets dispatched and not completed (R374) -/
  open_ : List Nat := []
  deriving DecidableEq, Repr

/-- The die's part of a context record (R384). -/
structure CtxRec where
  bytes : List Byte := []
  valid : Bool := false
  compWr : Nat := 0
  compRd : Nat := 0
  /-- completion records that wait for room or for their write to succeed (R385), oldest first, with their DONESIG -/
  waiting : List (List Byte × DWord) := []
  retrying : Bool := false
  /-- the TIME of the last failed write (R385) -/
  failedAt : DWord := 0
  faultWr : Nat := 0
  deriving DecidableEq, Repr

/-- What started a launch (R370, R378). -/
inductive Origin where
  | packet (die queue index : Nat)
  | node (die index graphQueue graphIndex : Nat)
  deriving DecidableEq, Repr

/-- The fields of a kernel descriptor (R380). -/
structure Kernel where
  csimg : DWord
  tvec : DWord
  code : DWord
  spBytes : Nat
  shared : Nat
  regBytes : Nat
  vb : Word
  tb : Word
  ab : Word
  width : Nat
  gangs : Nat
  teams : Nat
  logW : Nat
  logH : Nat
  csfirst : Nat
  cscount : Nat
  coop : Bool
  service : Bool
  deriving DecidableEq, Repr

/-- An open launch (R370, R382). -/
structure Launch where
  origin : Origin
  ctx : Nat
  tag : Word
  crec : Bool
  donesig : DWord
  kdesc : DWord
  args : DWord
  k : Kernel
  x0 : Nat
  y0 : Nat
  w : Nat
  h : Nat
  prio : Nat
  /-- the checked control-store image (R380) -/
  image : List (List Word) := []
  /-- teams not ended yet, and the cores and slots (core × 8 + slot) of those that have ended -/
  left : Nat
  ended : List Nat := []
  /-- cores whose control store has been loaded for the launch -/
  loaded : List Nat := []
  /-- a co-operative launch that no team of has started, as its teams do not fit at once (R129) -/
  waiting : Bool := false
  /-- failure code of the launch, 0 for none -/
  code : Nat := 0
  status : Nat := 0
  deriving DecidableEq, Repr

/-- A launch-graph node (R378). -/
structure Node where
  bytes : List Byte := []
  status : Nat := 0
  counter : Nat := 0
  deriving DecidableEq, Repr

/-- A running GRAPH packet (R378). -/
structure Graph where
  queue : Nat
  index : Nat
  ctx : Nat
  first : Nat
  count : Nat
  tag : Word
  crec : Bool
  donesig : DWord
  deriving DecidableEq, Repr

/-- A copy-class job (R293), or the record of a chain in progress (R289). -/
structure CJob where
  /-- the op of its word (R291) -/
  op : Nat
  desc : List Byte := []
  arg : DWord := 0
  /-- where the status word goes (R294) -/
  dest : Dest := .none
  batch : Option Word := none
  lanes : List Nat := []
  /-- bytes written so far, a tagged word has been skipped, a receiver's failure (R282, R284) -/
  moved : Nat := 0
  clob : Bool := false
  cause : Nat := 0
  /-- how far the job is: its row, and the pieces of it that are done -/
  stage : Nat := 0
  pos : Nat := 0
  /-- the cause and the sequence number of the held fault that holds it (R216) -/
  held : Option (Nat × Nat) := none
  /-- the block of COPYM or COPYN, or the record of a chain; and the receivers of COPYM that have not arrived (R284, R285, R288) -/
  buf : List Byte := []
  due : List Nat := []
  /-- destination lines gathered and not yet written, each written at once (R54): the kind of its address, line address / 64, and the bytes by their
  offsets in it, in the order in which they were gathered -/
  out : List (Nat × Nat × List (Nat × List Byte)) := []
  started : Bool := false
  /-- the tensor map of COPYT, or the index entry of the row in progress, as it was read (R281, R298) -/
  map : List Byte := []
  /-- SPBASE and SPLIM as they stood at hand-off (R151, R278) -/
  window : Nat × Nat := (0, 0)
  deriving DecidableEq, Repr

/-- A chain channel (R288, R302, R303). -/
structure Chan where
  ctx : Option Nat := none
  /-- 0 IDLE, 1 RUNNING, 2 STOPPED, 3 ERROR -/
  state : Nat := 0
  pos : DWord := 0
  /-- the walk ended at NEXT, not at OWN (R289) -/
  atNext : Bool := false
  /-- a doorbell came while the walk went on (R289) -/
  rung : Bool := false
  cause : Nat := 0
  doneRec : Nat := 0
  /-- the COPY packets that wait for the end of the walk: queue, index, tag, crec, donesig (R370) -/
  packets : List (Nat × Nat × Word × Bool × DWord) := []
  /-- the record in progress -/
  cur : Option CJob := none
  deriving DecidableEq, Repr

/-- A Prism stream (R250). -/
structure Stream where
  ctx : Nat
  base : DWord
  count : Nat
  size : Nat
  deriving DecidableEq, Repr

/-- A compute die's front end, fault unit, channels and Prism (R365). -/
structure Die where
  queues : Tab Queue := []
  recs : Tab CtxRec := []
  nodes : Tab Node := []
  graphs : List Graph := []
  slots : Tab BindRec := []
  /-- how many teams of the record in each slot have started (R383) -/
  started : Tab Nat := []
  chans : Tab Chan := []
  streams : Tab Stream := []
  /-- the next fault sequence number and the next launch number (R216, R382): 1 at reset, as a record's LAUNCHID of 0 names no launch
  [DESIGN CHOICE, log entry 8] -/
  faultSeq : Word := 1
  launchCount : Nat := 1
  /-- the die's TLB: leaves by (context × 8 + level) × 2^57 + virtual page (R214) -/
  tlb : Tab DWord := []
  /-- in die reset, or powered down by POWER op 3 (R392, R399); a reset keeps the context records of which completion records have still to be written -/
  inReset : Bool := false
  down : Bool := false
  /-- POWER op 3 takes the die down once the drains that it has asked for have ended (R399) -/
  leaving : Bool := false
  /-- the mailbox messages to answer when the die is down, up or reset -/
  mails : List Mail := []
  deriving DecidableEq, Repr

/-- A packet waiting at a router output (R311, R316): where it came in, on which channel, and its head's age. -/
structure Queued where
  inPort : Nat
  chan : Nat
  age : Nat := 0
  p : Packet
  deriving DecidableEq, Repr

/-- An echo record (R318). -/
structure Echo where
  addr : BitVec 56
  part : BitVec 12
  size : Nat
  leaves : Nat
  /-- how many of the leaves are the first request's [DEDUCED, log entry 26] -/
  firstLeaves : Nat
  first : DWord
  second : DWord
  firstOp : DWord
  deriving DecidableEq, Repr

/-- A link at one of its ends (R310, R314, R315): the sequence number the receiver expects, how often the flit that it expects has failed in
a row, and whether the link retrains and since what uptime. -/
structure Link where
  accepted : Nat := 0
  fails : Nat := 0
  training : Bool := false
  since : Nat := 0
  /-- at the sender of an external link: the bytes of packets sent, the flits that the other end has accepted, the packets with flits that
  it has not, each with the number of flits up to its end, and the flits of each channel for which no credit has come back [DEDUCED, log
  entry 45] -/
  sent : Nat := 0
  acked : Nat := 0
  kept : List (Nat × Packet) := []
  used : Tab Nat := []
  /-- how often in a row the other end has asked for the same flit again (R315) -/
  again : Nat := 0
  deriving DecidableEq, Repr

/-- A reduction slot (R336): `state` is 1 open, 2 complete. -/
structure Slot where
  state : Nat
  owner : Nat
  tag : BitVec 16
  part : BitVec 12
  op : Nat
  expMask : BitVec 64
  arrMask : BitVec 64 := 0
  nanMask : BitVec 64 := 0
  lateMask : BitVec 64 := 0
  deadline : DWord := 0
  drops : Nat := 0
  value : List DWord := []
  /-- the stored contributions (R328) -/
  lines : Tab (List DWord) := []
  deriving DecidableEq, Repr

/-- What an Attar program context waits for (R329). -/
inductive AWait where
  | run
  /-- a final status of its CCONT or CSEND (R346, R348): the TIME of the first send and of the last one, whether a retry reply has
  come, whether it is a message, the destination word, the message, and the scalar that takes the status -/
  | send (since last : DWord) (again message : Bool) (dest : DWord) (m : AttarMsg) (xd : Nat)
  /-- the completion of a slot (R347) -/
  | slot
  /-- CRECV (R348): the TIME of issue, the timeout, the issue order, the tag, the line register and the scalar -/
  | recv (since timeout : DWord) (order : Nat) (tag : BitVec 16) (ld xb : Nat)
  deriving DecidableEq, Repr

/-- An Attar program context (R328, R330). -/
structure ACtx where
  pc : Nat
  /-- words left in the clause and its header's index (R332) -/
  left : Nat := 0
  hdr : Nat := 0
  x : Tab DWord := []
  l : Tab (List DWord) := []
  status : Word := 0
  gang : Nat
  op : Nat
  ctx : Nat
  die : Nat
  /-- the launch of the gang that started it -/
  launch : Word := 0
  wait : AWait := .run
  deriving DecidableEq, Repr

/-- A pending COLL start (R223). -/
structure Start where
  op : Nat
  gang : Nat
  ctx : Nat
  die : Nat
  entry : Nat
  va : DWord
  /-- the physical address, and the leaf under which the core translated it -/
  pa : Nat
  pte : DWord
  deriving DecidableEq, Repr

/-- A stored message (R348). -/
structure Stored where
  tag : BitVec 16
  part : BitVec 12
  line : List DWord
  time : DWord
  deriving DecidableEq, Repr

/-- A token directory entry (R321): holder packages, earliest first. -/
structure DirEnt where
  exclusive : Bool
  holders : List Nat
  granted : Nat
  pending : List (Nat × Bool × Packet) := []
  /-- the write for which the holders' copies are being invalidated: a packet, or the host's (`some none`) (R74) [DEDUCED, log entry 43] -/
  writer : Option (Option Packet) := none
  /-- the holders whose invalidation is not acknowledged yet (R74) [DEDUCED, log entry 43] -/
  stale : List Nat := []
  deriving DecidableEq, Repr

/-- A base die: router, combining table, Attar engine, token directory, access counters (R305, R328). [DESIGN CHOICE, log entry 10] -/
structure Base where
  /-- packets of atomic groups that have not all arrived (R313) -/
  groups : List Packet := []
  outs : Tab (List Queued) := []
  /-- the arbitration pointer (input × 16 + channel) and its quota, for each output (R316) -/
  ptr : Tab (Nat × Nat) := []
  /-- the route table's entries that are not 0xF (R309) -/
  routes : Tab Nat := []
  ageMax : Nat := 32
  /-- permitted partitions: port × 4096 + partition (R326) -/
  parts : List Nat := []
  echo : Tab Echo := []
  gens : Tab Nat := []
  /-- echo records whose read is uncorrectable (R320) [DEDUCED, log entry 26] -/
  echoBad : List Nat := []
  links : Tab Link := []
  /-- packets dropped at ingress (R326) -/
  ingressDrops : Nat := 0
  prog : Tab Word := []
  actxs : Tab ACtx := []
  slots : Tab Slot := []
  starts : List Start := []
  msgs : List Stored := []
  drops : DWord := 0
  /-- the last Attar context that issued (R329) -/
  lastCtx : Nat := 0
  dir : Tab DirEnt := []
  dirClock : Nat := 0
  /-- access counters: page × 8 + compute die (R290) -/
  counters : Tab Nat := []
  threshold : Nat := 0
  inReset : Bool := false
  /-- the regions that its replica of the token table has lost in a reset and no grant has entered again (R322, R391) [DEDUCED, log entry 34] -/
  lostTokens : List Nat := []
  /-- the mailbox messages to answer when the die accepts requests again -/
  mails : List Mail := []
  deriving DecidableEq, Repr

/-- A token the package holds or acquires (R221): contexts that hold it. -/
structure Token where
  exclusive : Bool
  ctxs : List Nat
  pending : Bool := false
  deriving DecidableEq, Repr

/-- A key slot (R323). -/
structure KeySlot where
  data : List DWord
  tweak : List DWord
  tagKey : List DWord
  gen : Word
  rbase : Nat
  rsize : Nat
  tbase : Nat
  deriving DecidableEq, Repr

/-- A die's sillage ring (R96). [DESIGN CHOICE, log entry 10] -/
structure Ring where
  base : Nat := 0
  size : Nat := 0
  wr : Nat := 0
  drain : Nat := 0
  dropped : Nat := 0
  /-- drops since the last kind 0x0007 record -/
  newDrops : Nat := 0
  set : Bool := false
  deriving DecidableEq, Repr

/-- An ERRLOG record (R393). -/
structure ErrRec where
  time : DWord
  sock : Nat
  src : Nat
  sev : Nat
  engine : Nat
  code : Nat
  ctx : Nat
  addr : Nat
  deriving DecidableEq, Repr

/-- A die's error log (R393). -/
structure ErrLog where
  recs : List ErrRec := []
  overwritten : Nat := 0
  sev : Tab Nat := []
  deriving DecidableEq, Repr

/-- An entry of a context's peer table (R285). -/
structure Peer where
  port : Nat
  part : Nat
  fep : Nat
  ip : List Byte
  deriving DecidableEq, Repr

/-- A message of the network path at its sender (R286): `acked` lists its acknowledged packets. -/
structure NetMsg where
  op : Nat
  fetch : Bool
  peer : Peer
  ctx : Nat
  len : Nat
  data : List Byte
  raddr : DWord
  rsig : DWord
  acked : List Nat := []
  retries : Nat := 0
  /-- the TIME of the last transmission -/
  sentAt : DWord := 0
  deriving DecidableEq, Repr

/-- A message of the network path at its receiver (R287). -/
structure NetRecv where
  src : Nat
  part : Nat
  msg : Nat
  got : List Nat := []
  deriving DecidableEq, Repr

/-- What leaves the package (R17, R75, R389). [DESIGN CHOICE, log entries 1 and 29] -/
inductive Out where
  /-- an interrupt to the host on a PCIe function: 0 management, 1 + k compute die k -/
  | irq (fn what : Nat) (info : Nat)
  /-- a packet sent, or sent again (R314), on an external Fethes port of a router -/
  | ext (router port : Nat) (p : Packet)
  /-- on an external port, a receiver's word to the other end: its last accepted flits, after which it asks for every flit again (R314, R315) -/
  | again (router port accepted : Nat)
  /-- a network packet of a message, to a peer; a fetch asks for the bytes instead of carrying them -/
  | net (peer : Peer) (fetch : Bool) (p : NetPacket)
  /-- the reply packet of a fetch, with its header extension -/
  | netData (src msg pkt : Nat) (ext : Word) (data : List Byte)
  /-- a network acknowledgement: positive or negative -/
  | netAck (src msg pkt : Nat) (ok : Bool)
  /-- the completion of a host read: its bytes, or Unsupported Request -/
  | pcie (bytes : Option (List Byte))
  /-- an SPDM response over DOE -/
  | doe (code : Nat) (body : List Byte)
  /-- a TDISP response -/
  | tdisp (fn state : Nat)
  deriving DecidableEq, Repr

/-- A host access that has not been performed (R75): its function, its address, how many bytes it reads or the bytes it writes, and the
packages whose recall it has asked for (R74). -/
structure HostReq where
  fn : Nat
  addr : Nat
  len : Nat
  bytes : Option (List Byte)
  recalled : List Nat := []
  deriving DecidableEq, Repr

/-- The management plane and what is one per package (R11, R92, R389 to R401). [DESIGN CHOICE, log entry 10] -/
structure Pkg where
  id : Nat := 0
  idSet : Bool := false
  time : DWord := 0
  timeLoaded : Bool := false
  /-- 0 not yet locked, 1 locked, 2 locked before (R406) -/
  lock : Nat := 0
  offset : Int := 0
  ppb : Int := 0
  master : DWord := 0
  ptpPort : Nat := 0
  portNext : Nat := 0
  servo : Nat := 24
  /-- nanoseconds since power came, which no load or step of TIME changes [DESIGN CHOICE, log entry 6] -/
  uptime : Nat := 0
  powerLimit : Nat := 1800
  /-- the place in the ring of the message that wrote the limit, and the uptime then (R399) -/
  powerSlot : Nat := 0
  powerAt : Nat := 0
  /-- ceilings written by POWER op 2, and current clocks, in MHz by island (R108, R399) -/
  ceilings : Tab Nat := []
  clocks : Tab Nat := []
  tokens : Tab Token := []
  keys : Tab KeySlot := []
  rings : Tab Ring := []
  errlogs : Tab ErrLog := []
  mbase : Nat := 0
  mlog : Nat := 0
  mdoor : Nat := 0
  mdone : Nat := 0
  /-- routers and links out of service as reported, and as the routers' current routes know them (R308) -/
  down : List (Nat × Nat) := []
  view : List (Nat × Nat) := []
  /-- the running image and the image that the next package reset takes (R398) -/
  image : Nat := 0
  nextImage : Option (Nat × Bool) := none
  recovery : Bool := false
  /-- the SPDM session: 0 none, 1 versions, 2 capabilities, 3 algorithms, 4 key exchange, 5 established (R397) [PRESUMED, log entry 41] -/
  spdm : Nat := 0
  /-- IDE stream keys by function × 256 + stream, and TDISP states by function: 0 CONFIG_UNLOCKED, 1 CONFIG_LOCKED, 2 RUN,
  3 ERROR (R392, R396) -/
  ide : Tab (List Byte) := []
  tdisp : Tab Nat := []
  /-- TDISP interface keys by function (R392) [PRESUMED, log entry 41] -/
  interfaceKeys : Tab DWord := []
  net : Tab NetMsg := []
  recv : List NetRecv := []
  /-- completed messages by (source, partition), newest first (R287) -/
  recvDone : List (Nat × Nat × Nat) := []
  /-- network packets dropped for their partition (R327) -/
  netDrops : Nat := 0
  /-- requests that left the package and have had no response, each with the base die that sent it and the uptime at which it left (R407) -/
  outbound : List (Nat × Packet × Nat) := []
  /-- host accesses not performed yet, oldest first (R75) -/
  hostq : List HostReq := []
  outs : List Out := []
  deriving DecidableEq, Repr

/-- Memory: the bytes of the package's local address space and of host memory, the hidden barrier tags, the owner tags and
the poisoned lines. Host memory at bus address a stands at 2^44 + a; a peer line cached under a token at 2^108 + its package
physical address. -/
structure Mem where
  /-- (address, byte) pairs in ascending order, none of them zero: an unlisted byte reads 0 -/
  bytes : List Host.Cell := []
  /-- addresses of the 8-byte words whose barrier tag is set (R227), divided by 8 -/
  tags : List Nat := []
  /-- owner tags of team-memory and scratchpad lines: line address / 64 ↦ context (R91) -/
  owners : Tab Nat := []
  /-- line addresses / 64 whose data is uncorrectable (R218, R394) -/
  bad : List Nat := []
  /-- line addresses / 64 with an error that a scrub read corrects (R394) [DEDUCED, log entry 28] -/
  weak : List Nat := []
  /-- peer lines held in the memory-side caches under a token: line physical address / 64 ↦ dirty (R217, R322) -/
  cached : Tab Bool := []
  /-- sealed lines of this package that a peer has taken and whose tag it has not written: line address / 64, the peer and the number of its lock (R325)
  [DEDUCED, log entry 28] -/
  locks : List (Nat × Nat × Nat) := []
  deriving DecidableEq, Repr

/-- The state of one lane's part of an access (R202, R216). -/
inductive AccSt where
  /-- not yet sent: it waits for earlier accesses (R56, R60, R61, R63) -/
  | ready
  | sent
  | held (cause seq level : Nat)
  | done (v : Nat)
  | failed (code cause : Nat) (arg : DWord)
  deriving DecidableEq, Repr

/-- One lane's part of an access: virtual and physical address, bytes, data, compare value, and where the part lies in the
lane's register bytes. -/
structure Part where
  lane : Nat
  va : DWord
  pa : Nat := 0
  len : Nat
  sub : Nat := 0
  data : Nat := 0
  cmp : Nat := 0
  /-- of the page: KEYID where it is sealed, APER, AC (R215) -/
  key : Option (BitVec 8) := none
  aper : Nat := 0
  counted : Bool := false
  /-- served from the package's cache of a peer region (R217) -/
  peerCached : Bool := false
  /-- operations whose parts of its lane, or all of whose parts, must be done before it is sent (R60, R61, R63, R65) -/
  afterLane : List Nat := []
  after : List Nat := []
  /-- its place among the operands of the group in which it was sent (R73, R313) -/
  seat : Nat := 0
  /-- its line has left the core's L1 since it was sent, so that its reply, which may be older, fills none (R59, R63, R65) -/
  stale : Bool := false
  st : AccSt := .ready
  deriving DecidableEq, Repr

/-- The kinds of asynchronous gang accesses (R199). -/
inductive AccKind where
  | load
  | store
  | atomic (op : Nat)
  | fadd
  | cas
  | pref
  | acq
  | rel
  /-- RINGROT: lanes, log2 of the slot size and count (R207) -/
  | ring (k logs logn : Nat)
  | mbinit
  | mbarv
  deriving DecidableEq, Repr

/-- Where an access goes: the team's memory, the scratchpad window, or virtual addresses. -/
inductive Space where
  | team
  | pad
  | virt
  deriving DecidableEq, Repr

/-- An asynchronous gang access (R202). -/
structure Access where
  kind : AccKind
  space : Space
  dest : Dest
  size : Nat
  scope : Nat := 0
  ord : Nat := 0
  lat : Bool := false
  nt : Bool := false
  rm : BitVec 2 := 0
  parts : List Part
  deriving DecidableEq, Repr

/-- What a matrix word read of one lane at hand-off (R258): its format word, tile-register bytes and address. -/
structure MLane where
  lane : Nat
  fw : Word := 0
  row : List Byte := []
  addr : Nat := 0
  deriving DecidableEq, Repr

/-- A matrix word handed off (R258). -/
structure MJob where
  /-- its op (R44) and MODE -/
  op : Nat
  mode : Nat := 0
  lanes : List MLane
  /-- the quarters whose operations have not completed -/
  quarters : List Nat
  /-- the accumulator index, and the place of its row, or of the tile registers that TLD writes -/
  acc : Nat := 0
  umbra : Bool := false
  off : Nat := 0
  /-- the agreed format word (R240) -/
  fmt : Word := 0
  /-- the address that a whole-word word or a B tile object has, and TTRANS's second one -/
  addr : Nat := 0
  addr2 : Nat := 0
  /-- the pair or quad of F -/
  quad : List Word := []
  /-- the subscription and the tile index that the word reads, or the subscription that STRSUB makes (R251) -/
  tile : Option (Nat × Nat) := none
  /-- failures so far: code with its cause above bit 7, argument, lane -/
  bad : List (Nat × DWord × Nat) := []
  /-- the word itself, the argument of an ILLOPND that it delivers (R402) -/
  word : DWord := 0
  /-- the object that TTRANS writes, and how many of its lines are written (R264, R274) -/
  obj : List Byte := []
  written : Nat := 0
  /-- the rows that TST and ACCST have still to write: lane, address, bytes (R54, R262) -/
  rows : List (Nat × Nat × List Byte) := []
  /-- the core cycle count at which it became the oldest work of its engine, or at which its last quarter operation completed (R256) -/
  since : DWord := 0
  deriving DecidableEq, Repr

/-- An asynchronous operation of a gang. -/
inductive Job where
  | access (a : Access)
  | matrix (m : MJob)
  | copy (c : CJob)
  /-- TOKACQ of a region: mode, region, status once decided -/
  | token (dest : Dest) (lanes : List Nat) (ex : Bool) (part : Part) (status : Option Nat)
  /-- COLL: status destination, lanes, base die, entry, argument block, result once signalled -/
  | coll (dest : Dest) (lanes : List Nat) (sock entry : Nat) (part : Part) (result : Option Word)
  deriving DecidableEq, Repr

/-- An asynchronous operation in flight: its gang, issuing split's lanes, context, counter. -/
structure Flight where
  gang : Nat
  ctx : Nat
  ctr : Nat
  job : Job
  deriving DecidableEq, Repr

/-- A step that an asynchronous unit has still to make: the steps of the opcode table that other steps bring about. -/
inductive Pending where
  | accessComplete (op : Nat)
  | routerPacketArrive (router inPort : Nat) (p : Packet)
  | outputGrant (router out : Nat)
  | memoryRequest (sock : Nat) (p : Packet)
  | echoReply (router : Nat) (p : Packet)
  | failedReply (router : Nat) (p : Packet)
  | tokenAcquireRequest (sock : Nat) (p : Packet)
  | tokenRecall (region : Nat) (part : BitVec 12)
  | recallAck (sock pkg region : Nat)
  | responseTimeout (tag : Nat)
  | quarterOpComplete (op : Nat)
  | matrixHang (core : Nat)
  | tileStep (core : Nat)
  | prismTileWrite (team handle : Nat)
  | copyJobComplete (op : Nat)
  | copymReceiverArrive (op rank : Nat)
  | chainRecordStep (die chan : Nat)
  | netRetryTimeout (msg : Nat)
  | attarStart (sock : Nat)
  | contributionAccept (sock : Nat) (m : AttarMsg)
  | contributionRetry (sock ctx : Nat)
  | messageStore (sock : Nat) (m : AttarMsg)
  | messageExpiry (sock : Nat)
  | crecvTimeout (sock ctx : Nat)
  | slotDeadline (sock slot : Nat)
  | packetProcessorStep (die : Nat)
  | waitsigTimeout (die queue : Nat)
  | launchComplete (die launch : Nat)
  | completionRecordRetry (die ctx : Nat)
  | bindRecordWrite (die slot : Nat) (r : BindRec)
  | teamDispatch (die : Nat)
  | preemptEntry (gang : Nat)
  | gangEnd (gang : Nat)
  | dozeWake (gang entry : Nat)
  | fusetmoExpiry (gang entry : Nat)
  | drainlimExpiry (ctx : Nat)
  | forcedSaveHeldTimeout (ctx : Nat)
  | handlerRttTimeout (ctx : Nat)
  | dieResetComplete (die : Nat)
  | baseDieResetComplete (sock : Nat)
  | coreResetComplete (core : Nat)
  | routeRecompute
  /-- the oldest host accesses are performed (R75) -/
  | hostStep
  /-- a line of an on-chip array that a read has found uncorrectable (R91) -/
  | badLine (line : Nat)
  /-- a link has not retrained within 1 ms (R315) -/
  | linkDown (router port : Nat)
  /-- the Umbra of slices that a waiting trap entry needs is free (R125) -/
  | umbraFree (core : Nat)
  /-- the requester's base die works on a line of a peer's sealed page for an access (R324, R325) -/
  | sealedLine (op line : Nat)
  /-- a message of the ring, with its endpoint and op (R389) -/
  | mail (endpoint op : Nat) (m : Mail)
  deriving DecidableEq, Repr

/-- Which agent moves next. -/
inductive Move where
  /-- issue port `port` of core `core` selects and issues (R107) -/
  | port (core port : Nat)
  /-- the Attar engine of base die `sock` issues (R329) -/
  | attar (sock : Nat)
  /-- the k-th pending step of the agenda happens -/
  | event (k : Nat)
  /-- the oldest input from outside the units happens -/
  | input
  deriving DecidableEq, Repr

/-- The unit whose step runs: a split of a gang, an Attar program context, a pending step of an asynchronous unit, or an input; and the
writing back of a region's lines, which no step is. -/
inductive Cursor where
  | none
  | gang (gang split : Nat)
  | attar (sock ctx : Nat)
  | event (e : Pending)
  | input (i : Instr)
  | region (r : Nat)
  deriving DecidableEq, Repr

/-- A request of a unit to the coherence point of a line that the unit cannot reach within its step (R10, R12, R74, R217): a read of a line, a
write of the masked bytes of a line, or the addition of a value to an 8-byte element. [DESIGN CHOICE, log entry 23] -/
inductive AskKind where
  | read
  | write (mask : BitVec 64) (bytes : List Byte)
  | add (n : DWord)
  deriving DecidableEq, Repr

/-- A request with its sender: the socket that sends it, its context, its partition, and its package physical address. -/
structure Ask where
  src : Nat
  ctx : Nat
  part : BitVec 12
  pa : Nat
  kind : AskKind
  /-- log2 of the bytes of its elements -/
  size : Nat := 3
  lat : Bool := false
  /-- on a peer's sealed line (R325): 1 takes the line locked, under the number that is the request's tag; 2 + 4n goes on under lock n, and 3 + 4n
  ends it [DEDUCED, log entry 28] -/
  side : Nat := 0
  deriving DecidableEq, Repr

/-- The answer to a request: none yet, its bytes, or the code and cause of its failure. -/
inductive Answer where
  | none
  | ok (bytes : List Byte)
  | bad (code cause : Nat)
  deriving DecidableEq, Repr

/-- A request sent, with the unit whose step waits for it. -/
structure Asked where
  owner : Cursor
  ask : Ask
  answer : Answer := .none
  deriving DecidableEq, Repr

/-- The whole machine. -/
structure State where
  mem : Mem := {}
  /-- gangs by core × 64 + identifier -/
  gangs : Tab Gang := []
  /-- teams by core × 8 + slot -/
  teams : Tab Team := []
  /-- cores by package index 64k + n (R100) -/
  cores : Tab Core := []
  /-- compute dies 0 to 7 -/
  dies : Tab Die := []
  /-- base dies 0 to 15 -/
  bases : Tab Base := []
  /-- contexts by record index (R384) -/
  ctxs : Tab Ctx := []
  /-- launches by LAUNCHID -/
  launches : Tab Launch := []
  pkg : Pkg := {}
  /-- asynchronous operations by number -/
  flight : Tab Flight := []
  /-- steps that asynchronous units have still to make, oldest first (the model's own) -/
  agenda : List Pending := []
  /-- steps that the outside world brings about (host, network, management, failures), oldest first (the model's own) [DESIGN CHOICE, log entry 1] -/
  inputs : List Instr := []
  /-- which agent moves in the coming steps (the model's own) [DESIGN CHOICE, log entry 7] -/
  schedule : List Move := []
  cursor : Cursor := .none
  /-- requests that units have sent, by their tags (the model's own) [DESIGN CHOICE, log entry 23] -/
  asked : Tab Asked := []
  /-- within one step: the requests that it needs and has not sent, and the tags of the answers that it has used up; a step with such requests
  is taken back until they are answered (the model's own) [DESIGN CHOICE, log entry 23] -/
  asks : List Ask := []
  spent : List Nat := []
  /-- number of the next asynchronous operation, and of steps made, on which the free values of Config depend (the model's
  own) [DESIGN CHOICE, log entry 50] -/
  nextOp : Nat := 1
  steps : Nat := 0
  deriving DecidableEq, Repr

/-- Why the machine stops. -/
inductive Fault where
  /-- exec was asked for a gang, matrix or copy word and the cursor names no split of a resident gang, or for a collective
  word and it names no Attar context: no unit of the machine issues it. Raised by the accessors of the issuing unit; safe. -/
  | noIssuer
  deriving DecidableEq, Repr

/-- Why a step has no meaning. -/
inductive Refusal where
  /-- an arm of exec that has no meaning yet; raised by exec; safe -/
  | notModelled (mnemonic : String)
  deriving DecidableEq, Repr

/-- The outcome of a step. -/
abbrev Outcome := Host.Outcome State Fault Refusal

/-- The machine right after reset (R391, R398, R401): nothing runs, every table holds its defaults, memory is zero. [DESIGN CHOICE, log entries 2 and 8 and 10] -/
def State.reset : State := {}

end Sys2Proof.Machine
end

