-- ==== Sys2Proof/Machine/Memory.lean ====
section
/-!
DEFINITION. The bytes of memory (R1, R13, R90): one canonical sparse list, read and written through these operations only.
-/
namespace Sys2Proof.Machine

/-- The byte at an address; a byte that the list does not hold reads 0 (R90, R106, Bring-up). [DESIGN CHOICE, log entry 2] -/
def Mem.byte (m : Mem) (a : Nat) : Byte := tgetD m.bytes a 0

/-- The list with one byte stored: a zero byte is not listed. -/
def setCell : List Host.Cell → Nat → Byte → List Host.Cell
  | [], a, b => if b = 0 then [] else [(a, b)]
  | (k, v) :: t, a, b =>
    if a < k then (if b = 0 then (k, v) :: t else (a, b) :: (k, v) :: t)
    else if a = k then (if b = 0 then t else (a, b) :: t)
    else (k, v) :: setCell t a b

/-- Memory with one byte stored. -/
def Mem.setByte (m : Mem) (a : Nat) (b : Byte) : Mem := { m with bytes := setCell m.bytes a b }

/-- The n bytes from an address on. -/
def Mem.read (m : Mem) (a : Nat) : Nat → List Byte
  | 0 => []
  | n + 1 => m.byte a :: m.read (a + 1) n

/-- Memory with bytes stored from an address on. -/
def Mem.write (m : Mem) (a : Nat) : List Byte → Mem
  | [] => m
  | b :: t => (m.setByte a b).write (a + 1) t

/-- The little-endian number of n bytes at an address. -/
def Mem.readNat (m : Mem) (a n : Nat) : Nat := ofLeBytes (m.read a n)

/-- Memory with the low n bytes of a number stored at an address. -/
def Mem.writeNat (m : Mem) (a n v : Nat) : Mem := m.write a (leBytes n v)

/-- Memory with the bytes lo to hi − 1 zero. -/
def Mem.clear (m : Mem) (lo hi : Nat) : Mem := { m with bytes := m.bytes.filter fun c => c.1 < lo || hi ≤ c.1 }

/-- Memory with the masked bytes of a line stored (R312: bit i of the mask for byte i of the line). -/
def Mem.writeMask (m : Mem) (line : Nat) (mask : BitVec 64) (bs : List Byte) : Mem :=
  (bs.zipIdx).foldl (fun m p => if mask.getLsbD p.2 then m.setByte (line + p.2) p.1 else m) m

/-- Addresses strictly rising from a bound on, and no zero byte listed. -/
def cellsWf : Nat → List Host.Cell → Bool
  | _, [] => true
  | lo, (a, b) :: t => lo ≤ a && b != 0 && cellsWf (a + 1) t

/-- Memory is in its canonical form. -/
def Mem.wf (m : Mem) : Bool := cellsWf 0 m.bytes

/-- Whether the barrier tag of the word at an address is set (R227). -/
def Mem.tagged (m : Mem) (a : Nat) : Bool := m.tags.contains (a / 8)

/-- Memory with the barrier tag of a word set or cleared (R227). -/
def Mem.setTag (m : Mem) (a : Nat) (on : Bool) : Mem :=
  { m with tags := if on then (if m.tagged a then m.tags else (a / 8) :: m.tags) else m.tags.filter (· != a / 8) }

/-- Whether bytes a to a + n − 1 touch a tagged word (R228). -/
def Mem.touchesTag (m : Mem) (a n : Nat) : Bool := m.tags.any fun t => t * 8 < a + n && a < t * 8 + 8

/-- Memory with the tags, owner tags, poison and errors of the bytes lo to hi − 1 cleared and the bytes zero (R90, R106). -/
def Mem.wipe (m : Mem) (lo hi : Nat) : Mem :=
  { m.clear lo hi with
    tags := m.tags.filter fun t => t * 8 < lo || hi ≤ t * 8
    owners := m.owners.filter fun t => t.1 * 64 < lo || hi ≤ t.1 * 64
    bad := m.bad.filter fun t => t * 64 < lo || hi ≤ t * 64
    weak := m.weak.filter fun t => t * 64 < lo || hi ≤ t * 64 }

/-- Memory with the owner tag of the line at an address set to a context, or cleared (R91). -/
def Mem.own (m : Mem) (a : Nat) (ctx : Option Nat) : Mem :=
  { m with owners := match ctx with
    | some c => tput m.owners (a / 64) c
    | none => tdel m.owners (a / 64) }

/-- Whether the line at an address is uncorrectable (R218, R394). [DEDUCED, log entry 28] -/
def Mem.isBad (m : Mem) (a : Nat) : Bool := m.bad.contains (a / 64)

/-- Local addresses of the apertures of R13. -/
def padBase (die : Nat) : Nat := 0x10000000000 + die * 0x40000000
/-- The size of a die's scratchpad (R13). -/
def padSize : Nat := 0x2F000000
/-- The local address of a core's team memory (R13). -/
def teamBase (core : Nat) : Nat := 0x20000000000 + core * 0x100000
/-- The size of a core's team memory (R13). -/
def teamSize : Nat := 0xA0000
/-- The local address of a socket's MMIO window (R13). -/
def mmioBase (sock : Nat) : Nat := 0x30000000000 + sock * 0x40000000

/-- Where a local address leads (R13). -/
inductive Aperture where
  | hbm (stack : Nat)
  | pad (die off : Nat)
  | team (core off : Nat)
  | mmio (sock off : Nat)
  | none
  deriving DecidableEq, Repr

/-- The stack of an HBM local address (R14). -/
def stackOf (a : Nat) : Nat := ((a / 2 ^ 8) % 16) ^^^ ((a / 2 ^ 12) % 16) ^^^ ((a / 2 ^ 16) % 16) ^^^ ((a / 2 ^ 20) % 16)

/-- The offset of an HBM local address within its stack (R14). -/
def stackOffset (a : Nat) : Nat := ((a % 2 ^ 40) / 2 ^ 12) * 2 ^ 8 + a % 2 ^ 8

/-- The aperture of a local address (R13). -/
def apertureOf (a : Nat) : Aperture :=
  if a < 0x10000000000 then .hbm (stackOf a)
  else if a < 0x10200000000 then
    let off := (a - 0x10000000000) % 0x40000000
    if off < padSize then .pad ((a - 0x10000000000) / 0x40000000) off else .none
  else if 0x20000000000 ≤ a ∧ a < 0x20020000000 then
    let off := (a - 0x20000000000) % 0x100000
    if off < teamSize then .team ((a - 0x20000000000) / 0x100000) off else .none
  else if 0x30000000000 ≤ a ∧ a < 0x30800000000 then
    let sock := (a - 0x30000000000) / 0x40000000
    if sock < 24 then .mmio sock ((a - 0x30000000000) % 0x40000000) else .none
  else .none

/-- Where host memory stands in the memory list. [DESIGN CHOICE, log entry 29] -/
def hostKey (bus : Nat) : Nat := 2 ^ 44 + bus
/-- Where a peer package's line stands in the memory list while this package holds it under a token (R74, R322). -/
def peerKey (phys : Nat) : Nat := 2 ^ 108 + phys

end Sys2Proof.Machine
end

