-- ==== Sys2Proof/Machine/Reach.lean ====
section
/-!
DEFINITION. The parts of the package and the ways between them (R7, R9, R10, R12, R14, R15, R20, R100, R217, R305, R306, R307, R308, R321): the state of
each part, attachment, routers and their minimal routes, the regions of tokens, and what stands between a unit and a coherence point.
-/
namespace Sys2Proof.Machine

/-- Trap codes (R78). -/
abbrev cILLCLAUSE : Nat := 0x01
abbrev cILLOP : Nat := 0x02
abbrev cILLOPND : Nat := 0x03
abbrev cPRIV : Nat := 0x04
abbrev cFMTDIV : Nat := 0x05
abbrev cDIVOVF : Nat := 0x06
abbrev cMISALIGN : Nat := 0x08
abbrev cPAGEFAULT : Nat := 0x09
abbrev cPERMFAULT : Nat := 0x0A
abbrev cREMATOM : Nat := 0x0B
abbrev cTOKEN : Nat := 0x0C
abbrev cMEMUE : Nat := 0x0D
abbrev cPOISON : Nat := 0x0E
abbrev cBARCLOB : Nat := 0x0F
abbrev cATOMLOST : Nat := 0x10
abbrev cCOPYFAULT : Nat := 0x11
abbrev cTILEFAIL : Nat := 0x12
abbrev cPREEMPT : Nat := 0x13
abbrev cSWTRAP : Nat := 0x14
abbrev cDEBUG : Nat := 0x15
abbrev cFPEXC : Nat := 0x16
abbrev cSHADOWERR : Nat := 0x17
abbrev cSPILLOVF : Nat := 0x18

/-- Not a trap code: bytes that a step needs, that have to be asked for (log entry 23). -/
abbrev cWAIT : Nat := 0xFF

/-- The state of compute die k. -/
def State.die (s : State) (k : Nat) : Die := tgetD s.dies k {}
def State.setDie (s : State) (k : Nat) (d : Die) : State := { s with dies := tput s.dies k d }
/-- The state of base die b. -/
def State.base (s : State) (b : Nat) : Base := tgetD s.bases b {}
def State.setBase (s : State) (b : Nat) (d : Base) : State := { s with bases := tput s.bases b d }
/-- The package-wide part of the context of record index c. -/
def State.ctx (s : State) (c : Nat) : Ctx := tgetD s.ctxs c {}
def State.setCtx (s : State) (c : Nat) (x : Ctx) : State := { s with ctxs := tput s.ctxs c x }
/-- The state of the core of package index c. -/
def State.core (s : State) (c : Nat) : Core := tgetD s.cores c {}
def State.setCore (s : State) (c : Nat) (x : Core) : State := { s with cores := tput s.cores c x }

/-- The base dies attached to compute die k (R9). -/
def attached (k : Nat) : List Nat := let t := 2 * (k % 4); [t, t + 1, t + 8, t + 9]

/-- The die, the number within it and the package coordinates of a core of package index c (R100). -/
def coreDie (c : Nat) : Nat := c / 64
def coreNum (c : Nat) : Nat := c % 64
def coreX (c : Nat) : Nat := c / 64 % 4 * 8 + c % 8
def coreY (c : Nat) : Nat := c / 256 * 8 + c % 64 / 8
/-- The package index of the core at (x, y) (R100). -/
def coreAt (x y : Nat) : Nat := 64 * (x / 8 + 4 * (y / 8)) + 8 * (y % 8) + x % 8


/-- The 2 MiB region of a peer address, by package physical address / 2^21 (R217). -/
def regionOf (pa : Nat) : Nat := pa / 2 ^ 21

/-- The socket of the home directory of a region (R321). -/
def homeOf (region : Nat) : Nat := (region % 16) ^^^ ((region / 16) % 16)

/-- The port of a router that leads to a compute die (R305). -/
def clientPort (k : Nat) : Nat := if k < 4 then 7 else 8

/-- Whether a compute die's port to an attached base die works: the base die is not in reset, and the port has not failed (R20, R307). -/
def State.portUp (s : State) (k t : Nat) : Bool := !(s.base t).inReset && !s.pkg.down.contains (t, clientPort k)

/-- The stack and router through which a local address of a package is reached: its home stack for HBM (R14), the lowest attached
stack that is up for the memories and registers of a compute die (R15), the base die for its registers. -/
def State.entryStack (s : State) (a : Nat) : Nat :=
  let up (k : Nat) : Nat := ((attached k).find? (s.portUp k)).getD (attached k).head!
  match apertureOf a with
  | .hbm st => st
  | .pad k _ => up k
  | .team c _ => up (c / 64)
  | .mmio sock _ => if sock < 16 then sock else up (sock - 16)
  | .none => 0

/-- The socket that performs an access to a local address. -/
def sockOf (a : Nat) : Nat :=
  match apertureOf a with
  | .hbm st => st
  | .pad k _ => 16 + k
  | .team c _ => 16 + c / 64
  | .mmio sock _ => sock
  | .none => 0

/-- The attaching base die of a compute die for a stack: another attached one that is up where it is in reset or its client port has failed
(R20, R307). -/
def State.attachFor (s : State) (k stack : Nat) : Nat :=
  let t := ((attached k).find? fun t => t == stack || [2, 4, 15].contains (t ^^^ stack)).getD (attached k).head!
  if s.portUp k t then t else ((attached k).find? (s.portUp k)).getD t

/-- The router that a port 0 to 4 leads to (R305). -/
def neighbour (r port : Nat) : Nat := r ^^^ (if port < 4 then 2 ^ port else 15)

/-- Whether a router, or the link at one of its ports, is out of service in a list of reports (R308): (router, 10) for a router. -/
def outOfService (l : List (Nat × Nat)) (r port : Nat) : Bool :=
  l.contains (r, port) || l.contains (r, 10) || (decide (port < 5) && (l.contains (neighbour r port, port) || l.contains (neighbour r port, 10)))

/-- The ports 0 to 4 of a router that lead anywhere under a list of reports. -/
def linksOf (l : List (Nat × Nat)) (r : Nat) : List Nat := (List.range 5).filter fun g => !outOfService l r g

/-- The routers at each distance of 0 to n from a router. -/
def reach (l : List (Nat × Nat)) (t : Nat) : Nat → List Nat
  | 0 => [t]
  | n + 1 =>
    let rs := reach l t n
    (rs ++ rs.flatMap fun r => (linksOf l r).map (neighbour r)).eraseDups

/-- The distance of a router from another, over what works; 16 for none. -/
def distance (l : List (Nat × Nat)) (r t : Nat) : Nat := ((List.range 16).find? fun n => (reach l t n).contains r).getD 16

/-- The minimal next ports from a router towards another, ascending (R306, R308). -/
def minimalPorts (l : List (Nat × Nat)) (r t : Nat) : List Nat :=
  let d := distance l r t
  (linksOf l r).filter fun g => distance l (neighbour r g) t + 1 == d

/-- Whether an access writes memory. -/
def AccKind.writes : AccKind → Bool
  | .load | .pref | .acq => false
  | _ => true

/-- Whether an access is an atomic of R217. -/
def AccKind.isAtomic : AccKind → Bool
  | .atomic _ | .fadd | .cas => true
  | _ => false

/-- The token of a region as the replica of a base die shows it (R217, R322, R391). [DEDUCED, log entry 34] -/
def State.tokenAt (s : State) (t region : Nat) : Option Token :=
  if (s.base t).lostTokens.contains region then none else (tget s.pkg.tokens region).filter fun x => x.ctxs != []

/-- What a peer page gives an access under the token rules at an attaching base die (R217): served from the package's cache or performed at home, or the
cause with which it is held. [DEDUCED, log entry 27] -/
def State.tokenRule (s : State) (t : Nat) (e : DWord) (pa : Nat) (k : AccKind) : Except Nat Bool :=
  let tok := if bit e 5 then s.tokenAt t (regionOf pa) else none
  let ex := match tok with | some t => t.exclusive | none => false
  if k.isAtomic then if ex then .ok true else if bit e 4 then .ok false else .error 5
  else if k.writes then
    if ex then .ok true else if tok.isSome then .ok false else if bit e 3 then .ok false else .error 4
  else if tok.isSome then .ok true else if bit e 3 then .ok false else .error 4

/-- The holders that stand in the way of a request of a package: an exclusive holder for any request, every other holder for an exclusive
acquire, and the earliest for a ninth shared holder (R74, R321). -/
def DirEnt.blockers (e : DirEnt) (pkg : Nat) (ex share : Bool) : List Nat :=
  let others := e.holders.filter (· != pkg)
  if ex || e.exclusive then others
  else if share && !e.holders.contains pkg && 8 ≤ e.holders.length then e.holders.take 1
  else []

/-- The package's own full physical address of a local one. -/
def State.ownAddr (s : State) (a : Nat) : Nat := s.pkg.id * 2 ^ 44 + a

/-- Why the local line at an address cannot be served: the code and cause of R16, R20, R79 and R90. -/
def State.lineErr (s : State) (a : Nat) : Option (Nat × Nat) :=
  match apertureOf a with
  | .hbm k => if (s.base k).inReset then some (cMEMUE, 3) else if s.mem.isBad a then some (cMEMUE, 1) else none
  | .pad k _ | .team k _ =>
    let die := match apertureOf a with | .team c _ => c / 64 | _ => k
    if (s.die die).inReset || (s.die die).down then some (cMEMUE, 4) else if s.mem.isBad a then some (cMEMUE, 5) else none
  | .mmio _ _ | .none => some (cPERMFAULT, 0)

/-- Whether the routers that work join a unit's router to another one (R306, R308). -/
def State.joined (s : State) (r t : Nat) : Bool := s.pkg.view = [] || r == t || minimalPorts s.pkg.view r t != []

/-- Why a unit of a socket cannot reach a local address of the package (R10, R15, R20, R307, R308): no port of its die works, no stack by which a die
is entered is up, or no route is left. [DESIGN CHOICE, log entry 23] -/
def State.pathErr (s : State) (src a : Nat) : Option (Nat × Nat) :=
  let entry := s.entryStack a
  let t := if src < 16 then src else s.attachFor (src - 16) entry
  let shut : Bool := match apertureOf a with
    | .pad k _ => !s.portUp k entry
    | .team c _ => !s.portUp (c / 64) entry
    | .mmio w _ => decide (16 ≤ w) && !s.portUp (w - 16) entry
    | _ => false
  if decide (16 ≤ src) && !s.portUp (src - 16) t then some (cMEMUE, 3)
  else if shut then some (cMEMUE, 3)
  else if s.joined t entry then none else some (cPERMFAULT, 0)

/-- What the token directory of a region of this package holds (R321). -/
def State.dirAt (s : State) (pa : Nat) : Option DirEnt := tget (s.base (homeOf (regionOf pa))).dir (regionOf pa)

/-- Whether a local access to HBM of this package waits at its home directory for a recall, or a write for invalidations (R74), or for the lock of its line
(R325). -/
def State.homeBusy (s : State) (pa : Nat) (writes : Bool) : Bool :=
  (s.mem.locks.any fun l => l.1 == pa / 64) || match s.dirAt pa with
  | none => false
  | some e => e.writer.isSome || e.pending != [] || e.blockers s.pkg.id false false != [] || (writes && e.holders.any (· != s.pkg.id))

/-- How a unit comes to a line: it can act on it within its step, it must ask for it, or it cannot. -/
inductive Way1 where
  | here
  | ask
  | bad (code cause : Nat)
  deriving DecidableEq, Repr

/-- How a unit of a socket comes to the line at a physical address of a leaf's page (R10, R12, R74, R217): a line of a peer package that this
package does not hold in its caches, and a line of its own that other packages hold, are asked for. [DESIGN CHOICE, log entry 23] -/
def State.reachOf (s : State) (src : Nat) (e : DWord) (pa : Nat) (k : AccKind) : Way1 :=
  if bits e 8 3 = 2 then .here
  else if pa / 2 ^ 44 ≠ s.pkg.id then
    match s.tokenRule (if src < 16 then src else s.attachFor (src - 16) (stackOf (pa % 2 ^ 44))) e pa k with
    | .error cause => .bad (if cause = 5 then cREMATOM else cTOKEN) 0
    | .ok local_ => if local_ && (tget s.mem.cached (pa / 64)).isSome then .here else .ask
  else match s.pathErr src (pa % 2 ^ 44) with
    | some x => .bad x.1 x.2
    | none => match apertureOf (pa % 2 ^ 44) with
      | .hbm st => if !(s.base st).inReset && s.homeBusy pa k.writes then .ask else .here
      | _ => .here

end Sys2Proof.Machine
end

