-- ==== Sys2Proof/Machine/Registers.lean ====
section
/-!
DEFINITION. The registers in the MMIO windows (R13, R329, R365) as bytes that an access reads.
-/
namespace Sys2Proof.Machine

/-- The bytes of a queue record (R366). -/
def Queue.image (x : Queue) : List Byte :=
  leBytes 8 x.base.toNat ++ leBytes 8 x.write ++ leBytes 8 x.read ++ leBytes 8 x.pass ++ leBytes 2 x.tickets ++ leBytes 1 x.logsize
    ++ leBytes 1 x.ctx ++ leBytes 1 x.state ++ leBytes 1 (x.enable.toNat + 2 * x.priv.toNat) ++ leBytes 2 x.lend
    ++ leBytes 8 0 ++ leBytes 8 x.errsig.toNat ++ leBytes 8 x.errinfo.toNat

/-- The bytes of a context record (R384), its reset value where nothing has been written. -/
def CtxRec.image (r : CtxRec) : List Byte :=
  if r.bytes = [] then patchBytes (List.replicate 256 0) 28 (leBytes 4 2000) else r.bytes

/-- A context record as the driver's write leaves it: its reserved bytes and bits stay zero (R3, R384). -/
def contextOf (b : List Byte) : List Byte :=
  let low (k m : Nat) (b : List Byte) : List Byte := patchBytes b k [(b.getD k 0) &&& BitVec.ofNat 8 m]
  let zero (k n : Nat) (b : List Byte) : List Byte := patchBytes b k (List.replicate n 0)
  zero 0 16 (low 16 7 (zero 17 1 (low 23 15 (zero 112 4 (zero 120 136 b)))))

/-- A context record as it is read, with COMPWR and COMPRD (R384, R385). -/
def CtxRec.view (r : CtxRec) : List Byte := patchBytes r.image 72 (leBytes 8 r.compWr ++ leBytes 8 r.compRd)

/-- The bytes of a bind record (R382). -/
def bindImage (r : BindRec) : List Byte :=
  leBytes 1 r.state ++ leBytes 1 0 ++ leBytes 1 r.prio ++ leBytes 1 r.tpc ++ leBytes 1 r.x ++ leBytes 1 r.y ++ leBytes 1 r.w
    ++ leBytes 1 r.h ++ leBytes 2 r.tcount ++ leBytes 2 r.tfirst ++ leBytes 4 r.launch.toNat ++ leBytes 8 r.args.toNat
    ++ leBytes 8 r.kdesc.toNat

/-- The bytes that the driver has written of a launch-graph node (R378). -/
def Node.written (n : Node) : List Byte := if n.bytes = [] then List.replicate 64 0 else n.bytes

/-- A launch-graph node as it is read, with COUNTER and STATUS (R378). -/
def Node.view (n : Node) : List Byte := patchBytes (patchBytes n.written 24 (leBytes 8 n.counter)) 41 (leBytes 1 n.status)

/-- Whether n bytes at an offset lie in a range of a window. -/
def within (off n lo size : Nat) : Bool := decide (lo ≤ off) && decide (off + n ≤ lo + size)

/-- n bytes at an offset of a compute die's window (R365), or `none` for an addressing error. A doorbell page and the replay register hold
nothing that the rules let a read return: their bytes are free values. -/
def Die.window (d : Die) (step off n : Nat) : Option (List Byte) :=
  let piece (lo size : Nat) (f : Nat → List Byte) : List Byte :=
    let first := (off - lo) / size
    let last := (off - lo + n - 1) / size
    (((List.range (last - first + 1)).flatMap fun i => f (first + i)).drop ((off - lo) % size)).take n
  let free := (List.range n).map fun i => Config.registerByte step (off + i)
  if within off n 0 0x8000000 || within off n 0x8030000 8 then some free
  else if within off n 0x8000000 0x20000 then some (piece 0x8000000 64 fun q => (tgetD d.queues q {}).image)
  else if within off n 0x8020000 0x10000 then some (piece 0x8020000 256 fun c => (tgetD d.recs c {}).view)
  else if within off n 0x8040000 0x4000 then
    some (piece 0x8040000 32 fun k => bindImage (tgetD d.slots k ⟨0, 0, 0, 0, 0, 0, 0, 0, 0, 0, 0, 0⟩))
  else if within off n 0x8080000 0x40000 then some (piece 0x8080000 64 fun k => (tgetD d.nodes k {}).view)
  else none

/-- n bytes at an offset of a base die's window, for function 0 (R329). -/
def Base.window (b : Base) (off n : Nat) : Option (List Byte) :=
  if within off n 0 0x10000 then
    let first := off / 4
    let last := (off + n - 1) / 4
    some ((((List.range (last - first + 1)).flatMap fun i => leBytes 4 (tgetD b.prog (first + i) 0).toNat).drop (off % 4)).take n)
  else if within off n 0x10000 8 then some ((leBytes 8 b.drops.toNat).drop (off - 0x10000) |>.take n)
  else none

/-- n bytes at an offset of a socket's MMIO window, for an access through a PCIe function, or by an agent of the package (`fn` = 9); `none` for
an addressing error (R8, R13, R16, R329, R365, R389): no die answers in ROM recovery (R398), and of a compute die in reset only the context records of which
completion records have still to be written (R392, log entry 34). [DESIGN CHOICE, log entry 30] -/
def State.regRead (s : State) (sock off n fn : Nat) : Option (List Byte) :=
  if sock < 16 then
    let b := tgetD s.bases sock {}
    if fn = 0 && !b.inReset && !s.pkg.recovery then b.window off n else none
  else if sock < 24 && (fn == 0 || fn == 9 || fn == sock - 15) then
    let d := tgetD s.dies (sock - 16) {}
    if (d.inReset && !(d.recs != [] && within off n 0x8020000 0x10000)) || d.down || s.pkg.recovery then none else d.window s.steps off n
  else none

end Sys2Proof.Machine
end

