-- ==== Sys2Proof/Machine/Translate.lean ====
section
/-!
DEFINITION. Address translation (R214, R215), sealing (R323 to R325), and the reads and writes of virtual memory that complete
within one step: instruction fetch (R29), the front end's accesses (R17, R384) and those of the privileged instructions (R191).
-/
namespace Sys2Proof.Machine

/-- The result of a page walk. -/
inductive Walk where
  | leaf (pte : DWord) (level : Nat)
  /-- the cause and the level of R216 -/
  | bad (cause level : Nat)
  deriving DecidableEq, Repr

/-- log2 of the page size of a leaf at a level (R214). -/
def pageShift (level : Nat) : Nat := if level = 2 then 30 else if level = 3 then 21 else 16

/-- Whether a leaf entry at a level is malformed (R215). -/
def leafBad (own level : Nat) (e : DWord) : Bool :=
  bits e 12 4 != 4 - level || bits e 8 3 > 3 || (bits e 16 40 * 2 ^ 16) % 2 ^ pageShift level != 0
    || ((bits e 8 3 == 0 || bits e 8 3 == 3) && bits e 44 12 != own) || (bits e 8 3 == 1 && bits e 44 12 == own)

/-- The table a non-leaf entry names: in local HBM, aligned to its size, every other bit zero (R214). -/
def nextTable (own size : Nat) (e : DWord) : Option Nat :=
  let a := bits e 8 48 * 2 ^ 8
  if bits e 1 7 = 0 ∧ bits e 56 8 = 0 ∧ a / 2 ^ 44 = own ∧ a % 2 ^ 44 < 2 ^ 40 ∧ a % size = 0 then some (a % 2 ^ 44) else none

/-- The levels of R214: level, lowest virtual bit and bits of the index, size of the table that an entry names. -/
def walkLevels : List (Nat × Nat × Nat × Nat) := [(1, 39, 18, 4096), (2, 30, 9, 4096), (3, 21, 9, 256), (4, 16, 5, 0)]

/-- The walk from a table on (R214). [DEDUCED, log entry 46] -/
def walkFrom (m : Mem) (own : Nat) (va : DWord) : List (Nat × Nat × Nat × Nat) → Nat → Walk
  | [], _ => .bad 2 4
  | (lv, sh, w, size) :: t, table =>
    let e := BitVec.ofNat 64 (m.readNat (table + 8 * bits va sh w) 8)
    if !bit e 0 then .bad 1 lv
    else if bit e 11 then if lv = 1 || leafBad own lv e then .bad 2 lv else .leaf e lv
    else if t = [] then .bad 2 lv
    else match nextTable own size e with
      | none => .bad 2 lv
      | some next => walkFrom m own va t next

/-- The key of a TLB entry. -/
def tlbKey (ctx level : Nat) (va : DWord) : Nat := (ctx * 8 + level) * 2 ^ 57 + (va.toNat % 2 ^ 57) / 2 ^ pageShift level

/-- The leaf that a die's TLB holds for an address. -/
def Die.tlbFind (d : Die) (ctx : Nat) (va : DWord) : Option Walk :=
  [2, 3, 4].findSome? fun lv => (tget d.tlb (tlbKey ctx lv va)).map fun e => .leaf e lv

/-- The translation of an address of a context on a die: the TLB's, else the page table's (R214). -/
def State.walk (s : State) (die ctx : Nat) (va : DWord) : Walk :=
  match (s.die die).tlbFind ctx va with
  | some w => w
  | none => walkFrom s.mem s.pkg.id va walkLevels ((s.ctx ctx).root % 2 ^ 44)

/-- The machine with the leaf of a walk held in the die's TLB (R214). [DESIGN CHOICE, log entry 24] -/
def State.fillTlb (s : State) (die ctx : Nat) (va : DWord) : State :=
  match s.walk die ctx va with
  | .bad _ _ => s
  | .leaf e lv => let d := s.die die; s.setDie die { d with tlb := tput d.tlb (tlbKey ctx lv va) e }

/-- The physical address of a virtual one under a leaf (R215). -/
def physOf (e : DWord) (level : Nat) (va : DWord) : Nat :=
  let sh := pageShift level
  bits e 16 40 * 2 ^ 16 / 2 ^ sh * 2 ^ sh + va.toNat % 2 ^ sh

/-- Where the memory list holds the byte of a leaf's page at a physical address. -/
def memKey (own : Nat) (e : DWord) (pa : Nat) : Nat :=
  if bits e 8 3 = 2 then hostKey pa else if pa / 2 ^ 44 = own then pa % 2 ^ 44 else peerKey pa

/-- An address whose bits 63:57 equal bit 56 (R200). -/
def canonical (va : DWord) : Bool := field va 57 7 == (if bit va 56 then 127#7 else 0#7)

/-- The key slot that opens the line of a sealed page at a physical address: loaded, and the line within its range (R323). [DEDUCED, log entry 28] -/
def State.keyFor (s : State) (keyid pa : Nat) : Option KeySlot :=
  match tget s.pkg.keys keyid with
  | none => none
  | some k => if k.rbase ≤ pa ∧ pa < k.rbase + k.rsize then some k else none

def KeySlot.dataKey (k : KeySlot) : List Byte := dwordBytes k.data
def KeySlot.tweakKey (k : KeySlot) : List Byte := dwordBytes k.tweak
def KeySlot.macKey (k : KeySlot) : List Byte := dwordBytes k.tagKey
/-- Where the tag of the line at a physical address lies (R323). -/
def KeySlot.tagAddr (k : KeySlot) (pa : Nat) : Nat := k.tbase + (pa / 64 * 64 - k.rbase) / 8
/-- Where the memory list holds the byte at a package physical address. -/
def physKey (own pa : Nat) : Nat := if pa / 2 ^ 44 = own then pa % 2 ^ 44 else peerKey pa
/-- The tag of the ciphertext of a line (R324). -/
def KeySlot.tag (k : KeySlot) (pa : Nat) (cipher : List Byte) : List Byte := tagOf k.macKey (pa / 64 * 64) k.gen.toNat cipher

/-- The key slot whose range holds a line, if any (R323). -/
def State.sealRange (s : State) (pa : Nat) : Option KeySlot :=
  (s.pkg.keys.find? fun k => decide (k.2.rbase ≤ pa) && decide (pa < k.2.rbase + k.2.rsize)).map (·.2)

/-- Why a line of a leaf's page cannot be served. -/
def State.pageErr (s : State) (e : DWord) (pa : Nat) : Option (Nat × Nat) :=
  if bits e 8 3 = 2 ∨ pa / 2 ^ 44 ≠ s.pkg.id then none else s.lineErr (pa % 2 ^ 44)

/-- Why the tag of a line cannot be had where it lies in this package (R218, R323). -/
def State.tagErr (s : State) (k : KeySlot) (line : Nat) : Option (Nat × Nat) :=
  if k.tagAddr line / 2 ^ 44 = s.pkg.id then s.lineErr (k.tagAddr line % 2 ^ 44) else none

/-- The 64 plaintext bytes of the line at a physical address of a leaf's page, or the code and cause of the failure. [DEDUCED, log entry 28] -/
def State.readLine (s : State) (e : DWord) (pa : Nat) : Except (Nat × Nat) (List Byte) :=
  let line := pa / 64 * 64
  match s.pageErr e line with
  | some err => .error err
  | none =>
    let raw := s.mem.read (memKey s.pkg.id e line) 64
    if !bit e 7 then .ok raw
    else match s.keyFor (bits e 56 8) line with
      | none => .error (cPAGEFAULT, 0)
      | some k =>
        match s.tagErr k line with
        | some err => .error err
        | none =>
          if s.mem.read (physKey s.pkg.id (k.tagAddr line)) 8 = k.tag line raw then .ok (openLine k.dataKey k.tweakKey line raw)
          else .error (cMEMUE, 2)

/-- The plaintext that a store of a part of the line, or of the whole, goes into: a whole line of a sealed page needs no read, so its old tag is not checked
(R218, R325). [DEDUCED, log entry 28] -/
def State.oldLine (s : State) (e : DWord) (pa : Nat) (whole : Bool) : Except (Nat × Nat) (List Byte) :=
  let line := pa / 64 * 64
  if !whole || !bit e 7 then s.readLine e pa
  else match s.pageErr e line, s.keyFor (bits e 56 8) line with
    | some err, _ => .error err
    | none, none => .error (cPAGEFAULT, 0)
    | none, some k => match s.tagErr k line with
      | some err => .error err
      | none => .ok (List.replicate 64 0)

/-- Memory with the plaintext bytes of the line at a physical address of a leaf's page replaced. [DEDUCED, log entry 28] -/
def State.writeLine (s : State) (e : DWord) (pa : Nat) (bs : List Byte) : State :=
  let line := pa / 64 * 64
  let key := memKey s.pkg.id e line
  let s := if (tget s.mem.cached (line / 64)).isSome ∧ bits e 8 3 = 1 then
      { s with mem := { s.mem with cached := tput s.mem.cached (line / 64) true } } else s
  if !bit e 7 then { s with mem := s.mem.write key bs }
  else match s.keyFor (bits e 56 8) line with
    | none => s
    | some k =>
      let c := sealLine k.dataKey k.tweakKey line bs
      { s with mem := (s.mem.write key c).write (physKey s.pkg.id (k.tagAddr line)) (k.tag line c) }

/-- The pieces of bytes a to a + n − 1 within lines: (address, length). -/
def linePieces : Nat → Nat → Nat → List (Nat × Nat)
  | 0, _, _ => []
  | f + 1, a, n => if n = 0 then [] else let k := min n (64 - a % 64); (a, k) :: linePieces f (a + k) (n - k)

/-- The pieces of an access of n bytes. -/
def pieces (a n : Nat) : List (Nat × Nat) := linePieces (n / 64 + 2) a n

/-- The leaf of an address for a read or a write, or the code of the failure: PAGEFAULT for causes 1 and 2 of R216,
PERMFAULT for a non-canonical address (R200), a write to W = 0 or a fetch from X = 0. -/
def State.access (s : State) (die ctx : Nat) (va : DWord) (write exec : Bool) : Except (Nat × Nat) (DWord × Nat) :=
  if !canonical va then .error (cPERMFAULT, 0)
  else match s.walk die ctx va with
    | .bad _ _ => .error (cPAGEFAULT, 0)
    | .leaf e lv => if (write && !bit e 1) || (exec && !bit e 2) then .error (cPERMFAULT, 0) else .ok (e, physOf e lv va)

/-- The socket and the offset of the register at a physical address of a leaf's page, where it lies in an MMIO window of the package (R13). -/
def State.register (s : State) (e : DWord) (pa : Nat) : Option (Nat × Nat) :=
  if bits e 8 3 = 2 ∨ pa / 2 ^ 44 ≠ s.pkg.id then none
  else match apertureOf (pa % 2 ^ 44) with
    | .mmio sock off => some (sock, off)
    | _ => none

/-- The socket from which the unit whose step runs sends its requests: an Attar engine's base die, else the compute die (R10). -/
def State.srcOf (s : State) (die : Nat) : Nat :=
  match s.cursor with
  | .attar sock _ => sock
  | .event (.attarStart sock) => sock
  | _ => 16 + die

/-- The answer that the unit whose step runs has had to a read of a line. -/
def State.told (s : State) (line : Nat) : Answer :=
  match s.asked.find? fun x => x.2.owner == s.cursor && x.2.ask.pa == line && x.2.ask.kind == .read with
  | some x => x.2.answer
  | none => .none

/-- The 8 bytes of the tag of the line at a physical address (R323, R324), as a base die has them: asked for, unless the package's cache holds the tag's line
under a token. [DEDUCED, log entry 28] -/
def State.tagAway (s : State) (k : KeySlot) (pa : Nat) : Except (Nat × Nat) (List Byte) :=
  let a := k.tagAddr pa
  match s.told (a / 64 * 64) with
  | .ok bs => .ok ((bs.drop (a % 64)).take 8)
  | .bad c u => .error (c, u)
  | .none => if (tget s.mem.cached (a / 64)).isSome then .ok (s.mem.read (physKey s.pkg.id a) 8) else .error (cWAIT, 0)

/-- The tag of a line for a unit that acts on its own package's lines within its step, where the tag's line can be read. [DEDUCED, log entry 28] -/
def State.tagBytes (s : State) (k : KeySlot) (pa : Nat) : Except (Nat × Nat) (List Byte) :=
  let a := k.tagAddr pa
  match s.tagAway k pa with
  | .ok tag => .ok tag
  | .error e =>
    if e.1 ≠ cWAIT ∨ a / 2 ^ 44 ≠ s.pkg.id then .error e
    else match s.lineErr (a % 2 ^ 44) with
      | some x => .error x
      | none => .ok (s.mem.read (a % 2 ^ 44) 8)

/-- The plaintext of a line whose bytes have come, under the key of a sealed page (R218, R324). -/
def State.plainLine (s : State) (e : DWord) (line : Nat) (raw : List Byte) : Except (Nat × Nat) (List Byte) :=
  if !bit e 7 then .ok raw
  else match s.keyFor (bits e 56 8) line with
    | none => .error (cPAGEFAULT, 0)
    | some k => match s.tagBytes k line with
      | .error x => .error x
      | .ok tag => if tag = k.tag line raw then .ok (openLine k.dataKey k.tweakKey line raw) else .error (cMEMUE, 2)

/-- The plaintext of the line at a physical address of a leaf's page for a unit of a die, the code and cause of the failure, or cWAIT where the line
has to be asked for. [DESIGN CHOICE, log entry 23] -/
def State.unitLine (s : State) (die : Nat) (e : DWord) (pa : Nat) : Except (Nat × Nat) (List Byte) :=
  let line := pa / 64 * 64
  match s.told line with
  | .ok raw => s.plainLine e line raw
  | .bad c u => .error (c, u)
  | .none => match s.reachOf (s.srcOf die) e line .load with
    | .here => s.readLine e pa
    | .ask => .error (cWAIT, 0)
    | .bad c u => .error (c, u)

/-- A read of the line at a physical address. -/
def State.lineAsk (s : State) (die ctx pa : Nat) : Ask :=
  { src := s.srcOf die
    ctx := ctx
    part := (s.ctx ctx).partid
    pa := pa / 64 * 64
    kind := .read
    size := 5 }

/-- The request for a line, and once it has come that for its tag where the page is sealed (R324). -/
def State.lineAsks (s : State) (die ctx : Nat) (e : DWord) (pa : Nat) : List Ask :=
  let line := pa / 64 * 64
  if s.told line == .none then [s.lineAsk die ctx line]
  else match if bit e 7 then s.keyFor (bits e 56 8) line else none with
    | some k => if (k.tagAddr line) / 2 ^ 44 = s.pkg.id then [] else [s.lineAsk die ctx (k.tagAddr line)]
    | none => []

/-- The bytes of one piece; a register is read in its window (R13). [DESIGN CHOICE, log entry 23] -/
def State.readPiece (s : State) (die ctx : Nat) (exec : Bool) (p : Nat × Nat) : Except (Nat × Nat) (List Byte) :=
  match s.access die ctx (BitVec.ofNat 64 p.1) false exec with
  | .error e => .error e
  | .ok (e, pa) => match s.register e pa with
  | some (sock, off) => match s.pathErr (s.srcOf die) (pa % 2 ^ 44), s.regRead sock off p.2 9 with
    | none, some bs => .ok bs
    | some x, _ => .error x
    | none, none => .error (cPERMFAULT, 0)
  | none =>
    match s.unitLine die e pa with
    | .error e => .error e
    | .ok line => .ok ((line.drop (pa % 64)).take p.2)

/-- The bytes of several pieces. -/
def State.readPieces (s : State) (die ctx : Nat) (exec : Bool) : List (Nat × Nat) → Except (Nat × Nat) (List Byte)
  | [] => .ok []
  | p :: t =>
    match s.readPiece die ctx exec p with
    | .error e => .error e
    | .ok b =>
      match s.readPieces die ctx exec t with
      | .error e => .error e
      | .ok bs => .ok (b ++ bs)

/-- n bytes at a virtual address, or the code and cause of the failure. [DESIGN CHOICE, log entry 23] -/
def State.vread (s : State) (die ctx : Nat) (va : DWord) (n : Nat) : Except (Nat × Nat) (List Byte) :=
  s.readPieces die ctx false (pieces va.toNat n)

/-- The address of the first piece of n bytes that cannot be accessed, or read (R78). -/
def State.failPlace (s : State) (die ctx : Nat) (va : DWord) (n : Nat) (write : Bool) : DWord :=
  match (pieces va.toNat n).find? fun p => match s.access die ctx (BitVec.ofNat 64 p.1) write false, s.readPiece die ctx false p with
      | .ok _, .ok _ => false
      | _, _ => true with
  | some p => BitVec.ofNat 64 p.1
  | none => va

/-- log2 of the size of the largest naturally aligned element that a piece of n bytes at an offset is made of. -/
def elemLog (off n : Nat) : Nat := if (off ||| n) % 8 = 0 then 3 else if (off ||| n) % 4 = 0 then 2 else if (off ||| n) % 2 = 0 then 1 else 0

/-- Whether two requests ask for one thing, whatever their service classes. -/
def Ask.same (a b : Ask) : Bool := { a with lat := b.lat } == b

/-- A write or an addition that a unit asks for (R10, R12, R74): done where it has been answered, or added to what its step needs. -/
def State.askFor (s : State) (a : Ask) : Except (Nat × Nat) State :=
  match s.asked.find? fun x => x.2.owner == s.cursor && x.2.ask.same a && !s.spent.contains x.1 with
  | some (tag, ⟨_, _, .ok _⟩) => .ok { s with spent := tag :: s.spent }
  | some (_, ⟨_, _, .bad c u⟩) => .error (c, u)
  | _ => .ok { s with asks := s.asks ++ [a] }

/-- Whether a unit's step has asked for a change of a line. -/
def State.askedOf (s : State) (line : Nat) (reads : Bool) : Bool :=
  s.asked.any fun x => x.2.owner == s.cursor && x.2.ask.pa / 64 == line / 64 && (reads || x.2.ask.kind != .read)

/-- The request to store bytes within a line. -/
def State.storeAsk (s : State) (die ctx pa : Nat) (bs : List Byte) : Ask :=
  { s.lineAsk die ctx pa with
    kind := .write (BitVec.ofNat 64 ((2 ^ bs.length - 1) * 2 ^ (pa % 64))) (patchBytes (List.replicate 64 0) (pa % 64) bs)
    size := elemLog pa bs.length }

/-- The tag and the answer of a request that the unit whose step runs has sent. -/
def State.askedAs (s : State) (a : Ask) : Option (Nat × Answer) :=
  (s.asked.find? fun x => x.2.owner == s.cursor && x.2.ask.same a).map fun x => (x.1, x.2.answer)

/-- A machine whose step needs a request answered. -/
def State.want (s : State) (a : Ask) : State := { s with asks := s.asks ++ [a] }

/-- The end of a read-modify-write of a sealed line of which the bytes stand (R325): the line is written under its lock, then its tag, which frees it. -/
def State.sealEnd (s : State) (die ctx line lock : Nat) (k : KeySlot) (c : List Byte) : Except (Nat × Nat) State :=
  let tag := { s.storeAsk die ctx (k.tagAddr line) (k.tag line c) with side := 3 + 4 * lock }
  match s.askedAs tag with
  | some (_, .bad code cause) => .error (code, cause)
  | some (_, .ok _) => .ok s
  | _ => .ok (s.want tag)

/-- A change of the plaintext of a line of a sealed page, made by the unit's base die (R324, R325):
it takes the line locked, deciphers it and checks its tag, seals what it has changed, and writes the line and then its tag. A whole line needs no read. A
line whose tag does not match, or cannot be had, is let go unchanged (R218). [DESIGN CHOICE, log entry 23; DEDUCED, log entry 28] -/
def State.sealAway (s : State) (die ctx : Nat) (k : KeySlot) (line : Nat) (whole : Bool) (f : List Byte → List Byte) : Except (Nat × Nat) State :=
  let closed (old : List Byte) : List Byte := sealLine k.dataKey k.tweakKey line (f old)
  if whole then
    let c := closed (List.replicate 64 0)
    let w := { s.storeAsk die ctx line c with side := 1 }
    match s.askedAs w with
    | some (_, .bad code cause) => .error (code, cause)
    | some (lock, .ok _) => s.sealEnd die ctx line lock k c
    | _ => .ok (s.want w)
  else
    let r := { s.lineAsk die ctx line with side := 1 }
    match s.askedAs r with
    | some (_, .bad code cause) => .error (code, cause)
    | some (lock, .ok raw) =>
      let free := { s.storeAsk die ctx (k.tagAddr line) [] with side := 3 + 4 * lock }
      let letGo (x : Nat × Nat) : Except (Nat × Nat) State := match s.askedAs free with
        | some (_, .bad _ _) | some (_, .ok _) => .error x
        | _ => .ok (s.want free)
      match s.tagAway k line with
      | .error x => if x.1 = cWAIT then .ok (s.want (s.lineAsk die ctx (k.tagAddr line))) else letGo x
      | .ok tag =>
        if tag = k.tag line raw then
          let c := closed (openLine k.dataKey k.tweakKey line raw)
          let w := { s.storeAsk die ctx line c with side := 2 + 4 * lock }
          match s.askedAs w with
          | some (_, .bad code cause) => .error (code, cause)
          | some (_, .ok _) => s.sealEnd die ctx line lock k c
          | _ => .ok (s.want w)
        else letGo (cMEMUE, 2)
    | _ => .ok (s.want r)

/-- Bytes stored within a line that has to be asked for. [DESIGN CHOICE, log entry 23] -/
def State.storeAway (s : State) (die ctx : Nat) (e : DWord) (pa : Nat) (bs : List Byte) : Except (Nat × Nat) State :=
  if !bit e 7 then s.askFor (s.storeAsk die ctx pa bs)
  else match s.keyFor (bits e 56 8) (pa / 64 * 64) with
    | none => .error (cPAGEFAULT, 0)
    | some k => s.sealAway die ctx k (pa / 64 * 64) (bs.length == 64) fun old => patchBytes old (pa % 64) bs

/-- One piece stored; bytes of words with a barrier tag are left as they are (R228). [DESIGN CHOICE, log entry 23] -/
def State.writePiece (s : State) (die ctx : Nat) (p : Nat × Nat) (bs : List Byte) : Except (Nat × Nat) State :=
  match s.access die ctx (BitVec.ofNat 64 p.1) true false with
  | .error e => .error e
  | .ok (e, pa) => match s.register e pa with
  | some (sock, off) => match s.pathErr (s.srcOf die) (pa % 2 ^ 44) with
    | some x => .error x
    | none => if (s.regRead sock off p.2 9).isNone then .error (cPERMFAULT, 0) else s.askFor (s.storeAsk die ctx pa (bs.take p.2))
  | none =>
    if s.askedOf pa (bit e 7) then s.storeAway die ctx e pa (bs.take p.2)
    else match s.reachOf (s.srcOf die) e (pa / 64 * 64) .store with
    | .ask => s.storeAway die ctx e pa (bs.take p.2)
    | .bad c u => .error (c, u)
    | .here => match s.oldLine e pa (p.2 == 64) with
      | .error e => .error e
      | .ok line =>
        if s.mem.touchesTag (memKey s.pkg.id e pa) p.2 then .error (cBARCLOB, 0)
        else
          let s := s.writeLine e pa (patchBytes line (pa % 64) (bs.take p.2))
          .ok (match apertureOf (memKey s.pkg.id e pa) with
            | .pad _ _ => { s with mem := s.mem.own (memKey s.pkg.id e pa) (some ctx) }
            | _ => s)

/-- Several pieces stored in order. -/
def State.writePieces (s : State) (die ctx : Nat) : List (Nat × Nat) → List Byte → Except (Nat × Nat) State
  | [], _ => .ok s
  | p :: t, bs =>
    match s.writePiece die ctx p bs with
    | .error e => .error e
    | .ok s' => s'.writePieces die ctx t (bs.drop p.2)

/-- Bytes stored at a virtual address, or the code and cause of the failure, with nothing stored. [DESIGN CHOICE, log entry 23] -/
def State.vwrite (s : State) (die ctx : Nat) (va : DWord) (bs : List Byte) : Except (Nat × Nat) State :=
  s.writePieces die ctx (pieces va.toNat bs.length) bs

/-- The word at an address fetched as an instruction (R29), or the code and cause of the failure. [DEDUCED, log entry 20] -/
def State.fetch (s : State) (die ctx : Nat) (va : DWord) : Except (Nat × Nat) Word :=
  match s.readPiece die ctx true (va.toNat, 4) with
  | .error e => .error e
  | .ok bs => .ok (BitVec.ofNat 32 (ofLeBytes bs))

end Sys2Proof.Machine
end

