-- ==== Sys2Proof/Machine/Report.lean ====
section
/-!
DEFINITION. What the units report: interrupts, ERRLOG records (R393), sillage trace records (R96 to R98), fault and
context-end records (R216, R404), completion records (R385), signal objects (R372, R373), mailbox replies (R389).
-/
namespace Sys2Proof.Machine

/-- The machine with pending steps of asynchronous units added, in order. [DESIGN CHOICE, log entry 1] -/
def State.push (s : State) (is : List Pending) : State := { s with agenda := s.agenda ++ is }
/-- Whether a unit waits for an answer. -/
def State.awaits (s : State) (owner : Cursor) : Bool := s.asked.any fun x => x.2.owner == owner && x.2.answer == .none
/-- A pending step for the agenda, unless it stands there already, or waits for an answer and is made then. -/
def State.kick (s : State) (p : Pending) : State := if s.agenda.contains p || s.awaits (.event p) then s else s.push [p]

/-- An interrupt to the host on a PCIe function (R4, R389); `what` is 0 an ERRLOG record, 1 a fault or context-end record,
2 a completion record, 3 a queue error, 4 an access counter, 5 a chain record's IRQ. [DESIGN CHOICE, log entry 29; DEDUCED, log entry 37] -/
def State.irq (s : State) (fn what info : Nat) : State :=
  { s with pkg := { s.pkg with outs := s.pkg.outs ++ [.irq fn what info] } }

/-- One more thing that leaves the package. [DESIGN CHOICE, log entries 1 and 29] -/
def State.emit (s : State) (o : Out) : State := { s with pkg := { s.pkg with outs := s.pkg.outs ++ [o] } }

/-- The CTXID of a context. -/
def State.ctxid (s : State) (c : Nat) : Word := (s.ctx c).ctxid

/-- An ERRLOG record of a die (R393): the oldest of 1,024 gives way, and every uncorrected record raises an interrupt. [DEDUCED, log entry 37] -/
def State.errlog (s : State) (sock src sev engine code ctx addr : Nat) : State :=
  let l := tgetD s.pkg.errlogs sock {}
  let r : ErrRec := ⟨s.pkg.time, sock, src, sev, engine, code, ctx, addr⟩
  let full := 1024 ≤ l.recs.length
  let l' : ErrLog :=
    { recs := (if full then l.recs.drop 1 else l.recs) ++ [r]
      overwritten := if full then l.overwritten + 1 else l.overwritten
      sev := tput l.sev sev (tgetD l.sev sev 0 + 1) }
  let s := { s with pkg := { s.pkg with errlogs := tput s.pkg.errlogs sock l' } }
  if sev = 0 then s else s.irq 0 0 sock

/-- One access counter increment for a line of a counted page (R290), with its threshold interrupt. -/
def State.countLine (s : State) (die stack pa : Nat) : State :=
  let b := s.base stack
  let key := pa / 2 ^ 16 * 8 + die
  let n := tgetD b.counters key 0
  let s := s.setBase stack { b with counters := tput b.counters key (min (n + 1) 65535) }
  if b.threshold ≠ 0 ∧ n + 1 = b.threshold then s.irq (1 + die) 4 (pa / 2 ^ 16) else s

/-- The count of an access of a die to the line at a physical address of a page (R290): a host page is counted under its bus address with bit 57
set. -/
def State.countAt (s : State) (die aper pa : Nat) (counted : Bool) : State :=
  if !counted then s
  else if aper = 2 then s.countLine die (s.attachFor die 0) (2 ^ 57 + pa)
  else match apertureOf (pa % 2 ^ 44) with
    | .hbm st => if pa / 2 ^ 44 = s.pkg.id then s.countLine die st pa else s
    | _ => s

/-- The counts of an access of a unit of a die to n bytes (R290): one for each line portion. -/
def State.countRange (s : State) (die ctx : Nat) (va : DWord) (n : Nat) : State :=
  (pieces va.toNat n).foldl (fun (t : State) p => match s.access die ctx (BitVec.ofNat 64 p.1) false false with
    | .ok (e, pa) => t.countAt die (bits e 8 3) pa (bit e 6)
    | .error _ => t) s

/-- Whether an address of a leaf's page leads nowhere in the package, or to no register (R13). -/
def State.stray (s : State) (e : DWord) (pa n : Nat) : Bool :=
  bits e 8 3 != 2 && pa / 2 ^ 44 == s.pkg.id && match apertureOf (pa % 2 ^ 44) with
    | .none => true
    | .mmio sock off => (s.regRead sock off n 9).isNone
    | _ => false

/-- An addressing error of a unit recorded by the base die that finds it, with the unit's socket (R16). -/
def State.strayLog (s : State) (src ctx pa : Nat) : State :=
  s.errlog (if src < 16 then src else if src < 24 then s.attachFor (src - 16) 0 else 0) src 1 4 cPERMFAULT (s.ctxid ctx).toNat pa

/-- Whether no route is left from a unit of a die to an address of a leaf's page (R16, R308). -/
def State.cutOff (s : State) (die : Nat) (e : DWord) (pa : Nat) : Bool :=
  bits e 8 3 != 2 && pa / 2 ^ 44 == s.pkg.id && (s.pathErr (s.srcOf die) (pa % 2 ^ 44)).any fun x => x.1 == cPERMFAULT

/-- What a failed access of a unit leaves beside its failure: the requests for lines that have to be asked for (log entry 23), the ERRLOG record of an
addressing error (R16), and an uncorrectable line of an on-chip array that it has found (R91). -/
def State.failedAt (s : State) (die ctx : Nat) (va : DWord) (n : Nat) (err : Nat × Nat) : State :=
  let at_ := (pieces va.toNat n).filterMap fun p => match s.access die ctx (BitVec.ofNat 64 p.1) false false with
    | .ok x => some (x.1, x.2, p.2)
    | .error _ => none
  if err.1 = cWAIT then 
    let missing := at_.filter fun x => match s.unitLine die x.1 x.2.1 with
      | .error u => u.1 == cWAIT
      | .ok _ => false
    { s with asks := s.asks ++ (missing.flatMap fun x => s.lineAsks die ctx x.1 x.2.1) }
  else if err.1 = cPERMFAULT then match at_.find? fun x => s.stray x.1 x.2.1 x.2.2 || s.cutOff die x.1 x.2.1 with
    | some x => s.strayLog (s.srcOf die) ctx x.2.1
    | none => s
  else if err = (cMEMUE, 5) then match at_.find? fun x =>
      bits x.1 8 3 != 2 && x.2.1 / 2 ^ 44 == s.pkg.id && s.lineErr (x.2.1 % 2 ^ 44) == some (cMEMUE, 5) with
    | some x => s.push [.badLine (x.2.1 % 2 ^ 44 / 64)]
    | none => s
  else s

/-- The packet of a request (R312, R313). [DESIGN CHOICE, log entry 23] -/
def State.askPacket (s : State) (tag : Nat) (a : Ask) (pinned : Bool) : Packet :=
  let h : Packet := {
    addr := BitVec.ofNat 56 a.pa
    tag := BitVec.ofNat 32 tag
    part := a.part
    spkg := BitVec.ofNat 12 s.pkg.id
    ssock := BitVec.ofNat 5 a.src
    dpkg := BitVec.ofNat 12 (a.pa / 2 ^ 44)
    dsock := BitVec.ofNat 5 (sockOf (a.pa % 2 ^ 44))
    lat := a.lat
    ord := pinned
    size := BitVec.ofNat 3 a.size
    side := BitVec.ofNat 64 a.side
    ctx := some (BitVec.ofNat 8 a.ctx) }
  match a.kind with
  | .read => { h with kind := 1 }
  | .write mask bytes => { h with
      kind := 2
      opnd := mask
      payload := (leWords 8 8 bytes).map (BitVec.ofNat 64) }
  | .add n => { h with
      kind := 4
      gcnt := 1
      nopnd := 1
      payload := [n] }

/-- A request sent from its socket into the fabric (R10, R307), unless the unit has sent it and waits for its answer, or has read its line. -/
def State.sendAsk (s : State) (owner : Cursor) (a : Ask) : State :=
  if s.asked.any fun x => x.2.owner == owner && x.2.ask.same a && (x.2.answer == .none || a.kind == .read) then s
  else
    let tag := s.nextOp
    let p := s.askPacket tag a (match owner with | .region _ => true | _ => false)
    let t := if a.src < 16 then a.src else s.attachFor (a.src - 16) (s.entryStack (a.pa % 2 ^ 44))
    { s with
      nextOp := tag + 1
      asked := tput s.asked tag { owner := owner, ask := a } }.push
      [.routerPacketArrive t (if a.src < 16 then 9 else clientPort (a.src - 16)) p]

/-- The requests of a unit sent. [DESIGN CHOICE, log entry 23] -/
def State.sendAsks (s : State) (owner : Cursor) (as : List Ask) : State := as.foldl (fun s a => s.sendAsk owner a) s

/-- A unit's answered requests forgotten, once it waits for none. -/
def State.forgetAsks (s : State) (owner : Cursor) : State :=
  if s.awaits owner then s else { s with
    asked := s.asked.filter fun x => x.2.owner != owner
    spent := [] }

/-- The requests of units that are gone, forgotten. -/
def State.loseAsks (s : State) (gone : Cursor → Bool) : State := { s with asked := s.asked.filter fun x => !gone x.2.owner }

/-- The step of a unit kept, or taken back where it needs what it has to ask for: then its requests are sent, and the step is made when they have been
answered. [DESIGN CHOICE, log entry 23] -/
def State.kept (s : State) (owner : Cursor) (o : Outcome) : Outcome :=
  match o with
  | .next t => .next (if t.asks = [] then t.forgetAsks owner else s.sendAsks owner t.asks)
  | x => x

/-- Whether the ring has no free slot, or none has been set (R96). -/
def Ring.full (r : Ring) : Bool := !r.set || r.size / 32 ≤ r.wr - r.drain

/-- A record written to a die's sillage ring, or dropped and counted (R96). [DEDUCED, log entry 36] -/
def State.ringPut (s : State) (sock : Nat) (rec : List Byte) : State :=
  let r := tgetD s.pkg.rings sock {}
  if r.full then
    let r' := { r with dropped := r.dropped + 1, newDrops := r.newDrops + 1 }
    { s with pkg := { s.pkg with rings := tput s.pkg.rings sock r' } }
  else
    { s with
      mem := s.mem.write (r.base + 32 * (r.wr % (r.size / 32))) rec
      pkg := { s.pkg with rings := tput s.pkg.rings sock { r with wr := r.wr + 1 } } }

/-- The bytes of a trace record (R97). [DEDUCED, log entry 36] -/
def traceBytes (time : DWord) (sock engine unit kind tag : Nat) (payload : List Byte) : List Byte :=
  leBytes 8 time.toNat ++ leBytes 1 sock ++ leBytes 1 engine ++ leBytes 2 unit ++ leBytes 2 kind ++ leBytes 2 tag ++ payload

/-- A trace record of a unit of a die (R97). [DEDUCED, log entry 36] -/
def State.trace (s : State) (sock engine unit kind tag : Nat) (payload : List Byte) : State :=
  s.ringPut sock (traceBytes s.pkg.time sock engine unit kind tag payload)

/-- The kind 0x0007 record that precedes every other record after a ring is set or space frees (R96, R98). [DEDUCED, log entry 36] -/
def State.traceDrops (s : State) (sock : Nat) : State :=
  let r := tgetD s.pkg.rings sock {}
  if r.full then s
  else
    let s := s.trace sock 7 0 7 0 (leBytes 16 r.newDrops)
    let r := tgetD s.pkg.rings sock {}
    { s with pkg := { s.pkg with rings := tput s.pkg.rings sock { r with newDrops := 0 } } }

/-- The context record i of die k. -/
def State.ctxRec (s : State) (die c : Nat) : CtxRec := tgetD (s.die die).recs c {}
def State.setCtxRec (s : State) (die c : Nat) (r : CtxRec) : State :=
  let d := s.die die
  s.setDie die { d with recs := tput d.recs c r }

/-- The next fault sequence number of a die taken (R216, R404). [DESIGN CHOICE, log entry 8] -/
def State.nextSeq (s : State) (die : Nat) : State :=
  let d := s.die die
  s.setDie die { d with faultSeq := d.faultSeq + 1 }

/-- A 32-byte record written to a context's fault buffer in host memory, with its interrupt (R216, R404). -/
def State.faultRecord (s : State) (die c : Nat) (bytes : List Byte) : State :=
  let r := s.ctxRec die c
  let slot := r.faultWr % 2 ^ fieldBytes r.image 18 1
  let s := { s with mem := s.mem.write (hostKey (fieldBytes r.image 48 8 + 32 * slot)) bytes }
  (s.setCtxRec die c { r with faultWr := r.faultWr + 1 }).irq (1 + die) 1 c

/-- The bytes of a completion record (R385). -/
def completionBytes (time : DWord) (kind status code queue : Nat) (tag launch : Word) (info : DWord) : List Byte :=
  leBytes 8 time.toNat ++ leBytes 4 launch.toNat ++ leBytes 4 tag.toNat ++ leBytes 2 queue ++ leBytes 1 kind
    ++ leBytes 1 status ++ leBytes 4 code ++ leBytes 8 info.toNat

/-- The queue's record on its die. -/
def State.queue (s : State) (die q : Nat) : Queue := tgetD (s.die die).queues q {}
def State.setQueue (s : State) (die q : Nat) (x : Queue) : State :=
  let d := s.die die
  s.setDie die { d with queues := tput d.queues q x }

/-- Every front end with a queue blocked on a WAITSIG steps again (R373). -/
def State.notify (s : State) : State :=
  s.push ((List.range 8).filterMap fun k =>
    if (s.die k).queues.any fun q => q.2.state == 2 && q.2.waitFrom.isSome then some (.packetProcessorStep k) else none)

/-- The addition of a value to the 8-byte word of a signal object, at package scope (R224, R372, R373): an atomic, so that a register of an MMIO window
is an addressing error (R13); at its home where the object lies elsewhere. [DESIGN CHOICE, log entry 23] -/
def State.signalAdd (s : State) (die ctx : Nat) (va : DWord) (n : DWord) : Except (Nat × Nat) State :=
  match s.access die ctx va true false with
  | .error e => .error e
  | .ok (e, pa) =>
    if (s.register e pa).isSome then .error (cPERMFAULT, 0)
    else if s.askedOf pa (bit e 7) || s.reachOf (s.srcOf die) e (pa / 64 * 64) .store == .ask then
      if !bit e 7 then s.askFor { s.lineAsk die ctx pa with
        pa := pa
        kind := .add n
        size := 3 }
      else match s.keyFor (bits e 56 8) (pa / 64 * 64) with
        | none => .error (cPAGEFAULT, 0)
        | some k => s.sealAway die ctx k (pa / 64 * 64) false fun old =>
            patchBytes old (pa % 64) (leBytes 8 (BitVec.ofNat 64 (fieldBytes old (pa % 64) 8) + n).toNat)
    else match s.vread die ctx va 8 with
      | .error e => .error e
      | .ok bs => s.vwrite die ctx va (leBytes 8 (BitVec.ofNat 64 (ofLeBytes bs) + n).toNat)

/-- The 8-byte word of a signal object set, at package scope (R370, R373): an atomic as well. -/
def State.signalSet (s : State) (die ctx : Nat) (va v : DWord) : Except (Nat × Nat) State :=
  match s.access die ctx va true false with
  | .error e => .error e
  | .ok (e, pa) => if (s.register e pa).isSome then .error (cPERMFAULT, 0) else s.vwrite die ctx va (leBytes 8 v.toNat)

/-- A failed access to a signal object recorded: an atomic on a register is an addressing error (R13, R16). -/
def State.failedSignal (s : State) (die ctx : Nat) (va : DWord) (err : Nat × Nat) : State :=
  match s.access die ctx va true false with
  | .ok (e, pa) => if (s.register e pa).isSome then s.strayLog (s.srcOf die) ctx pa else s.failedAt die ctx va 8 err
  | .error _ => s

/-- The subtraction of SIGNAL from a signal object, and its notification (R224, R372). -/
def State.signalSub (s : State) (die ctx : Nat) (va : DWord) (n : DWord) : Except (Nat × Nat) State :=
  match s.signalAdd die ctx va (0 - n) with
  | .error e => .error e
  | .ok s' => .ok s'.notify

/-- A queue put in ERROR with a cause, its error signal written and the driver interrupted (R366, R368). -/
def State.queueError (s : State) (die q cause : Nat) : State :=
  let x := s.queue die q
  let s := s.setQueue die q { x with state := 3, errinfo := BitVec.ofNat 64 (cause + 256 * x.read), waitFrom := none, lendsTo := none }
  let s := if x.errsig = 0 then s
    else match s.vwrite die x.ctx x.errsig (leBytes 8 (2 ^ 63 + cause)) with
      | .ok s' => (s'.countRange die x.ctx x.errsig 8).notify
      | .error e => s.failedAt die x.ctx x.errsig 8 e
  s.irq (1 + die) 3 q

/-- The decrement of a DONESIG (R369, R385); a fault on the object is the queue's cause FAULT (R371). -/
def State.doneSig (s : State) (die ctx : Nat) (sig : DWord) (queue : Option Nat) : State :=
  if sig = 0 then s
  else match s.signalSub die ctx sig 1 with
    | .ok s' => s'.countRange die ctx sig 8
    | .error e =>
      let s := s.failedSignal die ctx sig e
      match queue with
      | some q => s.queueError die q 4
      | none => s

/-- One completion record written to the context's ring, or `none` where the write fails (R385): a fault on the DONESIG of a packet is its queue's
cause FAULT (R371). -/
def State.putCompletion (s : State) (die c : Nat) (bytes : List Byte) (sig : DWord) : Option State :=
  let r := s.ctxRec die c
  let ring := BitVec.ofNat 64 (fieldBytes r.image 64 8 + 32 * (r.compWr % 2 ^ fieldBytes r.image 19 1))
  match s.vwrite die c ring bytes with
  | .error _ => none
  | .ok s' =>
    let s' := (s'.countRange die c ring 32).setCtxRec die c { s'.ctxRec die c with compWr := r.compWr + 1 }
    let s' := if (BitVec.ofNat 16 (fieldBytes r.image 16 2)).getLsbD 2 then s'.irq (1 + die) 2 c else s'
    some (s'.doneSig die c sig (if fieldBytes bytes 18 1 = 1 then some (fieldBytes bytes 16 2) else none))

/-- Why a completion record cannot be written. -/
def State.ringErr (s : State) (die c : Nat) (bytes : List Byte) : Nat × Nat :=
  let r := s.ctxRec die c
  match s.vwrite die c (BitVec.ofNat 64 (fieldBytes r.image 64 8 + 32 * (r.compWr % 2 ^ fieldBytes r.image 19 1))) bytes with
  | .error e => e
  | .ok _ => (0, 0)

/-- Whether the ring of a context's record is full (R385). -/
def CtxRec.compFull (r : CtxRec) : Bool := r.compWr - r.compRd == 2 ^ fieldBytes r.image 19 1

/-- The waiting completion records written in order while there is room and the writes succeed (R385). -/
def State.drainCompletions : Nat → State → Nat → Nat → State
  | 0, s, _, _ => s
  | n + 1, s, die, c =>
    let r := s.ctxRec die c
    match r.waiting with
    | [] => s.setCtxRec die c { r with retrying := false }
    | (bytes, sig) :: t =>
      if r.compFull then s
      else match (s.setCtxRec die c { r with waiting := t }).putCompletion die c bytes sig with
        | some s' => State.drainCompletions n s' die c
        | none =>
          let s := s.failedAt die c (BitVec.ofNat 64 (fieldBytes r.image 64 8 + 32 * (r.compWr % 2 ^ fieldBytes r.image 19 1))) 32 (s.ringErr die c bytes)
          let s' := s.setCtxRec die c { s.ctxRec die c with retrying := true, failedAt := s.pkg.time }
          if r.retrying then s' else s'.errlog (16 + die) (16 + die) 1 5 cPERMFAULT (s.ctxid c).toNat 0

/-- A completion record of a context on a die (R385): behind the records that wait, each written when it can be. -/
def State.complete (s : State) (die c kind status code queue : Nat) (tag launch : Word) (info sig : DWord) : State :=
  let r := s.ctxRec die c
  let bytes := completionBytes s.pkg.time kind status code queue tag launch info
  let s' := s.setCtxRec die c { r with waiting := r.waiting ++ [(bytes, sig)] }
  if r.retrying then s' else State.drainCompletions (r.waiting.length + 2) s' die c

/-- A packet of a queue completed (R369, R370, R385): its record where it asks for one or failed, else DONESIG alone. -/
def State.packetDone (s : State) (die q index ctx : Nat) (tag : Word) (crec : Bool) (sig : DWord) (status code : Nat)
    (launch : Word) : State :=
  let x := s.queue die q
  let s := s.setQueue die q { x with open_ := x.open_.filter (· != index) }
  let s := if crec || status != 0 then s.complete die ctx 1 status code q tag launch (BitVec.ofNat 64 index) sig
    else s.doneSig die ctx sig (some q)
  if x.state = 2 then s.push [.packetProcessorStep die] else s

/-- The reply to a mailbox message, written to its slot, and MDONE (R389, R406). -/
def State.reply (s : State) (m : Mail) (status : Nat) (payload : List Byte) : State :=
  let a := hostKey (s.pkg.mbase + 64 * (m.slot % 2 ^ s.pkg.mlog))
  let mem := (s.mem.write (a + 3) (leBytes 1 status)).write (a + 8) ((payload ++ List.replicate 56 0).take 56)
  { s with mem := mem, pkg := { s.pkg with mdone := s.pkg.mdone + 1 } }

/-- A reply of 8-byte values in the order listed (R406). -/
def State.replyWords (s : State) (m : Mail) (status : Nat) (vals : List DWord) : State := s.reply m status (dwordBytes vals)

end Sys2Proof.Machine
end

