-- ==== Sys2Proof/Machine/Context.lean ====
section
/-!
DEFINITION. What ends with a gang, a team, a launch and a context (R114, R117, R176, R222, R335, R384, R387, R388, R404), shared by
the words and the events that bring it about.
-/
namespace Sys2Proof.Machine

def gangKey (core id : Nat) : Nat := core * 64 + id
def teamKey (core slot : Nat) : Nat := core * 8 + slot
def State.gang (s : State) (k : Nat) : Option Gang := tget s.gangs k
def State.setGang (s : State) (k : Nat) (g : Gang) : State := { s with gangs := tput s.gangs k g }
def State.team (s : State) (k : Nat) : Option Team := tget s.teams k
def State.setTeam (s : State) (k : Nat) (t : Team) : State := { s with teams := tput s.teams k t }
def Gang.teamKey (g : Gang) : Nat := Machine.teamKey g.core g.team
def Gang.die (g : Gang) : Nat := coreDie g.core
def Gang.lane (g : Gang) (i : Nat) : Lane := g.lanes.getD i {}
/-- The live lanes (R112). -/
def Gang.liveList (g : Gang) : List Nat := (List.range g.width).filter fun i => (g.lane i).live
def Gang.live (g : Gang) : BitVec 64 := maskOf g.liveList

/-- The lines of a region that the package's caches hold (R322). -/
def State.cachedLines (s : State) (region : Nat) : List (Nat × Bool) := s.mem.cached.filter fun l => l.1 * 64 / 2 ^ 21 == region

/-- The request that returns a dirty line to its home (R322); a line of a sealed range goes home locked until its tag has followed it (R325). -/
def State.writeBack (s : State) (part : BitVec 12) (line : Nat) : Ask :=
  let pa := line * 64
  { src := stackOf (pa % 2 ^ 44)
    ctx := 0
    part := part
    pa := pa
    kind := .write (BitVec.allOnes 64) (s.mem.read (peerKey pa) 64)
    size := 5
    side := if (s.sealRange pa).isSome then 1 else 0 }

/-- Reads in flight at home whose lines are no longer to be cached when they arrive. [DEDUCED, log entry 43] -/
def State.uncacheReads (s : State) (hit : Nat → Bool) : State :=
  { s with flight := s.flight.map fun x => match x.2.job with
      | .access a =>
        if a.kind.writes then x
        else
          let ps := a.parts.map fun (p : Part) => { p with peerCached := p.peerCached && !(p.st == AccSt.sent && hit p.pa) }
          (x.1, { x.2 with job := .access { a with parts := ps } })
      | _ => x }

/-- A line of a peer region that the package wrote at home: its own copy is gone (R74). -/
def State.forgetLine (s : State) (line : Nat) : State :=
  if line * 64 / 2 ^ 44 = s.pkg.id then s
  else
    let s := s.uncacheReads fun pa => pa / 64 == line
    let lo := peerKey (line * 64)
    if (tget s.mem.cached line).isNone then s
    else { s with mem := { s.mem.clear lo (lo + 64) with cached := tdel s.mem.cached line } }

/-- The acknowledgement of a recall, or of an invalidation (SIDE 1), sent home (R321, R322; R74, log entry 43). -/
def State.regionAck (s : State) (region kind : Nat) (part : BitVec 12) : State :=
  let home := homeOf region
  s.push [.routerPacketArrive home 9
    { addr := BitVec.ofNat 56 (region * 2 ^ 21)
      part := part
      spkg := BitVec.ofNat 12 s.pkg.id
      ssock := BitVec.ofNat 5 home
      dpkg := BitVec.ofNat 12 (region * 2 ^ 21 / 2 ^ 44)
      dsock := BitVec.ofNat 5 home
      ord := true
      kind := 0x0B
      side := BitVec.ofNat 64 kind }]

/-- The tags still to be written of the sealed lines that have gone home with a region (R325). -/
def State.regionTags (s : State) (owner : Cursor) : List Ask :=
  let mine := s.asked.filter fun x => x.2.owner == owner
  mine.filterMap fun x => match x.2.ask.kind, s.sealRange x.2.ask.pa with
    | .write _ bytes, some k =>
      if x.2.ask.side ≠ 1 || mine.any fun y => y.2.ask.side == 3 + 4 * x.1 then none
      else
        let a := k.tagAddr x.2.ask.pa
        some { x.2.ask with
          pa := a / 64 * 64
          kind := .write (BitVec.ofNat 64 (255 * 2 ^ (a % 64))) (patchBytes (List.replicate 64 0) (a % 64) (k.tag x.2.ask.pa bytes))
          size := 3
          side := 3 + 4 * x.1 }
    | _, _ => none

/-- The return of a region's lines taken further, once all that it has sent has been answered (R322): the tags of sealed lines, then the
acknowledgement. -/
def State.finishRegion (s : State) (code : Nat) (part : BitVec 12) : State :=
  let owner : Cursor := .region code
  if s.awaits owner then s
  else
    let tags := s.regionTags owner
    if tags ≠ [] then s.sendAsks owner tags
    else { s with asked := s.asked.filter fun x => x.2.owner != owner }.regionAck (code / 2) (code % 2) part

/-- No core's L1 holds a line of a peer region any more. -/
def State.dropRegionL1 (s : State) (region : Nat) : State :=
  { s with cores := s.cores.map fun c =>
      (c.1, { c.2 with l1 := c.2.l1.filter fun l => l.1 < peerKey 0 / 64 || regionOf ((l.1 - peerKey 0 / 64) * 64) != region }) }

/-- The region's lines written back and invalidated, and the acknowledgement sent home once they are there (R322): `kind` is 0 where the token goes
with them, and 1 where only the copies are invalidated (R74; log entry 43). -/
def State.returnLines (s : State) (region kind : Nat) (part : BitVec 12) : State :=
  let dirty := (s.cachedLines region).filter fun l => l.2
  let back := dirty.map fun l => s.writeBack part l.1
  let lo := peerKey (region * 2 ^ 21)
  let s := { s with mem := { s.mem.clear lo (lo + 2 ^ 21) with cached := s.mem.cached.filter fun l => l.1 * 64 / 2 ^ 21 != region } }
  let s := (s.uncacheReads fun pa => regionOf pa == region).dropRegionL1 region
  (s.sendAsks (.region (2 * region + kind)) back).finishRegion (2 * region + kind) part

/-- A region's state entered in all 16 replicas of the token table (R322). -/
def State.enterReplicas (s : State) (region : Nat) : State :=
  { s with bases := s.bases.map fun b => (b.1, { b.2 with lostTokens := b.2.lostTokens.filter (· != region) }) }

/-- A token given up: its lines and its acknowledgement go home, and the region leaves the token table (R322). -/
def State.returnToken (s : State) (region : Nat) (part : BitVec 12) : State :=
  let s := ({ s with pkg := { s.pkg with tokens := tdel s.pkg.tokens region } }).enterReplicas region
  s.returnLines region 0 part

/-- A context's hold on a region released; with the last holder the token goes home (R222). -/
def State.releaseToken (s : State) (region c : Nat) : State :=
  match tget s.pkg.tokens region with
  | none => s
  | some t =>
    if !t.ctxs.contains c then s
    else
      let t := { t with ctxs := t.ctxs.filter (· != c) }
      if t.ctxs = [] then s.returnToken region (s.ctx c).partid
      else { s with pkg := { s.pkg with tokens := tput s.pkg.tokens region t } }

/-- An Attar context freed, with its slots and their contributions (R334). -/
def State.freeAttar (s : State) (b k : Nat) : State :=
  let e := s.base b
  let e := { e with actxs := tdel e.actxs k, slots := e.slots.filter fun x => x.2.owner != k }
  ((s.setBase b e).loseAsks fun c => c == .attar b k).push (if e.starts = [] then [] else [.attarStart b])

/-- The end of an Attar program by CEND or by a trap code: its context is freed, and a completion record is written for the context that
started it (R334, R350, R385). [DEDUCED, log entry 32] -/
def State.endProgram (s : State) (b k status code : Nat) (word : Word) : State :=
  match tget (s.base b).actxs k with
  | none => s
  | some x => (s.freeAttar b k).complete x.die x.ctx 4 status code 0xFFFF 0 x.launch (word.setWidth 64) 0

/-- The Attar programs and starts of a context, or of a die, ended without a signal, each program with its completion record (R335, R385).
[DEDUCED, log entry 32] -/
def State.endAttar (s : State) (p : Nat → Nat → Bool) (status code : Nat) : State :=
  (List.range 16).foldl (fun s b =>
    let e := s.base b
    let s := s.setBase b { e with starts := e.starts.filter fun x => !p x.ctx x.die }
    e.actxs.foldl (fun s x => if p x.2.ctx x.2.die then s.endProgram b x.1 status code x.2.status else s) s) s

/-- The completion record of a chain walk's end, and the end of the COPY packets that wait for it (R289, R370, R385). -/
def State.walkRecord (s : State) (die : Nat) (c : Chan) (status code : Nat) : State :=
  match c.ctx with
  | none => s
  | some x =>
    let q := match c.packets with | p :: _ => p.1 | [] => 0xFFFF
    let s := s.complete die x 3 status code q 0 0 c.pos 0
    c.packets.foldl (fun s (p : Nat × Nat × Word × Bool × DWord) =>
      s.packetDone die p.1 p.2.1 x p.2.2.1 p.2.2.2.1 p.2.2.2.2 status code 0) s

/-- The status word of a copy (R282). -/
def copyStatus (moved cause : Nat) : Nat :=
  min ((moved + 63) / 64) 0xFFFFFF * 256 + cause * 16 + (if cause = 0 then 0 else 2) + 1

/-- A channel's record in progress written with cause ABORTED, its OWN bit still set (R289, R304). -/
def State.abortRecord (s : State) (die : Nat) (c : Chan) : State :=
  match c.cur, c.ctx with
  | some j, some x => match s.vwrite die x (c.pos + 12) (leBytes 4 (copyStatus j.moved 7)) with
    | .ok s' => s'.countRange die x (c.pos + 12) 4
    | .error e => s.failedAt die x (c.pos + 12) 4 e
  | _, _ => s

/-- A chain channel stopped as by CHABORT and freed (R302). -/
def State.freeChan (s : State) (die k : Nat) : State :=
  let c := tgetD (s.die die).chans k {}
  let s := s.abortRecord die c
  let s := if c.state = 1 then s.walkRecord die c 3 0 else s
  s.setDie die { s.die die with chans := tdel (s.die die).chans k }

/-- The trace record of a launch node's start or end (R98). [DEDUCED, log entry 36] -/
def State.nodeTrace (s : State) (die ctx node status : Nat) (launch : Word) : State :=
  s.trace (16 + die) 5 0 4 (bits (s.ctxid ctx) 0 16) (leBytes 4 node ++ leBytes 4 status ++ leBytes 4 launch.toNat ++ leBytes 4 0)

/-- The completion record of a graph node, and the trace of its end (R98, R379, R385). -/
def State.nodeRecord (s : State) (die ctx queue node status code : Nat) (launch : Word) : State :=
  let d := s.die die
  let v := if status = 0 then 2 else if status = 2 then 4 else 3
  let s := (s.setDie die { d with nodes := tmod d.nodes node fun n => { n with status := v } }).nodeTrace die ctx node v launch
  s.complete die ctx 2 status code queue 0 launch (BitVec.ofNat 64 node) 0

/-- An open launch completed with a status and a code by the end of its context (R388, R404). [DEDUCED, log entry 32] -/
def State.abandonLaunch (s : State) (id status code : Nat) : State :=
  match tget s.launches id with
  | none => s
  | some l =>
    let s := { s with launches := tdel s.launches id }
    match l.origin with
    | .packet die q index => s.packetDone die q index l.ctx l.tag l.crec l.donesig status code (BitVec.ofNat 32 id)
    | .node die node q _ => s.nodeRecord die l.ctx q node status code (BitVec.ofNat 32 id)

/-- The graphs of a context on a die completed with a status and a code by the end of their context: a node that has not been launched is
skipped, with its completion record (R379, R385). [DEDUCED, log entry 32] -/
def State.abandonGraphs (s : State) (die c status code : Nat) : State :=
  let d := s.die die
  let gone := d.graphs.filter fun g => g.ctx == c
  let s := s.setDie die { d with graphs := d.graphs.filter fun g => g.ctx != c }
  gone.foldl (fun s g =>
    let idle := ((List.range g.count).map (g.first + ·)).filter fun i => (tgetD d.nodes i {}).status == 0
    let s := idle.foldl (fun (s : State) i => s.nodeRecord die c g.queue i 2 0 0) s
    s.packetDone die g.queue g.index c g.tag g.crec g.donesig status code 0) s

/-- Every launch and graph of a context completed (R388). [DEDUCED, log entry 32] -/
def State.abandonWork (s : State) (c status code : Nat) : State :=
  let s := s.launches.foldl (fun s l => if l.2.ctx = c then s.abandonLaunch l.1 status code else s) s
  (List.range 8).foldl (fun s k => s.abandonGraphs k c status code) s

/-- The compute dies that a rectangle of cores covers (R100). -/
def coveredDies (x0 y0 w h : Nat) : List Nat :=
  (List.range 8).filter fun k =>
    let dx := k % 4 * 8
    let dy := k / 4 * 8
    decide (x0 < dx + 8) && decide (dx < x0 + w) && decide (y0 < dy + 8) && decide (dy < y0 + h)

/-- A die's part of a rectangle: x, y, width, height. -/
def diePart (k x0 y0 w h : Nat) : Nat × Nat × Nat × Nat :=
  let x := max x0 (k % 4 * 8)
  let y := max y0 (k / 4 * 8)
  (x, y, min (x0 + w) (k % 4 * 8 + 8) - x, min (y0 + h) (k / 4 * 8 + 8) - y)

/-- The records that a launch asks of the covered dies (R382). [DEDUCED, log entry 31] -/
def launchRecords (id : Nat) (l : Launch) : List (Nat × BindRec) :=
  (coveredDies l.x0 l.y0 l.w l.h).map fun k =>
    let (x, y, w, h) := diePart k l.x0 l.y0 l.w l.h
    (k, ⟨l.kdesc, l.args, BitVec.ofNat 32 id, 0, w * h * l.k.teams, x, y, w, h, l.k.teams, l.prio, 1⟩)

/-- A bind record without the teams that have started, withdrawn (R387). -/
def restOf (r : BindRec) (n : Nat) : BindRec := { r with
  tfirst := r.tfirst + n
  tcount := r.tcount - n
  state := 3 }

/-- The teams that a drain of a die removes from the launches of a context, as withdrawn records by die (R387): the unstarted ones of the die's bind
records, and all of a co-operative launch that still waits and covers the die. [DEDUCED, log entry 33] -/
def State.unstarted (s : State) (die c : Nat) : List (Nat × BindRec) :=
  let d := s.die die
  let mine (r : BindRec) : Bool := match tget s.launches r.launch.toNat with
    | some l => l.ctx == c
    | none => false
  let bound := d.slots.filter fun x => mine x.2 && (x.2.state == 1 || x.2.state == 2)
  let asked := s.launches.filter fun l => l.2.ctx == c && l.2.waiting && (coveredDies l.2.x0 l.2.y0 l.2.w l.2.h).contains die
  (bound.map fun x => (die, restOf x.2 (tgetD d.started x.1 0)))
    ++ asked.flatMap fun l => (launchRecords l.1 l.2).map fun x => (x.1, restOf x.2 0)

/-- Records removed from a context's launches, to be listed in its table at SAVEMAP where it has one (R384, R387). -/
def State.removeTeams (s : State) (c : Nat) (rs : List (Nat × BindRec)) : State :=
  let x := s.ctx c
  if (tget s.ctxs c).isNone || rs = [] then s
  else
    let listed := if x.saveMap = 0 || x.ending.isSome then [] else rs
    (listed.map (·.1)).eraseDups.foldl (fun (s : State) k => s.kick (.teamDispatch k)) (s.setCtx c { x with
      removed := x.removed ++ rs.map (·.2)
      unlisted := x.unlisted ++ listed })

/-- The queues of a context stopped on a die, those in ERROR too (R367), and its bind records withdrawn (R387, steps 1 and 2). -/
def State.stopQueues (s : State) (die c : Nat) : State :=
  let d := s.die die
  let mine (r : BindRec) : Bool := match tget s.launches r.launch.toNat with
    | some l => l.ctx == c
    | none => false
  let gone := s.unstarted die c
  let s := s.setDie die { d with
    queues := d.queues.map fun q => if q.2.ctx = c && (q.2.enable || q.2.state != 0) then
      (q.1, { q.2 with state := 4, waitFrom := none, lendsTo := none }) else q
    slots := d.slots.map fun x => if mine x.2 && (x.2.state == 1 || x.2.state == 2) then (x.1, { x.2 with state := 3 }) else x }
  let s := { s with launches := s.launches.map fun (l : Nat × Launch) =>
    if l.2.ctx = c && l.2.waiting && (coveredDies l.2.x0 l.2.y0 l.2.w l.2.h).contains die then (l.1, { l.2 with waiting := false }) else l }
  s.removeTeams c gone

/-- Whether a team of a context remains, on one die or on any (R387). -/
def State.hasTeams (s : State) (c : Nat) (die : Option Nat) : Bool :=
  s.teams.any fun t => t.2.ctx == c && (die.isNone || die == some (coreDie t.2.core))

/-- A compute die's memories lost, as in a die reset (R90, R391, R399). -/
def State.wipeDie (s : State) (k : Nat) : State :=
  { s with mem := (s.mem.wipe (padBase k) (padBase k + 0x40000000)).wipe (teamBase (64 * k)) (teamBase (64 * k + 64)) }

/-- The clock of a core's island in MHz (R108): 2,250 nominal until its governor or POWER op 2 changes it. [DEDUCED, log entry 38] -/
def State.coreClock (s : State) (core : Nat) : Nat := tgetD s.pkg.clocks core 2250

/-- The CYCLE count of a core (R151): the cycles of its island's clock since its last reset. [DESIGN CHOICE, log entry 6] -/
def State.cycle (s : State) (core : Nat) : DWord :=
  let c := s.core core
  c.counted + BitVec.ofNat 64 ((s.pkg.uptime - c.since) * s.coreClock core / 1000)

/-- The clock of an island changed: a core's count goes on from where it stands (R108). [DESIGN CHOICE, log entry 6] -/
def State.setClock (s : State) (island mhz : Nat) : State :=
  let s := if island < 512 then s.setCore island { s.core island with
      counted := s.cycle island
      since := s.pkg.uptime } else s
  { s with pkg := { s.pkg with clocks := tput s.pkg.clocks island mhz } }

/-- The CYCLE count of some cores starts anew (R151). -/
def State.restartCycles (s : State) (cores : List Nat) : State :=
  cores.foldl (fun s c => s.setCore c { s.core c with
    counted := 0
    since := s.pkg.uptime }) s

/-- Replies without data to some messages. -/
def State.replyAll (s : State) (ms : List Mail) (status : Nat) : State := ms.foldl (fun s m => s.replyWords m status []) s

/-- Whether a drain covers a die (R387). -/
def Drain.covers (d : Drain) (die : Nat) : Bool := d.die.isNone || d.die == some die

/-- Whether a drain of a context covers a die (R387). -/
def State.draining (s : State) (c die : Nat) : Bool := (s.ctx c).drains.any (·.covers die)

/-- Whether a context starts nothing on a die: a drain covers it, or the context is ending (R367, R384, R387). -/
def State.stopped (s : State) (c die : Nat) : Bool := s.draining c die || (s.ctx c).ending.isSome

/-- The lowest PASS among the READY queues of a die. -/
def State.lowestPass (s : State) (die : Nat) : Option Nat :=
  (s.die die).queues.foldl (fun (m : Option Nat) q =>
    if q.2.state = 1 then some (match m with | none => q.2.pass | some p => min p q.2.pass) else m) none

/-- A queue becomes READY (R376): it banks no credit while it waited. -/
def State.readyQueue (s : State) (die q : Nat) : State :=
  let x := s.queue die q
  (s.setQueue die q { x with
    state := 1
    pass := max x.pass ((s.lowestPass die).getD x.pass)
    lendsTo := none }).kick (.packetProcessorStep die)

/-- The enabled queues of a context that a drain of a die has stopped are IDLE or READY again (R367, R388). -/
def State.restartQueues (s : State) (c die : Nat) : State :=
  let d := s.die die
  if d.leaving || d.down then s
  else d.queues.foldl (fun (s : State) q =>
    if q.2.ctx = c && q.2.enable && q.2.state = 4 then
      let s := s.setQueue die q.1 { q.2 with state := 0 }
      if q.2.read = q.2.write then s else s.readyQueue die q.1
    else s) s

/-- A die that POWER op 3 takes down goes down once no drain of it goes on: its memories are lost (R399). -/
def State.checkDown (s : State) (k : Nat) : State :=
  let d := s.die k
  if !d.leaving || s.ctxs.any (fun x => x.2.drains.any (·.covers k)) then s
  else
    let s := s.wipeDie k
    (s.setDie k { d with down := true, leaving := false, mails := [], tlb := [] }).replyAll d.mails 0

/-- The end of the drains of a context of which no team remains: their requests are answered (R387, R406), as failed where one ended on a die as a drain
failure (R392), and the queues that they have stopped go on, unless the context ends (R367). [DEDUCED, log entry 33] -/
def State.checkDrain (s : State) (c : Nat) : State :=
  let x := s.ctx c
  let ended := x.drains.filter fun d => !s.hasTeams c d.die
  if ended = [] then s
  else
    let s := s.setCtx c { x with drains := x.drains.filter fun d => s.hasTeams c d.die }
    let s := ended.foldl (fun (s : State) d => s.replyAll d.mails (if d.failed then 4 else 0)) s
    let s := (List.range 8).foldl (fun (s : State) k => s.checkDown k) s
    if x.ending.isSome then s
    else (List.range 8).foldl (fun (s : State) k =>
      if ended.any (·.covers k) && !s.draining c k && (s.ctxRec k c).valid then s.restartQueues c k else s) s

/-- A team's end: its memory is free, its subscriptions are unbound, and its launch has one team less, unless it was saved
(R114, R178, R251). -/
def State.endTeam (s : State) (tk : Nat) : State :=
  match s.team tk with
  | none => s
  | some t =>
    let s := { s with teams := tdel s.teams tk }
    let id := t.launch.toNat
    let s := if t.saved then s
      else match tget s.launches id with
        | none => s
        | some l =>
          let s := { s with launches := tput s.launches id { l with left := l.left - 1, ended := (t.core * 8 + t.tslot) :: l.ended } }
          if l.left ≤ 1 then s.push [.launchComplete (id / 2 ^ 29) id] else s
    let die := coreDie t.core
    let s := if (s.die die).slots.any fun r => r.2.state == 1 || r.2.state == 2 then s.push [.teamDispatch die] else s
    s.checkDrain t.ctx

/-- Whether a word acts on streams (R258): STRDEF, STRSUB, STRADV, STRUNSUB. -/
def MJob.isStream (m : MJob) : Bool := [11, 12, 13, 14].contains m.op

/-- The matrix job of an operation in flight. -/
def Flight.matrix (f : Flight) : Option MJob := match f.job with | .matrix m => some m | _ => none

/-- Whether a word is work of the engine that a reset of it fails (R256, R274). -/
def MJob.resettable (m : MJob) : Bool := !m.isStream && m.op != 18

/-- A core's oldest work of the engine: a word, or the tile step of a program (R256). -/
def State.oldestWork (s : State) (core : Nat) : Option (Nat ⊕ Nest) :=
  let words := s.flight.filterMap fun (x : Nat × Flight) => match x.2.matrix with
    | some m => if x.2.gang / 64 = core && m.resettable then some x.1 else none
    | none => none
  let step := (s.core core).nest.filter fun n => n.state == 1
  match words.min?, step with
  | some k, some n => some (if k < n.stepOp then .inl k else .inr n)
  | some k, none => some (.inl k)
  | none, some n => some (.inr n)
  | none, none => none

/-- The number by which the oldest work of an engine is known. -/
def workKey (w : Option (Nat ⊕ Nest)) : Nat :=
  match w with
  | some (.inl k) => 2 * k + 1
  | some (.inr n) => 2 * n.stepOp
  | none => 0

/-- A piece of work that has become its engine's oldest begins to count towards the hang limit (R256): `old` is the key of the oldest before. -/
def State.touchOldest (s : State) (core old : Nat) : State :=
  if workKey (s.oldestWork core) = old then s
  else match s.oldestWork core with
    | some (.inl k) => match (tget s.flight k).bind fun f => f.matrix.map fun m => (f, m) with
      | some (f, m) => { s with flight := tput s.flight k { f with job := .matrix { m with since := s.cycle core } } }
      | none => s
    | some (.inr n) => s.setCore core { s.core core with nest := some { n with since := s.cycle core } }
    | none => s

/-- A gang taken off its core; the last gang of a team takes the team with it (R114, R178), and the next work of its engine becomes the oldest (R256). Failures of it that no wait has delivered are lost with it, as no
image of a save holds them (R80, R192). [DESIGN CHOICE, log entry 14] -/
def State.dropGang (s : State) (key : Nat) (saved : Bool) : State :=
  match s.gang key with
  | none => s
  | some g =>
    let tk := g.teamKey
    let core := s.core g.core
    let old := workKey (s.oldestWork g.core)
    let s := { s.loseAsks fun c => match c with | .gang k _ => k == key | _ => false with
      gangs := tdel s.gangs key
      flight := s.flight.filter fun f => f.2.gang != key }
    let s := match core.nest with
      | some n => if n.gang = g.id then s.setCore g.core { core with nest := none } else s
      | none => s
    let s := s.touchOldest g.core old
    let s := match s.team tk with
      | some t =>
        let s := s.setTeam tk { t with saved := t.saved || saved }
        if saved then
          let x := s.ctx g.ctx
          s.setCtx g.ctx { x with savedGangs := x.savedGangs ++ [(t.launch, t.dx + 256 * t.dy + 65536 * t.tslot, g.id, g.width)] }
        else s
      | none => s
    if s.gangs.any fun x => x.2.teamKey == tk then s else s.endTeam tk

/-- The gangs of a context taken off their cores, as failed work (R384, R404). -/
def State.dropGangs (s : State) (p : Gang → Bool) : State :=
  s.gangs.foldl (fun s x => if p x.2 then s.dropGang x.1 false else s) s

/-- The trace record of a pre-emption step (R98): 0 drain start, 1 escalation, 2 PVEC entry, 3 context ended. [DEDUCED, log entry 36] -/
def State.preemptTrace (s : State) (c die engine unit step : Nat) (launch : Word) : State :=
  s.trace (16 + die) engine unit 3 (bits (s.ctxid c) 0 16) (leBytes 4 step ++ leBytes 4 launch.toNat ++ leBytes 8 0)

/-- Whether completion records of a context are still to be written on some die (R385). -/
def State.owesRecords (s : State) (c : Nat) : Bool := (List.range 8).any fun k => (s.ctxRec k c).waiting != []

/-- An ending context of which no completion record is left to be written is gone: VALID reads 0 in every record of the index, and each die that held a
valid one traces the end (R98, R384, R385). [DEDUCED, log entry 32] -/
def State.leaveContext (s : State) (c : Nat) : State :=
  if (s.ctx c).ending.isNone || s.owesRecords c then s
  else
    let s := ((List.range 8).filter fun k => (s.ctxRec k c).valid).foldl (fun (s : State) k => s.preemptTrace c k 5 0 3 0) s
    let s := (List.range 8).foldl (fun s k =>
      let d := s.die k
      s.setDie k { d with
        tlb := d.tlb.filter fun x => x.1 / 2 ^ 60 != c
        recs := tmod d.recs c fun r =>
          { r with valid := false, bytes := patchBytes r.image 16 [((BitVec.ofNat 8 (fieldBytes r.image 16 1)) &&& 0xFE)] } }) s
    { s with ctxs := tdel s.ctxs c }

/-- The end of a context in the whole package (R384, R388, R404): its queues stop, its teams leave the cores, its open launches
complete with the status and code, held accesses are gone with their gangs, tokens go home, channels are stopped and freed,
bindings and streams vanish, Attar programs end without a signal; VALID reads 1 until the last completion record is written. [DEDUCED, log entry 32] -/
def State.endContext (s : State) (c status code : Nat) : State :=
  if (s.ctx c).ending.isSome then s
  else
    let s := s.setCtx c { s.ctx c with ending := some code, bindings := [] }
    let s := (List.range 8).foldl (fun s k => s.stopQueues k c) s
    let s := s.abandonWork c status code
    let s := s.dropGangs fun g => g.ctx == c
    let s := s.pkg.tokens.foldl (fun s t => s.releaseToken t.1 c) s
    let s := (List.range 8).foldl (fun s k =>
      (s.die k).chans.foldl (fun s x => if x.2.ctx = some c then s.freeChan k x.1 else s) s) s
    let s := s.endAttar (fun x _ => x == c) status code
    let s := s.checkDrain c
    let s := (List.range 8).foldl (fun s k =>
      let d := s.die k
      s.setDie k { d with streams := d.streams.filter fun x => x.2.ctx != c }) s
    s.leaveContext c

/-- The context ended and reported as a drain failure (R87, R216, R384): the requests of the drain are answered as failed, every die of the
context raises an interrupt, and its open launches complete as failed with PREEMPT. [DEDUCED, log entry 33] -/
def State.drainFailure (s : State) (c : Nat) : State :=
  let x := s.ctx c
  let mails := x.drains.flatMap (·.mails)
  let dies := (List.range 8).filter fun k => (s.ctxRec k c).valid
  let s := dies.foldl (fun (s : State) k => s.irq (1 + k) 1 c) s
  let s := s.setCtx c { x with drains := x.drains.map fun d => { d with mails := [] } }
  (s.replyAll mails 4).endContext c 1 cPREEMPT

end Sys2Proof.Machine
end

