-- ==== Sys2Proof/Machine/Ops.lean ====
section
/-!
DEFINITION. The shared operations of a gang: its registers, views and shadow bank (R109, R122, R126), the position of its splits
(R112, R113, R403), the advance past a word, taking a trap (R82, R402, R404) and returning from one (R84, R178).
-/
namespace Sys2Proof.Machine

/-- The lanes of a list changed by a function of their number. -/
def mapLanesFrom (f : Nat → Lane → Lane) : Nat → List Lane → List Lane
  | _, [] => []
  | k, l :: t => f k l :: mapLanesFrom f (k + 1) t

/-- The gang with the lanes of a list changed. -/
def Gang.mapLanes (g : Gang) (ls : List Nat) (f : Nat → Lane → Lane) : Gang :=
  { g with lanes := mapLanesFrom (fun k l => if ls.contains k then f k l else l) 0 g.lanes }

def Gang.key (g : Gang) : Nat := gangKey g.core g.id
def Gang.split (g : Gang) (i : Nat) : Option Split := g.splits.getD i none
def Gang.setSplit (g : Gang) (i : Nat) (sp : Option Split) : Gang := { g with splits := g.splits.set i sp }
/-- NSPLIT.N (R103). -/
def Gang.splitCount (g : Gang) : Nat := (g.splits.filter (·.isSome)).length
def Gang.inHandler (g : Gang) : Bool := g.handler.isSome
/-- Privileged state (R81). -/
def Gang.privileged (g : Gang) : Bool :=
  g.service || (match g.handler with | some h => h.reason.isSome | none => false)
/-- A forced save has stopped the gang's program: it issues no word and no wait of it is released (R87). -/
def Gang.frozen (g : Gang) : Bool := g.saving.isSome && !g.inHandler
/-- The outstanding count of an arrival counter (R24). -/
def Gang.outstanding (g : Gang) (c : Nat) : Nat := tgetD g.ctrs c 0
def Gang.setCtr (g : Gang) (c n : Nat) : Gang := { g with ctrs := if n = 0 then tdel g.ctrs c else tput g.ctrs c n }
/-- The loads of a counter that have failed with MEMUE and that REPLV may still complete: each keeps the counter up by 1, but no wait waits for it
(R80, R195, R202). [DEDUCED, log entry 14] -/
def Gang.failedLoads (g : Gang) (c : Nat) : Nat :=
  ((g.failures.filter fun f => f.ctr == c && f.repl.isSome && f.counted).map (·.op)).eraseDups.length
/-- The operations of a counter that a wait waits for: neither completed nor failed (R80, R219). [DEDUCED, log entry 14] -/
def Gang.pending (g : Gang) (c : Nat) : Nat := g.outstanding c - g.failedLoads c
/-- Every operation has completed or failed (R117, R192, R202). [DEDUCED, log entry 14] -/
def Gang.drained (g : Gang) : Bool := g.ctrs.all fun c => g.pending c.1 == 0
/-- A split of the gang has still to pass over its word after RTT (R84). -/
def Gang.skipping (g : Gang) : Bool := g.splits.any fun o => o.bind (·.resume) == some true
/-- The gang with its counters free of the loads that have failed, which a wait still delivers and REPLV may still complete (R120, R176).
[DEDUCED, log entry 14] -/
def Gang.settled (g : Gang) : Gang :=
  { g with
    ctrs := (g.ctrs.map fun c => (c.1, g.pending c.1)).filter fun c => c.2 != 0
    failures := g.failures.map fun f => { f with counted := false } }
/-- The views in force (R126). -/
def Gang.vbNow (g : Gang) : Word := match g.handler with | some h => h.vb | none => g.vb
def Gang.tbNow (g : Gang) : Word := match g.handler with | some h => h.tb | none => g.tb
def Gang.abNow (g : Gang) : Word := match g.handler with | some h => h.ab | none => g.ab

/-- The bytes that a name under a view stands for: whether they lie in the Umbra, and the first of them; `none` where they pass
REGBYTES or the Umbra (R109, R126). [DEDUCED, log entry 11] -/
def Gang.place (g : Gang) (view : Word) (off len : Nat) : Option (Bool × Nat) :=
  if g.inHandler && bit view 15 then
    if bits view 0 10 + off + len ≤ 256 then some (true, bits view 0 10 + off) else none
  else if view.toNat + off + len ≤ g.regBytes then some (false, view.toNat + off) else none

/-- The index within the open group of a word of the register space (R122). -/
def Gang.groupWord (g : Gang) (k : Nat) : Option Nat :=
  match g.proposal with
  | none => none
  | some p => let b := p.gvb / 4 + p.vbase; if b ≤ k ∧ k < b + p.n then some (k - b) else none

/-- The group word that an access meets in its uncommitted form: a handler's accesses meet the committed copy, an asynchronous
reply never does (R124). -/
def Gang.shadowWord (g : Gang) (async : Bool) (k : Nat) : Option Nat := if async || !g.inHandler then g.groupWord k else none

/-- A word of a lane's register space as a read returns it (R122). -/
def Gang.readWord (g : Gang) (l : Lane) (umbra async : Bool) (k : Nat) : Word :=
  if umbra then tgetD l.umbra k 0
  else match g.shadowWord async k with
    | some j => if l.written.getLsbD j then tgetD l.shadow j 0 else tgetD l.regs k 0
    | none => tgetD l.regs k 0

/-- Whether a read of a word meets its poison bit (R257): words of the Umbra carry none. [DESIGN CHOICE, log entry 17] -/
def Gang.wordPoison (g : Gang) (l : Lane) (umbra async : Bool) (k : Nat) : Bool :=
  !umbra && match g.shadowWord async k with
    | some j => if l.written.getLsbD j then l.shPoison.getLsbD j else l.poison.contains k
    | none => l.poison.contains k

/-- A lane with the masked bits of a register word written (R122, R257). -/
def Gang.writeWord (g : Gang) (l : Lane) (umbra async : Bool) (k : Nat) (mask v : Word) : Lane :=
  let new := (g.readWord l umbra async k &&& ~~~mask) ||| (v &&& mask)
  let whole := mask == 0xFFFFFFFF#32
  if umbra then { l with umbra := tput l.umbra k new }
  else match g.shadowWord async k with
    | some j =>
      { l with
        shadow := tput l.shadow j new
        written := setBit l.written j true
        shPoison := setBit l.shPoison j (!whole && (if l.written.getLsbD j then l.shPoison.getLsbD j else l.poison.contains k)) }
    | none => { l with regs := tput l.regs k new, poison := if whole then l.poison.filter (· != k) else l.poison }

/-- A word poisoned (R256, R257). -/
def Gang.poisonWord (g : Gang) (l : Lane) (k : Nat) : Lane :=
  match g.groupWord k with
  | some j =>
    { l with
      shadow := tput l.shadow j (g.readWord l false true k)
      written := setBit l.written j true
      shPoison := setBit l.shPoison j true }
  | none => { l with poison := if l.poison.contains k then l.poison else k :: l.poison }

/-- n bytes of a lane's register space from a byte on. -/
def Gang.readBytes (g : Gang) (l : Lane) (umbra async : Bool) (off n : Nat) : List Byte :=
  (List.range n).map fun i => field (g.readWord l umbra async ((off + i) / 4)) (8 * ((off + i) % 4)) 8

/-- A lane with bytes of its register space written: each touched word at once. -/
def Gang.writeBytes (g : Gang) (l : Lane) (umbra async : Bool) (off : Nat) (bs : List Byte) : Lane :=
  let n := bs.length
  if n = 0 then l
  else (List.range ((off + n - 1) / 4 - off / 4 + 1)).foldl (fun l w =>
    let k := off / 4 + w
    let mv := (List.range 4).foldl (fun (mv : Word × Word) j =>
      let a := 4 * k + j
      if off ≤ a ∧ a < off + n then
        (setBits mv.1 (8 * j) 8 255, setBits mv.2 (8 * j) 8 (bs.getD (a - off) 0).toNat) else mv) (0, 0)
    g.writeWord l umbra async k mv.1 mv.2) l

/-- A trap that a word raises (R78): the argument, `none` for the offending word (R402), the lanes, `none` for the taking-part
lanes, whether RTT resumes after the word (R177), and the address and length of the access that has failed, if one has (R16, R91). -/
structure Trap where
  code : Nat
  cause : Nat := 0
  arg : Option DWord := none
  lanes : Option (BitVec 64) := none
  skip : Bool := false
  place : Option (DWord × Nat) := none
  deriving DecidableEq, Repr

def illOp : Trap := { code := cILLOP }
def illOpnd : Trap := { code := cILLOPND }
def illClause : Trap := { code := cILLCLAUSE }
def priv : Trap := { code := cPRIV }
def shadowErr : Trap := { code := cSHADOWERR }

/-- The trap of a failed access to n bytes at a virtual address, with its code and cause (R78). -/
def accessTrap (e : Nat × Nat) (va : DWord) (n : Nat) : Trap := { code := e.1, cause := e.2, arg := some va, place := some (va, n) }

/-- The address of a divergence overflow row, row 0 being the top one, in the region of the gang's first slice (R111). [DEDUCED, log entry 52] -/
def State.ovfRow (s : State) (g : Gang) (row : Nat) : DWord :=
  BitVec.ofNat 64 ((s.ctx g.ctx).spillBase.toNat + (256 * g.core + 32 * g.level + g.slice) * 2 ^ 22 + 4 * g.spBytes - 16 * (row + 1))

/-- A record pushed on the overflow area (R111, R112): DIVOVF at 32 records or inside a handler, or the translation fault. -/
def State.pushOvf (s : State) (key : Nat) (pc : DWord) (mask : BitVec 64) : Except Trap State :=
  match s.gang key with
  | none => .ok s
  | some g =>
    if g.inHandler || 32 ≤ g.ovf then .error { code := cDIVOVF, arg := some (s.ovfRow g g.ovf) }
    else match s.vwrite g.die g.ctx (s.ovfRow g g.ovf) (leBytes 8 pc.toNat ++ leBytes 8 mask.toNat) with
      | .error e => .error (accessTrap e (s.ovfRow g g.ovf) 16)
      | .ok s' => .ok (s'.setGang key { g with ovf := g.ovf + 1 })

/-- The record of a row (R111). -/
def State.readOvf (s : State) (g : Gang) (row : Nat) : Except (Nat × Nat) (DWord × BitVec 64) :=
  match s.vread g.die g.ctx (s.ovfRow g row) 16 with
  | .error e => .error e
  | .ok bs => .ok (BitVec.ofNat 64 (fieldBytes bs 0 8), BitVec.ofNat 64 (fieldBytes bs 8 8))

/-- A split that stands at a clause header. -/
def headerAt (pc : DWord) (mask : BitVec 64) : Split := { pc := pc, mask := mask }

/-- The context-end record of R404 written, with its interrupt, and the context ended. -/
def State.trapEnd (s : State) (g : Gang) (cause code1 code2 : Nat) (tpc targ : DWord) : State :=
  let k := g.die
  let bytes := leBytes 2 code2 ++ leBytes 2 code1 ++ leBytes 1 cause ++ leBytes 1 g.id ++ leBytes 1 (coreNum g.core)
    ++ leBytes 1 (16 + k) ++ leBytes 4 g.launch.toNat ++ leBytes 4 (s.die k).faultSeq.toNat ++ leBytes 8 targ.toNat
    ++ leBytes 8 tpc.toNat
  let s := (s.faultRecord k g.ctx bytes).nextSeq k
  s.endContext g.ctx 1 code1

/-- The trap registers of an entry (R82, R83). -/
def Gang.trapRegs (g : Gang) (idx : Nat) (sp : Split) (code cause : Nat) (arg : DWord) (mask : BitVec 64) (skip : Bool) : Gang :=
  { g with
    trapCode := BitVec.ofNat 32 (code + 256 * cause)
    trapPc := sp.pc
    trapMask := mask
    trapArg := arg
    trapSplit := BitVec.ofNat 32 (idx + (if skip then 16 else 0) + 256 * sp.midx + (if sp.mvalid then 8192 else 0)) }

/-- The gang inside a handler at a vector (R82, R125 to R127): every position, taking-part bit, latch and predicate is kept, one
split holds every live lane, the views address the Umbra, and the handler's predicates and the Umbra are zero. -/
def Gang.enter (g : Gang) (vec : DWord) (reason : Option Nat) (failure : Option Failure) : Gang :=
  let kept := g.lanes.map fun l => (⟨l.preds, l.latch, l.takes⟩ : SavedLane)
  { g with
    handler := some { reason := reason, splits := g.splits, lanes := kept, failure := failure }
    splits := [some (headerAt vec g.live), none, none, none]
    lanes := g.lanes.map fun l => { l with preds := 0, latch := none, takes := false, umbra := [] } }

/-- Whether another gang's handler holds the Umbra of one of the gang's slices (R125). [DEDUCED, log entry 21] -/
def State.umbraTaken (s : State) (g : Gang) : Bool :=
  s.gangs.any fun x =>
    let o := x.2
    o.key != g.key && o.core == g.core && o.inHandler && decide (o.slice < g.slice + g.width / 4) && decide (g.slice < o.slice + o.width / 4)

/-- The trace record of a delivered trap (R98). -/
def State.trapTrace (s : State) (g : Gang) : State :=
  s.trace (16 + g.die) 0 (coreNum g.core) 2 (bits (s.ctxid g.ctx) 0 16)
    (leBytes 4 g.trapCode.toNat ++ leBytes 4 g.trapSplit.toNat ++ leBytes 8 g.trapPc.toNat)

/-- The context-end code of a double fault (R404): a barrier wait inside a handler counts as ILLOPND; the first trap's code, TPC and TARG are the trap
registers as they then stand, which the handler may have written. [DEDUCED, log entry 32] -/
def State.doubleFault (s : State) (g : Gang) (code2 : Nat) : State :=
  s.trapEnd g 17 (bits g.trapCode 0 16) code2 g.trapPc g.trapArg

/-- Taking a trap (R82, R85, R125, R404): inside a handler it is a double fault; with TVEC zero the context ends; otherwise the
gang enters at TVEC, at once or when the Umbra of its slices is free. [DEDUCED, log entry 21] -/
def State.takeTrap (s : State) (key idx code cause : Nat) (arg : DWord) (mask : BitVec 64) (skip : Bool)
    (failure : Option Failure) : State :=
  match s.gang key with
  | none => s
  | some g =>
    match g.split idx with
    | none => s
    | some sp =>
      if g.inHandler then s.doubleFault g (code + 256 * cause)
      else if g.tvec = 0 then s.trapEnd g 16 (code + 256 * cause) 0 sp.pc arg
      else
        let g := g.setSplit idx (some { sp with hold := .run })
        if s.umbraTaken g then
          s.setGang key { g with pendingTrap := some (idx, (failure.getD { ctr := 16, code := code, cause := cause, arg := arg, mask := mask }), skip) }
        else
          let g := (g.trapRegs idx sp code cause arg mask skip).enter g.tvec none failure
          (s.setGang key g).trapTrace g

/-- The trap entry that waited for the Umbra, taken now that it is free (R125). -/
def State.retryTrap (s : State) (key : Nat) : State :=
  match s.gang key with
  | none => s
  | some g =>
    match g.pendingTrap with
    | none => s
    | some (idx, f, skip) =>
      if s.umbraTaken g then s
      else (s.setGang key { g with pendingTrap := none }).takeTrap key idx f.code f.cause f.arg f.mask skip
        (if f.ctr < 16 then some f else none)

/-- Every waiting trap entry of a core whose Umbra is now free (R125), in ascending gang identifier. [DEDUCED, log entry 21] -/
def State.retryTraps (s : State) (core : Nat) : State :=
  s.gangs.foldl (fun s x => if x.2.core = core then s.retryTrap x.1 else s) s

/-- The lowest other split at the same clause header (R113). -/
def Gang.twin (g : Gang) (i : Nat) (pc : DWord) : Option Nat :=
  (List.range 4).find? fun j => j != i && match g.split j with
    | some o => !o.incl && o.pc == pc
    | none => false

/-- The regang rule for a split that has arrived at a clause header (R113): splits at one header merge into the lower index, whose age stands (R107), and
overflow records are popped into the freed entry, to which the rule applies in turn. A record that cannot be read traps the lowest valid entry, and is
not popped; where no entry is left nothing is popped. [DESIGN CHOICE, log entry 52] -/
def State.regang : Nat → State → Nat → Nat → State
  | 0, s, _, _ => s
  | n + 1, s, key, i =>
    match s.gang key with
    | none => s
    | some g =>
      match g.split i with
      | none =>
        if g.ovf = 0 || g.inHandler then s
        else match s.readOvf g (g.ovf - 1) with
          | .error e =>
            let s := s.failedAt g.die g.ctx (s.ovfRow g (g.ovf - 1)) 16 e
            match if e.1 = cWAIT then none else (List.range 4).find? fun j => (g.split j).isSome with
            | none => s
            | some j => s.takeTrap key j e.1 e.2 (s.ovfRow g (g.ovf - 1)) (((g.split j).getD (headerAt 0 0)).mask) false none
          | .ok (pc, mask) =>
            State.regang n (s.setGang key { g.setSplit i (some (headerAt pc mask)) with ovf := g.ovf - 1 }) key i
      | some sp =>
        match g.twin i sp.pc with
        | none => s
        | some j =>
          let mask := sp.mask ||| ((g.split j).getD (headerAt 0 0)).mask
          let low := (g.split (min i j)).getD sp
          let g := (g.setSplit (min i j) (some { headerAt sp.pc mask with
            age := low.age
            promoted := low.promoted })).setSplit (max i j) none
          State.regang n (s.setGang key g) key (max i j)

/-- A split's arrival at a clause header (R113). -/
def State.arrive (s : State) (key i : Nat) : State := State.regang 80 s key i

/-- The COUNT of the clause a split stands in. -/
def Split.count (sp : Split) : Nat := bits sp.hdr 28 4

/-- The address of the header of the clause a split stands in (R403). -/
def Split.header (sp : Split) : DWord := sp.pc - BitVec.ofNat 64 (4 * (sp.widx + 1))

/-- The address of the header that follows the clause (R26). -/
def Split.after (sp : Split) : DWord := sp.header + BitVec.ofNat 64 (4 * (sp.count + 1))

/-- The position past n words of the clause (R23, R403). -/
def Split.pass (sp : Split) (n : Nat) : Split :=
  let pc := sp.pc + BitVec.ofNat 64 (4 * n)
  if sp.widx + n < sp.count then
    { sp with pc := pc, widx := sp.widx + n, mvalid := false, midx := 0, mparams := 0, mprog := [], hold := .run }
  else headerAt pc sp.mask

/-- The position past n words of the clause or microprogram (R46); past a microprogram's last word it is past the MCALL word. [DEDUCED, log entry 12] -/
def Split.next (sp : Split) (n : Nat) : Split :=
  if sp.mvalid then
    if sp.midx + n < sp.mprog.length then { sp with midx := sp.midx + n, hold := .run } else sp.pass 2
  else sp.pass n

/-- A split's position past n words. [DEDUCED, log entry 11] -/
def State.advance (s : State) (key i n : Nat) : State :=
  match s.gang key with
  | none => s
  | some g =>
    match g.split i with
    | none => s
    | some sp =>
      let sp' := sp.next n
      let s := s.setGang key (g.setSplit i (some sp'))
      if sp'.incl then s else s.arrive key i

/-- What an issuing word meets: its gang, its split and the taking-part lanes, ascending (R22). -/
structure Issue where
  key : Nat
  idx : Nat
  g : Gang
  sp : Split
  act : List Nat
  deriving DecidableEq, Repr

/-- The taking-part lanes of a split (R22): an exited lane is never one, whatever masks SPLWR or XRSTR have left (R168, R178). -/
def Gang.active (g : Gang) (sp : Split) : List Nat :=
  (List.range g.width).filter fun i => sp.mask.getLsbD i && (g.lane i).live && (g.lane i).takes

/-- The split that the machine is issuing for. -/
def State.issuer (s : State) : Option Issue :=
  match s.cursor with
  | .gang k i =>
    match s.gang k with
    | none => none
    | some g => match g.split i with
      | none => none
      | some sp => some ⟨k, i, g, sp, g.active sp⟩
  | _ => none

def Issue.mask (c : Issue) : BitVec 64 := maskOf c.act
/-- The lowest-numbered taking-part lane. -/
def Issue.low (c : Issue) : Nat := c.act.headD 0

/-- What an issued word comes to. -/
inductive Fate where
  /-- its effect is done; the split goes on past it -/
  | done (s : State)
  /-- it waits, and is executed again when its split next issues -/
  | wait (s : State)
  /-- its effect is done and it has set the positions itself -/
  | went (s : State)
  | trap (t : Trap)

/-- The 64-bit TRAPARG of the offending word and its extension (R402). -/
def wordArg (ws : List Word) : DWord := BitVec.ofNat 64 ((ws.getD 0 0).toNat + 2 ^ 32 * (ws.getD 1 0).toNat)

/-- A trap of the issuing word taken (R82), with what a failed access leaves (R16, R91). [DEDUCED, log entry 9] -/
def State.raise (s : State) (c : Issue) (arg : DWord) (t : Trap) : State :=
  let s := match t.place with
    | some (va, n) => s.failedAt c.g.die c.g.ctx va n (t.code, t.cause)
    | none => s
  if t.code = cWAIT then s else s.takeTrap c.key c.idx t.code t.cause (t.arg.getD arg) (t.lanes.getD c.mask) t.skip none

/-- A word of opcode 0xC0 to 0xC8 (R40). -/
def isPrivileged : Instr → Bool
  | .xsave _ | .xrstr _ | .splrd _ _ | .splwr _ _ | .replv _ | .tlbinv _ _ | .shsave _ | .shrstr _ | .mstore _ _ => true
  | _ => false

/-- The trap that a word's place or its privilege gives it: ILLCLAUSE for a control transfer that is not last (R26), ILLOP for one,
or an MCALL, inside a microprogram (R47), PRIV for a privileged word outside privileged state (R40). [DEDUCED, log entry 46] -/
def Issue.placeTrap (c : Issue) (i : Instr) (n : Nat) : Option Trap :=
  if isPrivileged i && !c.g.privileged then some priv
  else if isTransfer i then
    if c.sp.mvalid then some illOp else if c.sp.widx + n = c.sp.count then none else some illClause
  else match i with
    | .mcall _ _ _ => if c.sp.mvalid then some illOp else none
    | _ => none

/-- The issue of a gang, matrix or copy word (R22, R50): with no taking-part lane it has no effect; a trap leaves every register as
it was; otherwise its body acts, and the split goes on as the body says. -/
def gangWord (i : Instr) (s : State) (body : Issue → Fate) : Outcome :=
  match s.issuer with
  | none => .fault .noIssuer
  | some c =>
    let ws := (encode i).2
    if c.act = [] then .next (s.advance c.key c.idx ws.length)
    else match c.placeTrap i ws.length with
      | some t => .next (s.raise c (wordArg ws) t)
      | none => match body c with
        | .done s' => .next (s'.advance c.key c.idx ws.length)
        | .wait s' => .next s'
        | .went s' => .next s'
        | .trap t => .next (s.raise c (wordArg ws) t)

/-- The machine with the issuing split held for a reason, at its word. [DEDUCED, log entry 11] -/
def State.hold (s : State) (c : Issue) (h : Hold) : State :=
  match s.gang c.key with
  | none => s
  | some g => match g.split c.idx with
    | none => s
    | some sp => s.setGang c.key (g.setSplit c.idx (some { sp with hold := h }))

/-- The latch of the taking-part lanes emptied (R35). [DEDUCED, log entry 11] -/
def Gang.dropLatch (g : Gang) (act : List Nat) : Gang := g.mapLanes act fun _ l => { l with latch := none }

/-- What a resumed split is still held by: its barrier arrivals, its doze and its TOKREL stand; every other held word is executed again
(R84, R87, R95). [DEDUCED, log entry 12] -/
def Hold.kept : Hold → Hold
  | .bar k p => .bar k p
  | .clbar p => .clbar p
  | .doze t => .doze t
  | .woken => .woken
  | .fault q u va => .fault q u va
  | .cancelled code va => .cancelled code va
  | .tokrel r v => .tokrel r v
  | _ => .run

/-- How many words the instruction at a position takes (R25), of those that its clause has left. -/
def State.wordsAt (s : State) (g : Gang) (sp : Split) : Except (Nat × Nat) Nat :=
  if sp.mvalid then .ok (wordLen 0 (sp.mprog.getD sp.midx 0))
  else match s.fetch g.die g.ctx sp.pc with
    | .ok w => .ok (min (wordLen (bits sp.hdr 25 3) w) (sp.count - sp.widx))
    | .error e => .error e

/-- The position from which a split inside a clause goes on after RTT (R47, R84): its clause's header, and the control-store entry that its MCALL word
names, are read again, and its word is passed where SKIP is set; a word that cannot be fetched traps (R29). [DEDUCED, log entries 12 and 13] A header that
no longer decodes is not checked again: its COUNT and CLASS are taken as they stand. [DESIGN CHOICE, log entry 12] -/
def State.refresh (s : State) (g : Gang) (sp : Split) (skip : Bool) : Except Trap Split :=
  match s.fetch g.die g.ctx sp.header with
  | .error e => .error (accessTrap e sp.header 4)
  | .ok hdr =>
    let sp := { sp with
      hdr := hdr
      resume := none }
    if !sp.mvalid then
      if !skip then .ok sp
      else match s.wordsAt g sp with
        | .error e => .error (accessTrap e sp.pc 4)
        | .ok n => .ok (sp.next n)
    else match s.fetch g.die g.ctx sp.pc with
      | .error e => .error (accessTrap e sp.pc 4)
      | .ok w =>
        let sp := { sp with mprog := tgetD (s.core g.core).control (D w).toNat [] }
        if sp.mprog.length ≤ sp.midx then .ok (sp.pass 2)
        else .ok (if skip then sp.next (wordLen 0 (sp.mprog.getD sp.midx 0)) else sp)

/-- The split at the cursor resumed after RTT (R84): it goes on from its position when it next issues. [DEDUCED, log entry 12] -/
def State.resumeSplit (s : State) (c : Issue) (skip : Bool) : State :=
  match s.refresh c.g c.sp skip with
  | .error t => s.raise c 0 t
  | .ok sp =>
    let s := s.setGang c.key (c.g.setSplit c.idx (some sp))
    if sp.incl then s else s.arrive c.key c.idx

/-- The interrupted split table is what RTT asks of it: masks disjoint, non-empty and together covering every live lane, the records of the
overflow area included (R178). -/
def tableOk (live : BitVec 64) : List (BitVec 64) → BitVec 64 → Bool
  | [], seen => live &&& ~~~seen == 0
  | m :: t, seen => m != 0 && m &&& seen == 0 && tableOk live t (seen ||| m)

/-- The masks of the overflow records that can be read. -/
def State.ovfMasks (s : State) (g : Gang) : List (BitVec 64) :=
  (List.range g.ovf).filterMap fun r => match s.readOvf g r with
    | .ok x => some x.2
    | .error _ => none

/-- The requests for overflow records that have to be asked for. -/
def State.askOvf (s : State) (g : Gang) : State :=
  (List.range g.ovf).foldl (fun s r => match s.readOvf g r with
    | .ok _ => s
    | .error e => if e.1 = cWAIT then s.failedAt g.die g.ctx (s.ovfRow g r) 16 e else s) s

/-- The gang after its handler: its own splits, predicates, latches and taking-part bits, each split at its position, from which it goes on
when it has been read again, the trapped split past its word when SKIP is set (R84). -/
def Gang.leave (g : Gang) (h : Handler) : Gang :=
  let skip := bit g.trapSplit 4
  let trapped := bits g.trapSplit 0 2
  { g with
    handler := none
    splits := h.splits.zipIdx.map fun (p : Option Split × Nat) => p.1.map fun sp =>
      if sp.incl then { sp with
        hold := sp.hold.kept
        resume := some ((skip && p.2 == trapped) || sp.resume == some true) }
      else headerAt sp.pc sp.mask
    lanes := (g.lanes.zip h.lanes).map fun (p : Lane × SavedLane) =>
      { p.1 with preds := p.2.preds, latch := p.2.latch, takes := p.2.takes, umbra := [] } }

/-- The split that a handler's TRAPSPLIT names passed over its word where SKIP is set (R84): it stands at the following word when the RTT ends, so a
forced save finds it there (R87, R178). A word that cannot be read leaves it as it is, and traps when it next issues (R29). [DEDUCED, log entry 12] -/
def State.skipTrapped (s : State) (key : Nat) : State :=
  match s.gang key with
  | none => s
  | some g =>
    let i := bits g.trapSplit 0 2
    match g.split i with
    | none => s
    | some sp =>
      if sp.resume ≠ some true then s
      else match s.refresh g sp true with
        | .error _ => s
        | .ok sp =>
          let s := s.setGang key (g.setSplit i (some sp))
          if sp.incl then s else s.arrive key i

/-- The requests for the words that the trapped split is to pass, where they have to be asked for. -/
def State.askSkip (s : State) (g : Gang) : State :=
  match g.split (bits g.trapSplit 0 2) with
  | none => s
  | some sp =>
    if sp.resume ≠ some true then s
    else match s.refresh g sp true with
      | .ok _ => s
      | .error t => match t.place with
        | some (va, n) => if t.code = cWAIT then s.failedAt g.die g.ctx va n (t.code, t.cause) else s
        | none => s

/-- Returning from a handler (R178), once every split of it stands at its RTT: the table is checked (a bad one is a double fault),
the Umbra is released, and the gang resumes, or leaves the core when the entry was a save. [DEDUCED, log entry 12] -/
def State.returnTrap (s : State) (key : Nat) : State :=
  match s.gang key with
  | none => s
  | some g =>
    match g.handler with
    | none => s
    | some h =>
      let masks := h.splits.filterMap fun o => o.map (·.mask)
      let s := (s.askOvf g).askSkip (g.leave h)
      if s.asks ≠ [] then s
      else if !tableOk g.live (masks ++ s.ovfMasks g) 0 then s.doubleFault g cILLOPND
      else match h.reason with
        | some 0 | some 1 | some 2 => (s.dropGang key true).retryTraps g.core
        | _ =>
          let s := (s.setGang key (g.leave h)).skipTrapped key
          let s := s.retryTraps g.core
          match g.saving with
          | some _ => s.push [.preemptEntry key]
          | none => s

end Sys2Proof.Machine
end

