-- ==== Sys2Proof/Machine/Operands.lean ====
section
/-!
DEFINITION. Operand bytes (R33, R34, R143): which byte may stand where, what it reads in a lane, where a result goes, and the forms
that the instructions share.
-/
namespace Sys2Proof.Machine

/-- How an instruction uses an operand byte. -/
inductive Use where
  /-- a register source of 32 bits, or of 64 -/
  | src (pair : Bool)
  /-- a register destination -/
  | dst (pair : Bool)
  /-- a register that is read and written (MAD, BFI, FFMA) -/
  | both (pair : Bool)
  /-- a vk or ok, as a source (MOVH) -/
  | named (pair : Bool)
  | predSrc
  | predDst
  deriving DecidableEq, Repr

/-- A vk whose bytes lie below REGBYTES, or an ok; even where a pair is required (R34). -/
def Gang.regOk (g : Gang) (pair : Bool) (o : Opnd) : Bool :=
  if o < 0xE0#8 then (!pair || !bit o 0) && (g.place g.vbNow (4 * o.toNat) (if pair then 8 else 4)).isSome
  else o < 0xE8#8 && (!pair || !bit o 0)

/-- Whether a byte may stand for a use (R33, R34): `full` says that the latch of every taking-part lane is not empty. -/
def Gang.useOk (g : Gang) (full : Bool) : Use → Opnd → Bool
  | .src pair, o => g.regOk pair o || (o == 0xE8 && full) || o == 0xE9 || (!pair && (o == 0xEA || o == 0xEB))
  | .dst pair, o => g.regOk pair o || o == 0xE8 || o == 0xE9
  | .both pair, o => g.regOk pair o || (o == 0xE8 && full) || o == 0xE9
  | .named pair, o => g.regOk pair o
  | .predSrc, o => 0xF0#8 ≤ o && o < 0xF8#8
  | .predDst, o => 0xF0#8 ≤ o && o < 0xF8#8

/-- The bytes that a use reads as a source. -/
def Use.reads : Use → Nat
  | .src p | .both p | .named p => if p then 2 else 1
  | _ => 0

/-- The lanes of a list in which one of n words from a register on is poisoned, and the byte offset of the first (R257). -/
def Gang.poisonAt (g : Gang) (act : List Nat) (o : Opnd) (n : Nat) : Option (Nat × List Nat) :=
  if 0xE0#8 ≤ o then none
  else match g.place g.vbNow (4 * o.toNat) (4 * n) with
    | none => none
    | some (umbra, off) =>
      (List.range n).findSome? fun j =>
        match act.filter fun i => g.wordPoison (g.lane i) umbra false (off / 4 + j) with
        | [] => none
        | ls => some (off + 4 * j, ls)

/-- Whether the latch of every taking-part lane holds a value (R35). -/
def Issue.full (c : Issue) : Bool := c.act.all fun i => (c.g.lane i).latch.isSome

/-- The trap that an instruction's operand bytes give it before it has any effect (R34, R257). -/
def Issue.check (c : Issue) (us : List (Use × Opnd)) : Option Trap :=
  if us.all fun u => c.g.useOk c.full u.1 u.2 then
    us.findSome? fun u => (c.g.poisonAt c.act u.2 u.1.reads).map fun p =>
      { code := cPOISON, arg := some (BitVec.ofNat 64 p.1), lanes := some (maskOf p.2) }
  else some illOpnd

/-- The issue with its lowest-numbered taking-part lane alone: the lane of which a word that reads one lane reads its operands. -/
def Issue.one (c : Issue) : Issue := { c with act := [c.low] }

/-- A word of a lane named under VB: 0 for a name outside the register space. -/
def Gang.vReg (g : Gang) (l : Lane) (k : Nat) : Word :=
  match g.place g.vbNow (4 * k) 4 with
  | some (umbra, off) => g.readWord l umbra false (off / 4)
  | none => 0

/-- A 32-bit source operand in a lane (R33). -/
def Gang.r32 (g : Gang) (o : Opnd) (i : Nat) : Word :=
  let l := g.lane i
  if o < 0xE0#8 then g.vReg l o.toNat
  else if o < 0xE8#8 then tgetD l.ofile (o.toNat - 0xE0) 0
  else if o = 0xE8 then field (l.latch.getD 0) 0 32
  else if o = 0xEA then BitVec.ofNat 32 i
  else if o = 0xEB then BitVec.ofNat 32 g.width
  else 0

/-- A 64-bit source operand in a lane: the even register is the low word (R33, R34, R143). -/
def Gang.r64 (g : Gang) (o : Opnd) (i : Nat) : DWord :=
  if o < 0xE8#8 then g.r32 (o + 1) i ++ g.r32 o i
  else if o = 0xE8 then (g.lane i).latch.getD 0
  else 0

/-- A predicate operand in a lane. -/
def Gang.rPred (g : Gang) (o : Opnd) (i : Nat) : Bool := (g.lane i).preds.getLsbD (o.toNat % 8)

/-- A lane with a 32-bit register operand written; the latch, zero and every other byte take no register (R33). -/
def Gang.put32 (g : Gang) (o : Opnd) (v : Word) (l : Lane) : Lane :=
  if o < 0xE0#8 then
    match g.place g.vbNow (4 * o.toNat) 4 with
    | some (umbra, off) => g.writeWord l umbra false (off / 4) 0xFFFFFFFF v
    | none => l
  else if o < 0xE8#8 then { l with ofile := tput l.ofile (o.toNat - 0xE0) v }
  else l

/-- A lane with a register pair written: the low word to the even register (R143). -/
def Gang.put64 (g : Gang) (o : Opnd) (v : DWord) (l : Lane) : Lane :=
  if o < 0xE8#8 then g.put32 (o + 1) (field v 32 32) (g.put32 o (field v 0 32) l) else l

/-- A lane with a predicate written. -/
def putPred (o : Opnd) (b : Bool) (l : Lane) : Lane := { l with preds := setBit l.preds (o.toNat % 8) b }

/-- A 32-bit result: the destination and, zero-extended, the latch (R35). -/
def Gang.res32 (g : Gang) (o : Opnd) (v : Word) (l : Lane) : Lane := { g.put32 o v l with latch := some (v.setWidth 64) }
/-- A 64-bit result: the destination and the latch (R35). -/
def Gang.res64 (g : Gang) (o : Opnd) (v : DWord) (l : Lane) : Lane := { g.put64 o v l with latch := some v }
/-- A predicate result: the destination and, as 0 or 1, the latch (R35, R155). -/
def resPred (o : Opnd) (b : Bool) (l : Lane) : Lane := { putPred o b l with latch := some (if b then 1 else 0) }

/-- The machine with the issuing gang replaced. -/
def State.put (s : State) (c : Issue) (g : Gang) : State := s.setGang c.key g

/-- The form of the words that change only their taking-part lanes (R142): operand checks, then a change of each lane. -/
def laneWord (i : Instr) (us : List (Use × Opnd)) (f : Gang → Nat → Lane → Lane) (s : State) : Outcome :=
  gangWord i s fun c =>
    match c.check us with
    | some t => .trap t
    | none => .done (s.put c (c.g.mapLanes c.act (f c.g)))

/-- Two 32-bit sources, a 32-bit result. -/
def bin32 (i : Instr) (d a b : Opnd) (f : Word → Word → Word) : State → Outcome :=
  laneWord i [(.dst false, d), (.src false, a), (.src false, b)] fun g k => g.res32 d (f (g.r32 a k) (g.r32 b k))

/-- One 32-bit source, a 32-bit result. -/
def un32 (i : Instr) (d a : Opnd) (f : Word → Word) : State → Outcome :=
  laneWord i [(.dst false, d), (.src false, a)] fun g k => g.res32 d (f (g.r32 a k))

/-- Two 64-bit sources, a 64-bit result. -/
def bin64 (i : Instr) (d a b : Opnd) (f : DWord → DWord → DWord) : State → Outcome :=
  laneWord i [(.dst true, d), (.src true, a), (.src true, b)] fun g k => g.res64 d (f (g.r64 a k) (g.r64 b k))

/-- Two 32-bit sources, a predicate result. -/
def cmp32 (i : Instr) (d a b : Opnd) (f : Word → Word → Bool) : State → Outcome :=
  laneWord i [(.predDst, d), (.src false, a), (.src false, b)] fun g k => resPred d (f (g.r32 a k) (g.r32 b k))

/-- Two predicate sources, a predicate result. -/
def binPred (i : Instr) (d a b : Opnd) (f : Bool → Bool → Bool) : State → Outcome :=
  laneWord i [(.predDst, d), (.predSrc, a), (.predSrc, b)] fun g k => resPred d (f (g.rPred a k) (g.rPred b k))

end Sys2Proof.Machine
end

