-- ==== Sys2Proof/Machine/Special.lean ====
section
/-!
DEFINITION. The special registers and the views (R83, R103, R123, R144, R149 to R151, R205, R254).
-/
namespace Sys2Proof.Machine

/-- The loop-nest program of a gang on its core's sequencer (R179). -/
def State.nestOf (s : State) (g : Gang) : Option Nest :=
  match (s.core g.core).nest with
  | some n => if n.gang = g.id then some n else none
  | none => none

/-- MSTAT of a program (R254). -/
def Nest.mstat (n : Nest) : Word := BitVec.ofNat 32 (n.state + 256 * (n.code % 256))

/-- MROW, MCOL, MDEP and MSTAT of a gang: its program's, or those of the last one that ended (R254). -/
def State.progress (s : State) (g : Gang) : Word × Word × Word × Word :=
  match s.nestOf g with
  | some n => (BitVec.ofNat 32 n.mrow, BitVec.ofNat 32 n.mcol, BitVec.ofNat 32 n.mdep, n.mstat)
  | none => (g.mrow, g.mcol, g.mdep, g.mstat)

/-- GANGID (R103). -/
def Gang.gangid (g : Gang) : Word := BitVec.ofNat 32 g.id
/-- COREXY (R103). -/
def Gang.corexy (g : Gang) : Word := BitVec.ofNat 32 (coreX g.core + 256 * coreY g.core)
/-- NSPLIT (R103). -/
def Gang.nsplit (g : Gang) : Word := BitVec.ofNat 32 (g.splitCount + 65536 * g.ovf)
/-- PLACE (R103). -/
def Gang.placeReg (g : Gang) : Word := BitVec.ofNat 32 (g.slice + 256 * g.level)

/-- The rank of a core in its cluster of 2^a × 2^b cores (R102). -/
def clusterRank (core a b : Nat) : Nat := coreX core % 2 ^ a + 2 ^ a * (coreY core % 2 ^ b)

/-- TEAMID and CLUSTER (R103). -/
def Team.teamid (t : Team) : Word := BitVec.ofNat 32 (t.dx % 256 + 256 * (t.dy % 256) + 65536 * t.tslot)
def Team.cluster (t : Team) : Word := BitVec.ofNat 32 (t.logW + 4 * t.logH + 16 * clusterRank t.core t.logW t.logH)

/-- SHSTATE in a lane (R123). -/
def Gang.shstate (g : Gang) (i : Nat) : Word :=
  match g.proposal with
  | none => 0
  | some p => BitVec.ofNat 32 ((g.lane i).written.toNat + 65536 * p.vbase + 2 ^ 24 * p.n + 2 ^ 31)

/-- TRAPMASK in a lane (R83). -/
def Gang.trapMaskIn (g : Gang) (i : Nat) : Word := if i < 32 then field g.trapMask 0 32 else field g.trapMask 32 32

/-- A pair register by its number n: its 64-bit value (R151). -/
def State.pairSr (s : State) (g : Gang) (n : Nat) : Option DWord :=
  match n with
  | 0x000 => some s.pkg.time
  | 0x002 => some (s.cycle g.core)
  | 0x00B => some g.argBase
  | 0x021 => some g.trapPc
  | 0x024 => some g.trapArg
  | 0x027 => some g.tvec
  | 0x100 => some (s.ctx g.ctx).pvec
  | 0x105 => some (s.ctx g.ctx).spBase
  | 0x108 => some (s.ctx g.ctx).spillBase
  | _ => none

/-- A 32-bit register by its number: its value in a lane (R151). -/
def State.wordSr (s : State) (g : Gang) (split i n : Nat) : Option Word :=
  let team := (s.team g.teamKey)
  let prog := s.progress g
  match n with
  | 0x004 => some g.gangid
  | 0x005 => some ((team.map Team.teamid).getD 0)
  | 0x006 => some g.corexy
  | 0x007 => some (BitVec.ofNat 32 g.width)
  | 0x008 => some g.nsplit
  | 0x009 => some (BitVec.ofNat 32 split)
  | 0x00A => some g.launch
  | 0x00D => some ((team.map Team.cluster).getD 0)
  | 0x00E => some g.placeReg
  | 0x010 => some g.vbNow
  | 0x011 => some g.tbNow
  | 0x012 => some g.abNow
  | 0x013 => some (if g.inHandler then 256 else BitVec.ofNat 32 g.regBytes)
  | 0x020 => some g.trapCode
  | 0x023 => some (g.trapMaskIn i)
  | 0x026 => some g.trapSplit
  | 0x029 => some g.fuseTmo
  | 0x02A => some g.fpctl
  | 0x02B => some g.fpflags
  | 0x030 => some g.accn
  | 0x031 => some g.propn
  | 0x032 => some (g.shstate i)
  | 0x040 => some g.batch
  | 0x050 => some prog.1
  | 0x051 => some prog.2.1
  | 0x052 => some prog.2.2.1
  | 0x053 => some prog.2.2.2
  | 0x102 => some (s.ctx g.ctx).ctxid
  | 0x103 => some ((s.ctx g.ctx).partid.setWidth 32)
  | 0x104 => some (s.ctx g.ctx).drainLim
  | 0x107 => some (s.ctx g.ctx).spLim
  | k + 1 => (s.pairSr g k).map fun v => field v 32 32
  | _ => none

/-- FPCTL and FPFLAGS as they are held: their reserved bits read as zero (R3, R144). -/
def fpctlOf (w : Word) : Word := w &&& 0x1F03
def fpflagsOf (w : Word) : Word := w &&& 0x1F
/-- TRAPCODE and TRAPSPLIT as they are held: their reserved bits read as zero (R3, R83). -/
def trapCodeOf (w : Word) : Word := w &&& 0xFFFF
def trapSplitOf (w : Word) : Word := w &&& 0x3F13

/-- A privileged register number (R150, R151). -/
def srPriv (n : Nat) : Bool := 0x100 ≤ n && n ≤ 0x1FF

/-- RDSR (R150): the privilege check first, then the number and the operand, which is no `zero` where the number is a pair's. -/
def execRdsr (d : Opnd) (num : BitVec 16) (s : State) : Outcome :=
  gangWord (.rdsr d num) s fun c =>
    let n := num.toNat
    if srPriv n && !c.g.privileged then .trap priv
    else match s.pairSr c.g n with
      | some v =>
        match if d == 0xE9 then some illOpnd else c.check [(.dst true, d)] with
        | some t => .trap t
        | none => .done (s.put c (c.g.mapLanes c.act fun _ l => c.g.res64 d v l))
      | none =>
        if (s.wordSr c.g c.idx 0 n).isNone then .trap illOpnd
        else match c.check [(.dst false, d)] with
          | some t => .trap t
          | none => .done (s.put c (c.g.mapLanes c.act fun i l => c.g.res32 d ((s.wordSr c.g c.idx i n).getD 0) l))

/-- Whether a value may be a view: aligned by R109, and in a handler with bits 14:10 clear where bit 15 is set (R149). -/
def viewOk (inHandler : Bool) (which : Nat) (v : BitVec 16) : Bool :=
  v.toNat % (if which = 0 then 4 else if which = 1 then 32 else 128) == 0 && !(inHandler && bit v 15 && field v 10 5 != 0)

/-- The gang with a view set: the handler's own inside a handler (R126, R149). -/
def Gang.setView (g : Gang) (which : Nat) (v : Word) : Gang :=
  match g.handler with
  | none => if which = 0 then { g with vb := v } else if which = 1 then { g with tb := v } else { g with ab := v }
  | some h =>
    { g with handler := some (if which = 0 then { h with vb := v } else if which = 1 then { h with tb := v } else { h with ab := v }) }

/-- VIEW (R149). -/
def execView (which : BitVec 8) (imm : BitVec 16) (s : State) : Outcome :=
  gangWord (.view which imm) s fun c =>
    if 2#8 < which || !viewOk c.g.inHandler which.toNat imm then .trap illOpnd
    else .done (s.put c ((c.g.setView which.toNat (imm.setWidth 32)).dropLatch c.act))

/-- The half of a pair that a write at n or n + 1 gives (R150). -/
def pairWrite (old v : DWord) (high wide : Bool) : DWord :=
  if wide then v else if high then field v 0 32 ++ field old 0 32 else old

/-- TRAPPC written by a handler: the trapped split resumes there as at a header (R83). [DEDUCED, log entry 12] -/
def Gang.setTrapPc (g : Gang) (v : DWord) : Gang :=
  match g.handler with
  | none => g
  | some h =>
    let pc := v &&& ~~~3#64
    let k := bits g.trapSplit 0 2
    { g with
      trapPc := pc
      trapSplit := setBit g.trapSplit 4 false
      handler := some { h with splits := h.splits.set k ((h.splits.getD k none).map fun sp => headerAt pc sp.mask) } }

/-- Whether a scratchpad window lies within the die's scratchpad, on a 64-byte boundary (R205). -/
def windowOk (base : DWord) (lim : Word) : Bool := base.toNat % 64 == 0 && base.toNat + lim.toNat ≤ padSize

/-- The effect of a write to a special register: `none` for the ILLOPND of an unlisted number, of a view or of a window that may not
be (R83, R144, R150, R151, R205). `wide` is an access of 64 bits at a pair's n. -/
def State.writeSr (s : State) (c : Issue) (n : Nat) (v : DWord) : Option State :=
  let g := c.g
  let x := s.ctx g.ctx
  let lo : Word := field v 0 32
  let view (which : Nat) : Option State :=
    if field v 16 16 != 0 || !viewOk g.inHandler which (field v 0 16) then none else some (s.put c (g.setView which lo))
  match n with
  | 0x010 => view 0
  | 0x011 => view 1
  | 0x012 => view 2
  | 0x021 => some (s.put c (g.setTrapPc v))
  | 0x022 => some (s.put c (g.setTrapPc (pairWrite g.trapPc v true false)))
  | 0x026 => some (if g.inHandler then s.put c { g with trapSplit := setBit g.trapSplit 4 (bit v 4) } else s)
  | 0x027 => some (s.put c { g with tvec := v &&& ~~~3#64 })
  | 0x028 => some (s.put c { g with tvec := pairWrite g.tvec v true false })
  | 0x029 => some (s.put c { g with fuseTmo := lo })
  | 0x02A => some (s.put c { g with fpctl := fpctlOf lo })
  | 0x02B => some (s.put c { g with fpflags := fpflagsOf lo })
  | 0x100 => some (s.setCtx g.ctx { x with pvec := v &&& ~~~3#64 })
  | 0x101 => some (s.setCtx g.ctx { x with pvec := pairWrite x.pvec v true false })
  | 0x104 => some (s.setCtx g.ctx { x with drainLim := lo })
  | 0x105 => if windowOk v x.spLim then some (s.setCtx g.ctx { x with spBase := v }) else none
  | 0x106 =>
    let b := pairWrite x.spBase v true false
    if windowOk b x.spLim then some (s.setCtx g.ctx { x with spBase := b }) else none
  | 0x107 => if windowOk x.spBase lo then some (s.setCtx g.ctx { x with spLim := lo }) else none
  | _ => if (s.pairSr g n).isSome || (s.wordSr g c.idx 0 n).isSome then some s else none

/-- The issuing gang's latches emptied, whatever the word has changed of the gang (R35). -/
def State.dropLatch (s : State) (c : Issue) : State :=
  match s.gang c.key with
  | none => s
  | some g => s.setGang c.key (g.dropLatch c.act)

/-- WRSR (R150): the value of the lowest-numbered taking-part lane. -/
def execWrsr (d : Opnd) (num : BitVec 16) (s : State) : Outcome :=
  gangWord (.wrsr d num) s fun c =>
    let n := num.toNat
    let wide := (s.pairSr c.g n).isSome
    if srPriv n && !c.g.privileged then .trap priv
    else match c.one.check [(.src wide, d)] with
      | some t => .trap t
      | none =>
        match s.writeSr c n (if wide then c.g.r64 d c.low else (c.g.r32 d c.low).setWidth 64) with
        | none => .trap illOpnd
        | some s' => .done (s'.dropLatch c)

end Sys2Proof.Machine
end

