-- ==== Sys2Proof/Machine/Wait.lean ====
section
/-!
DEFINITION. Waits: the delivery of failures at counter waits (R80, R202), team and cluster barriers (R225, R226), publication
(R68), and what an exit of lanes may release (R114, R118, R225).
-/
namespace Sys2Proof.Machine

/-- A job of which the parts in flight that a condition names are to fill no L1 (R59). -/
def Job.staled (c : Part → Bool) : Job → Job
  | .access a => .access { a with parts := a.parts.map fun q => if q.st == AccSt.sent && c q then { q with stale := true } else q }
  | j => j

/-- The accesses of a core that are in flight, marked where a condition names their parts: a reply that may be older than what the core's L1 is to hold
fills no line (R59, R63, R65). [DEDUCED, log entry 22] -/
def State.staled (s : State) (core : Nat) (c : Part → Bool) : State :=
  { s with flight := s.flight.map fun x => if x.2.gang / 64 = core then (x.1, { x.2 with job := x.2.job.staled c }) else x }

/-- The core's L1 emptied (R65, R68). [DEDUCED, log entry 22; DESIGN CHOICE, log entry 24] -/
def State.dropL1 (s : State) (core : Nat) : State := (s.setCore core { s.core core with l1 := [] }).staled core fun _ => true

/-- The failures of a gang once the oldest of a counter has been delivered: it is gone, unless REPLV may repair it (R195, R202). [DEDUCED, log entry 14] -/
def Gang.consume (g : Gang) (f : Failure) : Gang :=
  if f.repl.isSome then g else { g with failures := g.failures.erase f }

/-- The delivery of the oldest failure of a counter at a wait on it (R80); `none` where there is none. [DEDUCED, log entry 14] -/
def State.deliver (s : State) (key idx ctr : Nat) : Option State :=
  match s.gang key with
  | none => none
  | some g =>
    match g.failures.find? fun f => f.ctr == ctr with
    | none => none
    | some f =>
      some ((s.setGang key (g.consume f)).takeTrap key idx f.code f.cause f.arg f.mask false (some f))

/-- The splits of a gang's program, not of its handler. -/
def Gang.ownSplits (g : Gang) : List (Option Split) := match g.handler with | none => g.splits | some h => h.splits
/-- The taking-part bits that go with them. -/
def Gang.ownTakes (g : Gang) : List Bool :=
  match g.handler with
  | none => g.lanes.map (·.takes)
  | some h => h.lanes.map (·.takes)

/-- How many live lanes a hold holds in the gang. -/
def Gang.heldLanes (g : Gang) (h : Hold) : Nat :=
  (g.ownSplits.map fun o => match o with
    | none => 0
    | some sp => if sp.hold = h then (g.liveList.filter fun i => sp.mask.getLsbD i && g.ownTakes.getD i false).length else 0).sum

/-- The gangs of a team. -/
def State.teamGangs (s : State) (tk : Nat) : List Gang := (s.gangs.map (·.2)).filter fun g => g.teamKey == tk

/-- The live lanes of a team (R225). -/
def State.teamLive (s : State) (tk : Nat) : Nat := ((s.teamGangs tk).map fun g => g.liveList.length).sum

/-- Barrier k of a team. -/
def Team.bar (t : Team) (k : Nat) : Barrier := tgetD t.bars k {}

/-- The arrivals that a target asks for: a target of 0 is the team's live lanes at the time (R225). -/
def State.barTarget (s : State) (tk n : Nat) : Nat := if n = 0 then s.teamLive tk else n

/-- The completion of a barrier's phase where its count has reached its target (R225): the count is cleared, the phase flips, and
the batches of the publication set become visible on the core (R68). [DEDUCED, log entry 15] -/
def State.barCheck (s : State) (tk k : Nat) : State :=
  match s.team tk with
  | none => s
  | some t =>
    let b := t.bar k
    match b.target with
    | none => s
    | some n =>
      if b.count < s.barTarget tk n then s
      else
        let s := s.setTeam tk { t with bars := tput t.bars k { phase := b.phase + 1 } }
        if b.pubs = [] then s else s.dropL1 t.core

/-- The (gang, batch) pairs that an arrival publishes (R68). -/
def Gang.pubs (g : Gang) (pub : Bool) : List (Nat × Nat) := if pub then g.waited.map fun b => (g.id, b) else []

/-- An arrival of lanes at a barrier (R225). [DEDUCED, log entry 15] -/
def State.barArrive (s : State) (c : Issue) (k : Nat) (pub : Bool) (n : Nat) : State :=
  let tk := c.g.teamKey
  match s.team tk with
  | none => s
  | some t =>
    let b := t.bar k
    let n := b.target.getD n
    let b' := { b with count := b.count + c.act.length, target := some n, pubs := b.pubs ++ c.g.pubs pub }
    (s.setTeam tk { t with bars := tput t.bars k b' }).barCheck tk k

/-- Whether an arrival's target differs from that of the phase (R225). -/
def State.barClash (s : State) (tk k n : Nat) : Bool :=
  match s.team tk with
  | none => false
  | some t => match (t.bar k).target with
    | none => false
    | some m => s.barTarget tk m != s.barTarget tk n

/-- The completed phases of a barrier. [DEDUCED, log entry 15] -/
def State.barPhase (s : State) (tk k : Nat) : Nat := match s.team tk with | none => 0 | some t => (t.bar k).phase

/-- The cores of a team's cluster (R102). -/
def Team.clusterCores (t : Team) : List Nat :=
  let x := coreX t.core / 2 ^ t.logW * 2 ^ t.logW
  let y := coreY t.core / 2 ^ t.logH * 2 ^ t.logH
  (List.range (2 ^ t.logH)).flatMap fun j => (List.range (2 ^ t.logW)).map fun i => coreAt (x + i) (y + j)

/-- Whether a launch covers a core (R101). -/
def Launch.covers (l : Launch) (core : Nat) : Bool :=
  l.x0 ≤ coreX core && coreX core < l.x0 + l.w && l.y0 ≤ coreY core && coreY core < l.y0 + l.h

/-- The resident teams of a team's launch and slot in its cluster. -/
def State.clusterTeams (s : State) (t : Team) : List (Nat × Team) :=
  s.teams.filter fun x => x.2.launch == t.launch && x.2.tslot == t.tslot && t.clusterCores.contains x.2.core

/-- Whether every live lane of a team has executed the CLBAR of its phase (R226). [DEDUCED, log entry 15] -/
def State.teamArrived (s : State) (tk : Nat) (t : Team) : Bool :=
  (s.teamGangs tk).all fun g => g.heldLanes (.clbar t.clPhase) == g.liveList.length

/-- Whether the cores of the cluster that the launch covers all hold the team or have seen it end (R226). -/
def State.clusterHere (s : State) (t : Team) : Bool :=
  match tget s.launches t.launch.toNat with
  | none => true
  | some l => t.clusterCores.all fun c =>
    !l.covers c || l.ended.contains (c * 8 + t.tslot) || s.teams.any fun x => x.2.launch == t.launch && x.2.tslot == t.tslot && x.2.core == c

/-- The completion of a cluster barrier where every team has arrived (R226), with its publication (R68). [DEDUCED, log entry 15] -/
def State.clusterCheck (s : State) (tk : Nat) : State :=
  match s.team tk with
  | none => s
  | some t =>
    let ts := s.clusterTeams t
    let some_ := ts.any fun x => (s.teamGangs x.1).any fun g => g.heldLanes (.clbar x.2.clPhase) != 0
    if some_ && s.clusterHere t && ts.all fun x => s.teamArrived x.1 x.2 then
      ts.foldl (fun s x =>
        let s := s.setTeam x.1 { x.2 with clPhase := x.2.clPhase + 1, clPubs := [] }
        if ts.any fun y => y.2.clPubs != [] then s.dropL1 x.2.core else s) s
    else s

/-- Whether a gang has slices of a range on its core and level. -/
def Gang.onSlices (g : Gang) (core level lo n : Nat) : Bool :=
  g.core == core && g.level == level && decide (g.slice < lo + n) && decide (lo < g.slice + g.width / 4)

/-- The first slice of the buddy range (R118). -/
def Gang.buddySlice (g : Gang) : Nat :=
  let n := g.width / 4
  if g.slice / n % 2 = 0 then g.slice + n else g.slice - n

/-- Whether a live lane of the gang's team remains in its buddy range (R118). -/
def State.buddyLive (s : State) (g : Gang) : Bool :=
  s.gangs.any fun x => x.2.onSlices g.core g.level g.buddySlice (g.width / 4) && x.2.teamKey == g.teamKey && x.2.liveList != []

/-- A split that waits in FUSE, where its gang's buddy range has no live lane left (R118). -/
def Split.gone (sp : Split) : Split := match sp.hold with | .fuse _ _ => { sp with hold := .fuseGone } | _ => sp

/-- What the exit of lanes of a team may release: barriers that count live lanes (R225), the cluster barrier (R226), and buddies that
wait in FUSE (R118). -/
def State.exitChecks (s : State) (tk core : Nat) : State :=
  let s := (List.range 16).foldl (fun s k => s.barCheck tk k) s
  let s := s.clusterCheck tk
  s.gangs.foldl (fun s x =>
    if x.2.core = core ∧ !s.buddyLive x.2 then s.setGang x.1 { x.2 with splits := x.2.splits.map fun o => o.map Split.gone } else s) s

/-- WAITC (R219): a wait that is satisfied delivers a failure of its counter first. [DEDUCED, log entry 49] -/
def execWaitc (ctr : BitVec 4) (n : BitVec 8) (s : State) : Outcome :=
  gangWord (.waitc ctr n) s fun c =>
    if n.toNat < c.g.pending ctr.toNat then .wait (s.hold c .wait)
    else match s.deliver c.key c.idx ctr.toNat with
      | some s' => .went s'
      | none => .done (s.put c (c.g.dropLatch c.act))

/-- BAR (R225): an arrival, then the wait for its phase; a double fault in a handler (R85). -/
def execBar (k : BitVec 4) (pub : Bool) (n4 : BitVec 8) (s : State) : Outcome :=
  gangWord (.bar k pub n4) s fun c =>
    let tk := c.g.teamKey
    if c.g.inHandler then .trap illOpnd
    else match c.sp.hold with
      | .bar _ phase =>
        if s.barPhase tk k.toNat = phase then .wait s else .done (s.put c (c.g.dropLatch c.act))
      | _ =>
        if s.barClash tk k.toNat (4 * n4.toNat) then .trap illOpnd
        else
          let s' := s.barArrive c k.toNat pub (4 * n4.toNat)
          let phase := s.barPhase tk k.toNat
          if s'.barPhase tk k.toNat = phase then .wait (s'.hold c (.bar k.toNat phase))
          else .done (s'.put c (c.g.dropLatch c.act))

/-- BARARV (R225): an arrival that records its phase. -/
def execBararv (k : BitVec 4) (pub : Bool) (n4 : BitVec 8) (s : State) : Outcome :=
  gangWord (.bararv k pub n4) s fun c =>
    let tk := c.g.teamKey
    if s.barClash tk k.toNat (4 * n4.toNat) then .trap illOpnd
    else
      let g := { c.g with arv := tput c.g.arv k.toNat (s.barPhase tk k.toNat) }
      .done ((s.barArrive c k.toNat pub (4 * n4.toNat)).put c (g.dropLatch c.act))

/-- BARWT (R225): a wait for the phase of the gang's last BARARV. -/
def execBarwt (k : BitVec 4) (s : State) : Outcome :=
  gangWord (.barwt k) s fun c =>
    if c.g.inHandler then .trap illOpnd
    else if tget c.g.arv k.toNat = some (s.barPhase c.g.teamKey k.toNat) then .wait (s.hold c .wait)
    else .done (s.put c (c.g.dropLatch c.act))

/-- CLBAR (R226): held until the cluster's teams have arrived; a double fault in a handler (R85). -/
def execClbar (pub : Bool) (s : State) : Outcome :=
  gangWord (.clbar pub) s fun c =>
    let tk := c.g.teamKey
    match s.team tk with
    | none => .done (s.put c (c.g.dropLatch c.act))
    | some t =>
      if c.g.inHandler then .trap illOpnd
      else match c.sp.hold with
        | .clbar phase => if t.clPhase = phase then .wait s else .done (s.put c (c.g.dropLatch c.act))
        | _ =>
          let s' := (s.setTeam tk { t with clPubs := t.clPubs ++ c.g.pubs pub }).hold c (.clbar t.clPhase)
          let s' := s'.clusterCheck tk
          match s'.team tk with
          | some t' => if t'.clPhase = t.clPhase then .wait s' else .done (s'.put c (c.g.dropLatch c.act))
          | none => .wait s'

end Sys2Proof.Machine
end

