-- ==== Sys2Proof/Machine/Control.lean ====
section
/-!
DEFINITION. Control transfer, traps, MCALL, FORK, JOINE, DOZE and YIELD (R45 to R48, R95, R112, R113, R172 to R181), and the end of
a gang (R114, R176).
-/
namespace Sys2Proof.Machine

/-- The lowest free entry of a gang's split table (R112). -/
def Gang.freeEntry (g : Gang) : Option Nat := (List.range 4).find? fun j => (g.split j).isNone

/-- Groups of lanes given the lowest free entries, each at its clause header; the groups that find none are left over (R112, R174). -/
def Gang.seat (g : Gang) : List (DWord × BitVec 64) → Gang × List (DWord × BitVec 64)
  | [] => (g, [])
  | x :: t =>
    match g.freeEntry with
    | some j => Gang.seat (g.setSplit j (some (headerAt x.1 x.2))) t
    | none => (g, x :: t)

/-- Overflow records pushed in order (R111, R112). -/
def State.pushAll (s : State) (key : Nat) : List (DWord × BitVec 64) → Except Trap State
  | [] => .ok s
  | x :: t =>
    match s.pushOvf key x.1 x.2 with
    | .error e => .error e
    | .ok s' => s'.pushAll key t

/-- A transfer of control (R112, R113, R174): the first group keeps the split's index, the others take free entries or are pushed as
overflow records; DIVOVF where they would not all fit, before any lane transfers. Groups without a lane do not exist. [DEDUCED, log entry 52] -/
def State.transfer (s : State) (c : Issue) (groups : List (DWord × BitVec 64)) : Except Trap State :=
  match s.gang c.key, groups.filter fun x => x.2 != 0 with
  | some g, x :: rest =>
    let g' := g.setSplit c.idx (some (headerAt x.1 x.2))
    let (g', left) := g'.seat rest
    if left != [] && (g.inHandler || 32 < g.ovf + left.length) then .error { code := cDIVOVF, arg := some (s.ovfRow g g.ovf) }
    else match (s.setGang c.key g').pushAll c.key left with
      | .error t => .error t
      | .ok s' => .ok ((c.idx :: (List.range 4).filter (· != c.idx)).foldl (fun s i =>
          match s.gang c.key with
          | none => s
          | some g => if i == c.idx || ((c.g.split i).isNone && (g.split i).isSome) then s.arrive c.key i else s) s')
  | _, _ => .ok s

/-- The fate of a transfer. -/
def Fate.ofTransfer : Except Trap State → Fate
  | .error t => .trap t
  | .ok s => .went s

/-- The target of a displacement (R27). -/
def Issue.target (c : Issue) {n : Nat} (disp : BitVec n) : DWord := c.sp.header + 4 * disp.signExtend 64

/-- The lanes of the split other than the given ones, which go on at the following header. -/
def Issue.others (c : Issue) (take : BitVec 64) : DWord × BitVec 64 := (c.sp.after, c.sp.mask &&& ~~~take)

/-- A transfer by a word that gives no register result: the latch of its lanes is emptied first (R35, R166). -/
def State.go (s : State) (c : Issue) (groups : List (DWord × BitVec 64)) : Fate :=
  Fate.ofTransfer ((s.put c (c.g.dropLatch c.act)).transfer c groups)

/-- BRA (R173). -/
def execBra (disp : BitVec 24) (s : State) : Outcome :=
  gangWord (.bra disp) s fun c => s.go c [(c.target disp, c.mask), c.others c.mask]

/-- The predicate of BRP and BRU in a lane (R173). -/
def Issue.holds (c : Issue) (neg : Bool) (pred : BitVec 3) (i : Nat) : Bool := (c.g.lane i).preds.getLsbD pred.toNat != neg

/-- BRP (R173). -/
def execBrp (neg : Bool) (pred : BitVec 3) (disp : BitVec 20) (s : State) : Outcome :=
  gangWord (.brp neg pred disp) s fun c =>
    let take := maskOf (c.act.filter (c.holds neg pred))
    s.go c [(c.target disp, take), c.others take]

/-- BRU (R173). -/
def execBru (neg : Bool) (pred : BitVec 3) (disp : BitVec 20) (s : State) : Outcome :=
  gangWord (.bru neg pred disp) s fun c =>
    let take := if c.act.all (c.holds neg pred) then c.mask else 0
    s.go c [(c.target disp, take), c.others take]

/-- Lanes grouped by target, in ascending order of each group's lowest lane (R174). -/
def groupLanes (f : Nat → DWord) : List Nat → List (DWord × List Nat)
  | [] => []
  | i :: t =>
    let gs := groupLanes f t
    match gs.find? fun x => x.1 == f i with
    | some x => (f i, i :: x.2) :: gs.erase x
    | none => (f i, [i]) :: gs

/-- The trap of a register target that is not aligned (R27). -/
def Issue.badTarget (c : Issue) (a : Opnd) : Option Trap :=
  match c.act.filter fun i => field (c.g.r64 a i) 0 2 != 0 with
  | [] => none
  | i :: t => some { code := cMISALIGN, arg := some (c.g.r64 a i), lanes := some (maskOf (i :: t)) }

/-- The groups of a branch to register targets (R174), the lanes that do not take part last. -/
def Issue.byTarget (c : Issue) (a : Opnd) : List (DWord × BitVec 64) :=
  (groupLanes (c.g.r64 a) c.act).map (fun x => (x.1, maskOf x.2)) ++ [c.others c.mask]

/-- BRX (R174). -/
def execBrx (a : Opnd) (s : State) : Outcome :=
  gangWord (.brx a) s fun c =>
    match c.check [(.src true, a)] with
    | some t => .trap t
    | none => match c.badTarget a with
      | some t => .trap t
      | none => s.go c (c.byTarget a)

/-- The machine with the link written into the taking-part lanes (R175). [DEDUCED, log entry 11] -/
def State.link (s : State) (c : Issue) (d : Opnd) : State := s.put c (c.g.mapLanes c.act fun _ => c.g.res64 d c.sp.after)

/-- CALL (R175): the link to o6:o7. -/
def execCall (disp : BitVec 24) (s : State) : Outcome :=
  gangWord (.call disp) s fun c => Fate.ofTransfer ((s.link c 0xE6).transfer c [(c.target disp, c.mask), c.others c.mask])

/-- CALLX (R175): A is read before the link is written to D. -/
def execCallx (d a : Opnd) (s : State) : Outcome :=
  gangWord (.callx d a) s fun c =>
    match c.check [(.dst true, d), (.src true, a)] with
    | some t => .trap t
    | none => match c.badTarget a with
      | some t => .trap t
      | none => Fate.ofTransfer ((s.link c d).transfer c (c.byTarget a))

/-- RET (R175). -/
def execRet (a : Opnd) (s : State) : Outcome :=
  gangWord (.ret a) s fun c =>
    match c.check [(.src true, a)] with
    | some t => .trap t
    | none => match c.badTarget a with
      | some t => .trap t
      | none => s.go c (c.byTarget a)

/-- A lane that has executed EXIT: its part of an open proposal is discarded, and no poison bit moves (R114, R124, R257). -/
def Lane.exit (l : Lane) : Lane := { l with live := false, written := 0, latch := none, takes := false }

/-- The mask of an entry without the lanes that have exited; an entry without a lane is free. -/
def Split.without (out : BitVec 64) (sp : Split) : Option Split :=
  if sp.mask &&& ~~~out = 0 then none else some { sp with mask := sp.mask &&& ~~~out }

/-- The overflow records without lanes that have exited: a record without a lane is removed, and the others move up in order (R176). -/
def State.dropOvf (s : State) (key : Nat) (out : BitVec 64) : Except Trap State :=
  match s.gang key with
  | none => .ok s
  | some g =>
    let rows := (List.range g.ovf).map fun r => (r, s.readOvf g r)
    let bad := rows.findSome? fun x => match x.2 with
      | .error e => some (accessTrap e (s.ovfRow g x.1) 16)
      | .ok _ => none
    match bad with
    | some t => .error t
    | none =>
      let recs := rows.filterMap fun x => match x.2 with
        | .ok (pc, m) => if m &&& ~~~out = 0 then none else some (pc, m &&& ~~~out)
        | .error _ => none
      recs.zipIdx.foldl (fun r x => match r with
        | .error t => .error t
        | .ok s => match s.vwrite g.die g.ctx (s.ovfRow g x.2) (leBytes 8 x.1.1.toNat ++ leBytes 8 x.1.2.toNat) with
          | .error e => .error (accessTrap e (s.ovfRow g x.2) 16)
          | .ok s' => .ok s') (.ok (s.setGang key { g with ovf := recs.length }))

/-- The gang after its last lane has left: only failures that arrive from now on are reported, and no failed load keeps a counter up (R176). -/
def Gang.orEnded (g : Gang) : Gang := if g.liveList = [] then { g.settled with failures := [] } else g

/-- EXIT outside a handler (R176). -/
def State.exitLanes (s : State) (c : Issue) : State :=
  let g := c.g.mapLanes c.act fun _ l => l.exit
  let rest := c.sp.mask &&& ~~~c.mask
  let g := g.setSplit c.idx (if rest = 0 then none else some (headerAt c.sp.after rest))
  ((s.put c g.orEnded).arrive c.key c.idx).exitChecks c.g.teamKey c.g.core

/-- Overflow records popped into the interrupted entries that an EXIT in a handler has freed (R113, R114, R176). [DEDUCED, log entry 12] -/
def State.popInterrupted (s : State) (key : Nat) (freed : List Nat) : State :=
  match s.gang key with
  | none => s
  | some g =>
    match g.handler with
    | none => s
    | some h =>
      let s' := freed.foldl (fun s i => s.arrive key i) (s.setGang key { g with handler := none, splits := h.splits })
      match s'.gang key with
      | none => s'
      | some g' => s'.setGang key { g' with handler := some { h with splits := g'.splits }, splits := g.splits }

/-- EXIT inside a handler (R176): the lanes leave the handler, the interrupted split table and the overflow records. [DEDUCED, log entry 12] -/
def State.exitHandler (s : State) (c : Issue) (h : Handler) : Except Trap State :=
  let g := c.g.mapLanes c.act fun _ l => l.exit
  let rest := c.sp.mask &&& ~~~c.mask
  let g := g.setSplit c.idx (if rest = 0 then none else some (headerAt c.sp.after rest))
  let freed := (List.range 4).filter fun i => match h.splits.getD i none with
    | some sp => sp.mask &&& ~~~c.mask == 0
    | none => false
  let h := { h with splits := h.splits.map fun o => o.bind (Split.without c.mask) }
  match (s.put c { g with handler := some h }.orEnded).dropOvf c.key c.mask with
  | .error t => .error t
  | .ok s' => .ok (((s'.popInterrupted c.key freed).arrive c.key c.idx).exitChecks c.g.teamKey c.g.core)

/-- EXIT (R176). -/
def execExit (s : State) : Outcome :=
  gangWord .exit s fun c =>
    match c.g.handler with
    | none => .went (s.exitLanes c)
    | some h => Fate.ofTransfer (s.exitHandler c h)

/-- A loop-nest program that runs (R254). -/
def Nest.running (n : Nest) : Bool := n.state == 1

/-- Whether a gang has ended but for GANG_END: no live lane, every counter at 0, no program of it running (R176). -/
def State.gangDone (s : State) (g : Gang) : Bool :=
  g.liveList.isEmpty && g.drained && (match s.nestOf g with | some n => !n.running | none => true)

/-- GANG_END (R114, R176): identifier, slice contexts and Umbra are free; a failure that arrived meanwhile is reported with the
launch (R89). -/
def execGangEnd (gang : Nat) (s : State) : Outcome :=
  match s.gang gang with
  | none => .next s
  | some g =>
    if !s.gangDone g then .next s
    else
      let s := match g.failures with
        | [] => s
        | f :: _ => { s with launches := tmod s.launches g.launch.toNat fun l =>
            if l.status = 0 then { l with status := 1, code := f.code + 256 * f.cause } else l }
      .next ((s.dropGang gang false).retryTraps g.core)

/-- TRAP (R177): SWTRAP with imm16, past which RTT resumes. -/
def execTrap (imm : BitVec 16) (s : State) : Outcome :=
  gangWord (.trap imm) s fun _ => .trap { code := cSWTRAP, arg := some (imm.setWidth 64), skip := true }

/-- BRK (R177): DEBUG, past which RTT resumes. -/
def execBrk (s : State) : Outcome :=
  gangWord .brk s fun _ => .trap { code := cDEBUG, arg := some 0, skip := true }

/-- The taking-part lanes of a handler's split at its RTT; the other lanes go on at the following header as a split of their own (R26, R112, R178). -/
def State.standRtt (s : State) (c : Issue) : Except Trap State :=
  let rest := c.others c.mask
  let g := (c.g.dropLatch c.act).setSplit c.idx (some { c.sp with mask := c.mask, hold := .rtt })
  if rest.2 = 0 then .ok (s.put c g)
  else match g.freeEntry with
    | none => .error { code := cDIVOVF, arg := some (s.ovfRow g g.ovf) }
    | some j => .ok ((s.put c (g.setSplit j (some (headerAt rest.1 rest.2)))).arrive c.key j)

/-- Whether every split of a gang stands at an RTT word (R178). -/
def Gang.allRtt (g : Gang) : Bool :=
  g.splits.all fun o => match o with | none => true | some sp => sp.hold == .rtt

/-- RTT (R178): ILLOPND outside a handler; it waits for every split of the handler. -/
def execRtt (s : State) : Outcome :=
  gangWord .rtt s fun c =>
    if !c.g.inHandler then .trap illOpnd
    else match s.standRtt c with
      | .error t => .trap t
      | .ok s' => match s'.gang c.key with
        | none => .wait s'
        | some g => if g.allRtt then .went (s'.returnTrap c.key) else .wait s'

/-- MCALL (R46): the parameters are fixed, and the words of the microprogram as they stand now issue next (R48). [DEDUCED, log entry 13] -/
def execMcall (n : BitVec 8) (b : Opnd) (params : Word) (s : State) : Outcome :=
  gangWord (.mcall n b params) s fun c =>
    let prog := tgetD (s.core c.g.core).control n.toNat []
    if prog = [] then .trap illOp
    else match c.one.check [(.src false, b)] with
      | some t => .trap t
      | none =>
        let sp := { c.sp with mvalid := true, midx := 0, mparams := c.g.r32 b c.low ++ params, mprog := prog, hold := .run }
        .went (s.put c (c.g.setSplit c.idx (some sp)))

/-- FORK (R179): at a counter of 63 the word stalls, as the words of R24 and R202 do. [DESIGN CHOICE, log entry 16] -/
def execFork (d a b : Opnd) (ctr : BitVec 4) (s : State) : Outcome :=
  gangWord (.fork d a b ctr) s fun c =>
    match (c.check [(.dst false, d)]).or (c.one.check [(.src true, a), (.src false, b)]) with
    | some t => .trap t
    | none =>
      let pc := c.g.r64 a c.low
      let core := s.core c.g.core
      let status (v : Word) : Gang := c.g.mapLanes c.act fun _ => c.g.res32 d v
      if field pc 0 2 != 0 then .trap { code := cMISALIGN, arg := some pc }
      else match core.nest with
        | some n => .done (s.put c (status (if n.gang = c.g.id then 2 else 1)))
        | none =>
          let k := ctr.toNat
          if 63 ≤ c.g.outstanding k then .wait (s.hold c .wait)
          else
            let nest : Nest := {
              gang := c.g.id
              ctr := k
              ppc := pc
              pblk := (c.g.r32 b c.low).toNat
              word := wordArg (encode (.fork d a b ctr)).2
              since := s.cycle c.g.core
              stepOp := s.nextOp }
            let s := s.setCore c.g.core { core with nest := some nest }
            .done ((s.put c ((status 0).setCtr k (c.g.outstanding k + 1))).kick (.tileStep c.g.core))

/-- JOINE (R180). -/
def execJoine (d : Opnd) (mode : BitVec 8) (s : State) : Outcome :=
  gangWord (.joine d mode) s fun c =>
    match c.check [(.dst false, d)] with
    | some t => .trap t
    | none =>
      if mode == 0 && (match s.nestOf c.g with | some n => n.running | none => false) then .wait (s.hold c .wait)
      else .done (s.put c (c.g.mapLanes c.act fun _ => c.g.res32 d (s.progress c.g).2.2.2))

/-- The largest of the taking-part lanes' values (R95, R181). -/
def Issue.latest (c : Issue) (a : Opnd) : DWord := c.act.foldl (fun m i => if m < c.g.r64 a i then c.g.r64 a i else m) 0

/-- DOZE (R95, R181). -/
def execDoze (a : Opnd) (s : State) : Outcome :=
  gangWord (.doze a) s fun c =>
    match c.check [(.src true, a)] with
    | some t => .trap t
    | none =>
      if c.sp.hold == .woken || c.latest a ≤ s.pkg.time then .done (s.put c (c.g.dropLatch c.act))
      else .wait (s.hold c (.doze (c.latest a)))

/-- DOZE_WAKE (R95): TIME has reached the deadline of a dozing split. -/
def execDozeWake (gang entry : Nat) (s : State) : Outcome :=
  match s.gang gang with
  | none => .next s
  | some g =>
    match g.split entry with
    | none => .next s
    | some sp =>
      match sp.hold with
      | .doze t =>
        .next (if t ≤ s.pkg.time && !g.frozen then s.setGang gang (g.setSplit entry (some { sp with hold := .woken })) else s)
      | _ => .next s

/-- YIELD (R181): changes no value; the port chooses from the entry after this one (R107). -/
def execYield (s : State) : Outcome := gangWord .yield s fun c => .done (s.put c (c.g.dropLatch c.act))

end Sys2Proof.Machine
end

