-- ==== Sys2Proof/Machine/Float.lean ====
section
/-!
DEFINITION. Exact binary floating point (R145, R157 to R162): values are exact numbers m × 2^e, every result is computed exactly, or
enclosed as tightly as its rounding needs, and rounded once.
-/
namespace Sys2Proof.Machine

/-- A format by the widths of its exponent and its fraction. -/
structure Fmt where
  ew : Nat
  mw : Nat
  deriving DecidableEq, Repr

def f16 : Fmt := ⟨5, 10⟩
def bf16 : Fmt := ⟨8, 7⟩
def f32 : Fmt := ⟨8, 23⟩
def f64 : Fmt := ⟨11, 52⟩

/-- Rounding modes by FPCTL.RM (R144). -/
abbrev RM := BitVec 2

/-- FPFLAGS bits (R144). -/
abbrev Flags := BitVec 5
abbrev fNX : Flags := 1
abbrev fUF : Flags := 2
abbrev fOF : Flags := 4
abbrev fDZ : Flags := 8
abbrev fNV : Flags := 16

/-- A floating-point datum: (−1)^neg × m × 2^e when finite. -/
inductive FVal where
  | nan (signalling : Bool)
  | inf (neg : Bool)
  | fin (neg : Bool) (m : Nat) (e : Int)
  deriving DecidableEq, Repr

def Fmt.bias (f : Fmt) : Nat := 2 ^ (f.ew - 1) - 1
/-- The exponent of the least significant bit of a subnormal. -/
def Fmt.umin (f : Fmt) : Int := 1 - (f.bias : Int) - (f.mw : Int)
def Fmt.infBits (f : Fmt) : Nat := (2 ^ f.ew - 1) * 2 ^ f.mw
def Fmt.signBit (f : Fmt) (neg : Bool) : Nat := if neg then 2 ^ (f.ew + f.mw) else 0
/-- The canonical quiet NaN (R145). -/
def Fmt.nanBits (f : Fmt) : Nat := f.infBits + 2 ^ (f.mw - 1)

/-- The datum of a bit pattern. -/
def Fmt.decode (f : Fmt) (b : Nat) : FVal :=
  let neg := b / 2 ^ (f.ew + f.mw) % 2 = 1
  let ex := b / 2 ^ f.mw % 2 ^ f.ew
  let fr := b % 2 ^ f.mw
  if ex = 2 ^ f.ew - 1 then
    if fr = 0 then .inf neg else .nan (fr < 2 ^ (f.mw - 1))
  else if ex = 0 then .fin neg fr f.umin
  else .fin neg (2 ^ f.mw + fr) (f.umin + (ex : Int) - 1)

/-- Numerator and denominator times a power of two of either sign. -/
def scaled (num den : Nat) (e : Int) : Nat × Nat := if 0 ≤ e then (num * 2 ^ e.toNat, den) else (num, den * 2 ^ (-e).toNat)

/-- The exponent E with 2^E ≤ num / den < 2^(E+1), for positive num and den. -/
def floorLog2 (num den : Nat) : Int :=
  let k : Int := (Nat.log2 num : Int) - (Nat.log2 den : Int)
  let p := scaled num den (-k)
  if p.2 ≤ p.1 then k else k - 1

/-- Whether a magnitude that lies r / d above a representable one is rounded away from zero (R144). -/
def roundUp (rm : RM) (neg odd : Bool) (r d : Nat) : Bool :=
  if r = 0 then false
  else if rm = 0 then (2 * r > d) || (2 * r == d && odd)
  else if rm = 1 then false
  else if rm = 2 then neg
  else !neg

/-- num / den × 2^e rounded to an integer multiple of 2^u: the multiple and whether it is inexact. -/
def roundAt (rm : RM) (neg : Bool) (num den : Nat) (e u : Int) : Nat × Bool :=
  let p := scaled num den (e - u)
  let q := p.1 / p.2
  let r := p.1 % p.2
  (if roundUp rm neg (q % 2 == 1) r p.2 then q + 1 else q, r != 0)

/-- The result of an overflow (R159). -/
def Fmt.overflow (f : Fmt) (rm : RM) (neg : Bool) : Nat :=
  f.signBit neg + (if rm = 0 || (rm == 2 && neg) || (rm == 3 && !neg) then f.infBits else f.infBits - 1)

/-- (−1)^neg × num / den × 2^e, positive num and den, rounded once: the bits and the flags. Tininess is detected after rounding
(R145). -/
def Fmt.round (f : Fmt) (rm : RM) (neg : Bool) (num den : Nat) (e : Int) : Nat × Flags :=
  let ex := floorLog2 num den + e
  let u := max (ex - (f.mw : Int)) f.umin
  let (q, nx) := roundAt rm neg num den e u
  let b := (u - f.umin).toNat * 2 ^ f.mw + q
  if f.infBits ≤ b then (f.overflow rm neg, fOF ||| fNX)
  else
    let emin := f.umin + (f.mw : Int)
    let tiny := ex < emin && ((roundAt rm neg num den e (ex - (f.mw : Int))).1 < 2 ^ (f.mw + 1) || ex + 1 < emin)
    (f.signBit neg + b, (if nx then fNX else 0) ||| (if nx && tiny then fUF else 0))

/-- A finite number rounded; a zero keeps the given sign. -/
def Fmt.ofExact (f : Fmt) (rm : RM) (neg : Bool) (m : Nat) (e : Int) : Nat × Flags :=
  if m = 0 then (f.signBit neg, 0) else f.round rm neg m 1 e

/-- The sign of an exact zero sum of addends that are not zeros of one sign (R145). -/
def zeroSign (rm : RM) : Bool := rm == 2

def FVal.isNan : FVal → Bool
  | .nan _ => true
  | _ => false
def FVal.isSNan : FVal → Bool
  | .nan s => s
  | _ => false
def FVal.negate : FVal → FVal
  | .nan s => .nan s
  | .inf n => .inf !n
  | .fin n m e => .fin (!n) m e

/-- The integer of a signed magnitude over 2^k. -/
def signedAt (neg : Bool) (m : Nat) (e k : Int) : Int := let v : Int := (m * 2 ^ (e - k).toNat : Nat); if neg then -v else v

/-- NV for a signalling NaN among the operands. -/
def nvOf (vs : List FVal) : Flags := if vs.any FVal.isSNan then fNV else 0

/-- The exact sum of data rounded once (R145, R171): NaN for a NaN or for infinities of both signs, a common infinity, otherwise the
exact sum; a zero sum has the common sign of its summands when all are zeros of one sign. [DEDUCED, log entry 52] -/
def Fmt.sum (f : Fmt) (rm : RM) (vs : List FVal) : Nat × Flags :=
  if vs.any FVal.isNan then (f.nanBits, nvOf vs)
  else
    let pos := vs.any fun v => v == .inf false
    let neg := vs.any fun v => v == .inf true
    if pos && neg then (f.nanBits, fNV)
    else if pos then (f.infBits, 0)
    else if neg then (f.signBit true + f.infBits, 0)
    else
      let k := vs.foldl (fun k v => match v with | .fin _ _ e => min k e | _ => k) (0 : Int)
      let t := vs.foldl (fun t v => match v with | .fin n m e => t + signedAt n m e k | _ => t) (0 : Int)
      if t = 0 then
        let signs := vs.map fun v => match v with | .fin n m _ => (n, m == 0) | _ => (false, false)
        let same := signs.all fun x => x.2 && x.1 == (signs.headD (false, true)).1
        (f.signBit (if same then (signs.headD (false, true)).1 else zeroSign rm), 0)
      else f.round rm (t < 0) t.natAbs 1 k

/-- A + B. -/
def Fmt.add (f : Fmt) (rm : RM) (a b : FVal) : Nat × Flags := f.sum rm [a, b]

/-- The exact product, an infinity, or `none` for 0 × ∞. -/
def FVal.mul : FVal → FVal → Option FVal
  | .nan s, .nan t => some (.nan (s || t))
  | .nan s, _ => some (.nan s)
  | _, .nan s => some (.nan s)
  | .inf n, .inf m => some (.inf (n != m))
  | .inf n, .fin s m _ => if m = 0 then none else some (.inf (n != s))
  | .fin s m _, .inf n => if m = 0 then none else some (.inf (n != s))
  | .fin s m e, .fin t k d => some (.fin (s != t) (m * k) (e + d))

/-- A × B. -/
def Fmt.mul (f : Fmt) (rm : RM) (a b : FVal) : Nat × Flags :=
  match a.mul b with
  | none => (f.nanBits, fNV)
  | some (.nan s) => (f.nanBits, if s then fNV else 0)
  | some (.inf n) => (f.signBit n + f.infBits, 0)
  | some (.fin n m e) => f.ofExact rm n m e

/-- A × B + C, one rounding; NV for 0 × ∞ whatever the addend (R145). -/
def Fmt.fma (f : Fmt) (rm : RM) (a b c : FVal) : Nat × Flags :=
  match a.mul b with
  | none => (f.nanBits, fNV)
  | some p => f.sum rm [p, c]

/-- A / B (R159). -/
def Fmt.div (f : Fmt) (rm : RM) (a b : FVal) : Nat × Flags :=
  match a, b with
  | .nan _, _ | _, .nan _ => (f.nanBits, nvOf [a, b])
  | .inf _, .inf _ => (f.nanBits, fNV)
  | .inf n, .fin s _ _ => (f.signBit (n != s) + f.infBits, 0)
  | .fin s _ _, .inf n => (f.signBit (n != s), 0)
  | .fin s m e, .fin t k d =>
    if k = 0 then
      if m = 0 then (f.nanBits, fNV) else (f.signBit (s != t) + f.infBits, fDZ)
    else if m = 0 then (f.signBit (s != t), 0)
    else f.round rm (s != t) m k (e - d)

/-- The integer square root of n below 2^k, bit by bit from bit k − 1 down, added to r. -/
def sqrtBits (n : Nat) : Nat → Nat → Nat
  | 0, r => r
  | k + 1, r => sqrtBits n k (if (r + 2 ^ k) * (r + 2 ^ k) ≤ n then r + 2 ^ k else r)

/-- The integer square root. -/
def natSqrt (n : Nat) : Nat := sqrtBits n (Nat.log2 n / 2 + 1) 0

/-- A number between r and r + 1, equal to r when exact, rounded: r is large enough that its low bits lie below the rounding bit. -/
def Fmt.roundSticky (f : Fmt) (rm : RM) (neg : Bool) (r : Nat) (exact : Bool) (e : Int) : Nat × Flags :=
  f.round rm neg (2 * r + (if exact then 0 else 1)) 1 (e - 1)

/-- √A (R159). -/
def Fmt.sqrt (f : Fmt) (rm : RM) (a : FVal) : Nat × Flags :=
  match a with
  | .nan _ => (f.nanBits, nvOf [a])
  | .inf false => (f.infBits, 0)
  | .inf true => (f.nanBits, fNV)
  | .fin n m e =>
    if m = 0 then (f.signBit n, 0)
    else if n then (f.nanBits, fNV)
    else
      let e' := e - (2 * f.mw + 8 : Nat) - (e % 2)
      let v := m * 2 ^ (e - e').toNat
      let r := natSqrt v
      f.roundSticky rm false r (r * r == v) (e' / 2)

/-- 1 / √A (R159). -/
def Fmt.rsqrt (f : Fmt) (rm : RM) (a : FVal) : Nat × Flags :=
  match a with
  | .nan _ => (f.nanBits, nvOf [a])
  | .inf false => (0, 0)
  | .inf true => (f.nanBits, fNV)
  | .fin n m e =>
    if m = 0 then (f.signBit n + f.infBits, fDZ)
    else if n then (f.nanBits, fNV)
    else
      let odd := e % 2
      let m' := m * 2 ^ odd.toNat
      let k := 2 * f.mw + 8 + Nat.log2 m'
      let v := 2 ^ (2 * k) / m'
      let r := natSqrt v
      f.roundSticky rm false r (r * r * m' == 2 ^ (2 * k)) (-(k : Int) - (e - odd) / 2)

/-- 1 / A (R159). -/
def Fmt.rcp (f : Fmt) (rm : RM) (a : FVal) : Nat × Flags := f.div rm (.fin false 1 0) a

/-! Logarithms and exponentials: fixed-point enclosures with P fraction bits, refined until both ends round alike. -/

/-- The sum of z^(2k+1)/(2k+1) for n terms in fixed point, t being the current power and z2 the square of z. -/
def atanhSum (p z2 : Nat) : Nat → Nat → Nat → Nat
  | 0, _, _ => 0
  | n + 1, k, t => t / (2 * k + 1) + atanhSum p z2 n (k + 1) (t * z2 / 2 ^ p)

/-- ln (num / den) for 1 ≤ num / den < 2, times 2^p: an enclosure. -/
def lnFix (p num den : Nat) : Int × Int :=
  if num = den then (0, 0)
  else
    let z := (num - den) * 2 ^ p / (num + den)
    let n := p / 3 + 2
    let s : Int := (2 * atanhSum p (z * z / 2 ^ p) n 0 z : Nat)
    let err : Int := (8 * n + 32 : Nat)
    (s - err, s + err)

/-- ln 2 times 2^p: an enclosure. -/
def ln2Fix (p : Nat) : Int × Int :=
  let z := 2 ^ p / 3
  let n := p / 3 + 2
  let s : Int := (2 * atanhSum p (z * z / 2 ^ p) n 0 z : Nat)
  let err : Int := (8 * n + 32 : Nat)
  (s - err, s + err)

/-- The division of integers rounded up. -/
def ceilDiv (a b : Int) : Int := -((-a) / b)

/-- ln (num / den × 2^0) or its base-2 logarithm, times 2^p: an enclosure. -/
def logFix (natural : Bool) (p num den : Nat) : Int × Int :=
  let k := floorLog2 num den
  let q := scaled num den (-k)
  let m := lnFix p q.1 q.2
  let l := ln2Fix p
  if natural then
    if 0 ≤ k then (k * l.1 + m.1, k * l.2 + m.2) else (k * l.2 + m.1, k * l.1 + m.2)
  else
    let lo := max 0 m.1
    (k * 2 ^ p + lo * 2 ^ p / l.2, k * 2 ^ p + ceilDiv (m.2 * 2 ^ p) l.1)

/-- An enclosure rounded, where both ends round alike. -/
def Fmt.roundEnclosure (f : Fmt) (rm : RM) (b : Int × Int) (e : Int) : Option (Nat × Flags) :=
  if b.1 = 0 || b.2 = 0 || (b.1 < 0) != (b.2 < 0) then none
  else
    let x := f.round rm (b.1 < 0) b.1.natAbs 1 e
    let y := f.round rm (b.2 < 0) b.2.natAbs 1 e
    if x.1 = y.1 then some (x.1, (x.2 &&& y.2) ||| fNX) else none

/-- The first refinement whose ends round alike; the fuel is never used up, because the value is irrational. -/
def refine (g : Nat → Option (Nat × Flags)) : Nat → Nat → Nat × Flags
  | 0, p => (g p).getD (0, fNX)
  | n + 1, p => match g p with
    | some r => r
    | none => refine g n (2 * p)

/-- The logarithm of a positive number other than the exact cases, rounded. -/
def Fmt.logRound (f : Fmt) (rm : RM) (natural : Bool) (num den : Nat) : Nat × Flags :=
  refine (fun p => f.roundEnclosure rm (logFix natural p num den) (-(p : Int))) 6 112

/-- log2 or ln of a positive rational, with its exact cases: powers of two, and 1 (R159, R184). -/
def Fmt.log (f : Fmt) (rm : RM) (natural : Bool) (num den : Nat) : Nat × Flags :=
  let k := floorLog2 num den
  let q := scaled num den (-k)
  if q.1 = q.2 && (!natural || k == 0) then f.ofExact rm (k < 0) k.natAbs 0
  else f.logRound rm natural num den

/-- FLOG2 and FLN (R159). -/
def Fmt.logVal (f : Fmt) (rm : RM) (natural : Bool) (a : FVal) : Nat × Flags :=
  match a with
  | .nan _ => (f.nanBits, nvOf [a])
  | .inf false => (f.infBits, 0)
  | .inf true => (f.nanBits, fNV)
  | .fin n m e =>
    if m = 0 then (f.signBit true + f.infBits, fDZ)
    else if n then (f.nanBits, fNV)
    else let p := scaled m 1 e; f.log rm natural p.1 p.2

/-- The sum of r^i / i! for n terms in fixed point, from the current term on. -/
def expSum (p : Nat) (r : Int) : Nat → Nat → Int → Int
  | 0, _, _ => 0
  | n + 1, i, t => t + expSum p r n (i + 1) (t * r / ((i + 1 : Nat) * 2 ^ p : Int))

/-- The exponential of (−1)^neg × m × 2^e, natural or base 2, as an enclosure times 2^(p − k) and k. -/
def expFix (natural : Bool) (p : Nat) (neg : Bool) (m : Nat) (e : Int) : (Int × Int) × Int :=
  let x : Int := let q := scaled m 1 (e + p); let v : Int := (q.1 / q.2 : Nat); if neg then -v else v
  let l := ln2Fix p
  let mid := (l.1 + l.2) / 2
  let lerr := (l.2 - l.1) / 2 + 1
  let n := p / 3 + 12
  if natural then
    let k := (2 * x + mid) / (2 * mid)
    let r := x - k * mid
    let s := expSum p r n 0 (2 ^ p)
    let err : Int := 4 * (n : Int) + 4 * ((k.natAbs : Int) + 1) * (lerr + 2)
    ((s - err, s + err), k)
  else
    let k := x / 2 ^ p
    let r := (x - k * 2 ^ p) * mid / 2 ^ p
    let s := expSum p r n 0 (2 ^ p)
    let err : Int := 4 * (n : Int) + 8 * (lerr + 2)
    ((s - err, s + err), k)

/-- FEXP2 and FEXP (R159). -/
def Fmt.expVal (f : Fmt) (rm : RM) (natural : Bool) (a : FVal) : Nat × Flags :=
  match a with
  | .nan _ => (f.nanBits, nvOf [a])
  | .inf false => (f.infBits, 0)
  | .inf true => (0, 0)
  | .fin n m e =>
    if m = 0 then f.round rm false 1 1 0
    else
      let ex := (Nat.log2 m : Int) + e
      if !natural && 0 ≤ e && ex < 16 then
        let k : Int := let v : Int := (m * 2 ^ e.toNat : Nat); if n then -v else v
        f.round rm false 1 1 k
      else if !natural && e < 0 && m % 2 ^ (-e).toNat = 0 && ex < 16 then
        let k : Int := let v : Int := (m / 2 ^ (-e).toNat : Nat); if n then -v else v
        f.round rm false 1 1 k
      else if 15 ≤ ex then
        if n then f.round rm false 3 1 (-5000) else f.round rm false 3 1 5000
      else
        refine (fun p => let r := expFix natural p n m e; f.roundEnclosure rm r.1 (r.2 - p)) 6
          (112 + (if ex < 0 then (-ex).toNat else 0))

/-! Comparisons, minimum and maximum. -/

/-- A < B, both no NaN: −0 equals +0. -/
def FVal.lt : FVal → FVal → Bool
  | .inf a, .inf b => a && !b
  | .inf a, .fin _ _ _ => a
  | .fin _ _ _, .inf b => !b
  | .fin s m e, .fin t k d => let u := min e d; decide (signedAt s m e u < signedAt t k d u)
  | _, _ => false

/-- A = B, both no NaN. -/
def FVal.eq (a b : FVal) : Bool := !a.isNan && !b.isNan && !a.lt b && !b.lt a

/-- The quiet equality, the signalling less-than and less-or-equal, and the unordered test (R156). -/
def fcmpEq (a b : FVal) : Bool × Flags := (a.eq b, nvOf [a, b])
def fcmpLt (a b : FVal) : Bool × Flags := (a.lt b, if a.isNan || b.isNan then fNV else 0)
def fcmpLe (a b : FVal) : Bool × Flags := (a.lt b || a.eq b, if a.isNan || b.isNan then fNV else 0)
def fcmpUn (a b : FVal) : Bool × Flags := (a.isNan || b.isNan, nvOf [a, b])

/-- Whether a datum carries a minus sign. -/
def FVal.sign : FVal → Bool
  | .inf n => n
  | .fin n _ _ => n
  | .nan _ => false

/-- minimumNumber and maximumNumber, −0 below +0 (R158). -/
def Fmt.minMax (f : Fmt) (wantMax : Bool) (a b : Nat) : Nat × Flags :=
  let x := f.decode a
  let y := f.decode b
  if x.isNan && y.isNan then (f.nanBits, nvOf [x, y])
  else if x.isNan then (b, nvOf [x])
  else if y.isNan then (a, nvOf [y])
  else
    let less := x.lt y || (x.eq y && x.sign && !y.sign)
    (if less != wantMax then a else b, 0)

/-! Integral values and conversions. -/

/-- A finite magnitude rounded to an integer by a mode: the integer and whether it differs. -/
def roundInt (rm : RM) (neg : Bool) (m : Nat) (e : Int) : Nat × Bool := roundAt rm neg m 1 e 0

/-- FRND (R162). -/
def Fmt.rint (f : Fmt) (rm : RM) (b : Nat) : Nat × Flags :=
  match f.decode b with
  | .nan s => (f.nanBits, if s then fNV else 0)
  | .inf _ => (b, 0)
  | .fin n m e => let r := roundInt rm n m e; ((f.ofExact rm n r.1 0).1, 0)

/-- A float converted to another format (R161). -/
def Fmt.convert (f : Fmt) (rm : RM) (v : FVal) : Nat × Flags :=
  match v with
  | .nan s => (f.nanBits, if s then fNV else 0)
  | .inf n => (f.signBit n + f.infBits, 0)
  | .fin n m e => f.ofExact rm n m e

/-- A float converted to an integer within lo and hi, saturating (R161). -/
def toIntSat (rm : RM) (lo hi : Int) (v : FVal) : Int × Flags :=
  match v with
  | .nan _ => (0, fNV)
  | .inf n => (if n then lo else hi, fNV)
  | .fin n m e =>
    let r := roundInt rm n m e
    let i : Int := if n then -(r.1 : Int) else r.1
    if i > hi then (hi, fNV) else if i < lo then (lo, fNV) else (i, if r.2 then fNX else 0)

end Sys2Proof.Machine
end

