-- ==== Sys2Proof/Machine/Flags.lean ====
section
/-!
DEFINITION. FPCTL and FPFLAGS (R144 to R146): the rounding mode in force, the flags that an instruction raises over its lanes, the
trap of an enabled flag, and the forms of the floating-point words.
-/
namespace Sys2Proof.Machine

/-- The rounding mode in force (R144). -/
def Gang.rm (g : Gang) : RM := field g.fpctl 0 2

/-- The enabled flags (R144). -/
def Gang.enables (g : Gang) : Flags := field g.fpctl 8 5

/-- The OR of the flags that the taking-part lanes raise (R142). -/
def orFlags (act : List Nat) (f : Nat → Flags) : Flags := act.foldl (fun x i => x ||| f i) 0

/-- The FPEXC trap where a lane raises an enabled flag (R146). -/
def Issue.fpTrap (c : Issue) (f : Nat → Flags) : Option Trap :=
  match c.act.filter fun i => f i &&& c.g.enables != 0 with
  | [] => none
  | ls => some { code := cFPEXC, arg := some ((orFlags c.act f).setWidth 64), lanes := some (maskOf ls) }

/-- The gang with flags added to FPFLAGS (R142). -/
def Gang.raiseFlags (g : Gang) (f : Flags) : Gang := { g with fpflags := g.fpflags ||| f.setWidth 32 }

/-- The form of the floating-point words: operand checks, then the trap of an enabled flag, then the change of each taking-part lane
and the flags. -/
def fpWord (i : Instr) (us : List (Use × Opnd)) (flags : Gang → Nat → Flags) (f : Gang → Nat → Lane → Lane) (s : State) : Outcome :=
  gangWord i s fun c =>
    match c.check us with
    | some t => .trap t
    | none => match c.fpTrap (flags c.g) with
      | some t => .trap t
      | none => .done (s.put c ((c.g.mapLanes c.act (f c.g)).raiseFlags (orFlags c.act (flags c.g))))

/-- The FP32 datum of a source operand in a lane. -/
def Gang.rF32 (g : Gang) (o : Opnd) (i : Nat) : FVal := f32.decode (g.r32 o i).toNat
/-- The FP64 datum of a source operand in a lane. -/
def Gang.rF64 (g : Gang) (o : Opnd) (i : Nat) : FVal := f64.decode (g.r64 o i).toNat

/-- A lane function of an FP32 result: bits and flags. -/
def fp32Word (i : Instr) (us : List (Use × Opnd)) (d : Opnd) (r : Gang → Nat → Nat × Flags) : State → Outcome :=
  fpWord i us (fun g k => (r g k).2) fun g k => g.res32 d (BitVec.ofNat 32 (r g k).1)

/-- A lane function of an FP64 result. -/
def fp64Word (i : Instr) (us : List (Use × Opnd)) (d : Opnd) (r : Gang → Nat → Nat × Flags) : State → Outcome :=
  fpWord i us (fun g k => (r g k).2) fun g k => g.res64 d (BitVec.ofNat 64 (r g k).1)

/-- A lane function of a predicate result. -/
def fpCmp (i : Instr) (us : List (Use × Opnd)) (d : Opnd) (r : Gang → Nat → Bool × Flags) : State → Outcome :=
  fpWord i us (fun g k => (r g k).2) fun g k => resPred d (r g k).1

/-- FP32 words of two sources. -/
def fbin32 (i : Instr) (d a b : Opnd) (f : RM → FVal → FVal → Nat × Flags) : State → Outcome :=
  fp32Word i [(.dst false, d), (.src false, a), (.src false, b)] d fun g k => f g.rm (g.rF32 a k) (g.rF32 b k)

/-- FP32 words of one source. -/
def fun32 (i : Instr) (d a : Opnd) (f : RM → FVal → Nat × Flags) : State → Outcome :=
  fp32Word i [(.dst false, d), (.src false, a)] d fun g k => f g.rm (g.rF32 a k)

/-- FP64 words of two sources. -/
def fbin64 (i : Instr) (d a b : Opnd) (f : RM → FVal → FVal → Nat × Flags) : State → Outcome :=
  fp64Word i [(.dst true, d), (.src true, a), (.src true, b)] d fun g k => f g.rm (g.rF64 a k) (g.rF64 b k)

/-- FP32 compares (R156). -/
def fcmp32 (i : Instr) (d a b : Opnd) (f : FVal → FVal → Bool × Flags) : State → Outcome :=
  fpCmp i [(.predDst, d), (.src false, a), (.src false, b)] d fun g k => f (g.rF32 a k) (g.rF32 b k)

/-- FP64 compares (R156). -/
def fcmp64 (i : Instr) (d a b : Opnd) (f : FVal → FVal → Bool × Flags) : State → Outcome :=
  fpCmp i [(.predDst, d), (.src true, a), (.src true, b)] d fun g k => f (g.rF64 a k) (g.rF64 b k)

end Sys2Proof.Machine
end

