-- ==== Sys2Proof/Machine/Shadow.lean ====
section
/-!
DEFINITION. Proposals (R122 to R124, R182 to R186).
-/
namespace Sys2Proof.Machine

/-- The first word of the open group in the register space. -/
def Proposal.base (p : Proposal) : Nat := p.gvb / 4 + p.vbase

/-- A lane whose part of the proposal is discarded (R124, R185): no poison bit moves (R257). -/
def Lane.discard (l : Lane) : Lane := { l with written := 0 }

/-- A lane that accepts: each written word's copies change roles, with their poison bits (R184, R257). -/
def Lane.accept (p : Proposal) (l : Lane) : Lane :=
  let l := (List.range p.n).foldl (fun (l : Lane) j =>
    let k := p.base + j
    if l.written.getLsbD j then
      { l with
        regs := tput l.regs k (tgetD l.shadow j 0)
        shadow := tput l.shadow j (tgetD l.regs k 0)
        poison := if l.shPoison.getLsbD j then (if l.poison.contains k then l.poison else k :: l.poison) else l.poison.filter (· != k)
        shPoison := setBit l.shPoison j (l.poison.contains k)
        bank := setBit l.bank j (!l.bank.getLsbD j) }
    else l) l
  l.discard

/-- SHBEGIN (R183): the whole gang's proposal over n words from VB + 4 × vbase. -/
def execShbegin (vbase : Opnd) (n : BitVec 8) (s : State) : Outcome :=
  gangWord (.shbegin vbase n) s fun c =>
    if c.g.proposal.isSome || c.g.inHandler then .trap shadowErr
    else if n = 0 || 16#8 < n || 0xE0#8 ≤ vbase || 224 < vbase.toNat + n.toNat
      || c.g.regBytes < c.g.vb.toNat + 4 * (vbase.toNat + n.toNat) then .trap illOpnd
    else
      let g := { c.g with
        proposal := some ⟨vbase.toNat, n.toNat, c.g.vb.toNat⟩
        lanes := c.g.lanes.map Lane.discard }
      .done (s.put c (g.dropLatch c.act))

/-- The threshold L of a uniform word (R184): the rounded logarithm of (B + 1/2) × 2^−32. -/
def acceptThreshold (natural : Bool) (b : Word) : FVal := f32.decode (f32.log 0 natural (2 * b.toNat + 1) (2 ^ 33)).1

/-- Whether a lane accepts (R184). -/
def accepts (natural : Bool) (x b : Word) : Bool :=
  let v := f32.decode x.toNat
  !v.isNan && !v.lt (acceptThreshold natural b)

/-- ACCEPT (R184). -/
def execAccept (d a b : Opnd) (natural : Bool) (s : State) : Outcome :=
  gangWord (.accept d a b natural) s fun c =>
    match c.g.proposal, c.g.inHandler with
    | some p, false =>
      match c.check [(.predDst, d), (.src false, a), (.src false, b)] with
      | some t => .trap t
      | none =>
        let acc := c.act.filter fun i => accepts natural (c.g.r32 a i) (c.g.r32 b i)
        let g := c.g.mapLanes c.act fun i l => resPred d (acc.contains i) (if acc.contains i then l.accept p else l)
        .done (s.put c { g with
          lanes := g.lanes.map Lane.discard
          proposal := none
          accn := g.accn + BitVec.ofNat 32 acc.length
          propn := g.propn + BitVec.ofNat 32 c.act.length })
    | _, _ => .trap shadowErr

/-- SHABORT (R185). -/
def execShabort (s : State) : Outcome :=
  gangWord .shabort s fun c =>
    if c.g.proposal.isNone || c.g.inHandler then .trap shadowErr
    else .done (s.put c ({ c.g with proposal := none, lanes := c.g.lanes.map Lane.discard }.dropLatch c.act))

/-- A group word as the gang itself would read it, and its poison bit (R185, R257). -/
def Gang.groupRead (g : Gang) (p : Proposal) (j i : Nat) : Word × Bool :=
  let l := g.lane i
  if l.written.getLsbD j then (tgetD l.shadow j 0, l.shPoison.getLsbD j)
  else (tgetD l.regs (p.base + j) 0, l.poison.contains (p.base + j))

/-- SHREAD (R185): A counts under the VB of SHBEGIN. -/
def execShread (d a : Opnd) (s : State) : Outcome :=
  gangWord (.shread d a) s fun c =>
    match c.g.proposal with
    | none => .trap shadowErr
    | some p =>
      if a.toNat < p.vbase || p.vbase + p.n ≤ a.toNat then .trap illOpnd
      else match c.check [(.dst false, d)] with
        | some t => .trap t
        | none =>
          let j := a.toNat - p.vbase
          match c.act.filter fun i => (c.g.groupRead p j i).2 with
          | [] => .done (s.put c (c.g.mapLanes c.act fun i l => c.g.res32 d (c.g.groupRead p j i).1 l))
          | ls => .trap { code := cPOISON, arg := some (BitVec.ofNat 64 (4 * (p.base + j))), lanes := some (maskOf ls) }

/-- ACCRD (R186). -/
def execAccrd (d : Opnd) (s : State) : Outcome :=
  laneWord (.accrd d) [(.dst true, d)] (fun g _ => g.res64 d (g.propn ++ g.accn)) s

/-- ACCCLR (R186). -/
def execAccclr (s : State) : Outcome :=
  gangWord .accclr s fun c => .done (s.put c ({ c.g with accn := 0, propn := 0 }.dropLatch c.act))

end Sys2Proof.Machine
end

