-- ==== Sys2Proof/Machine/Privileged.lean ====
section
/-!
DEFINITION. The privileged instructions (R191 to R198).
-/
namespace Sys2Proof.Machine

/-- The trap of an access of a privileged instruction, at the first address that fails (R191). -/
def State.imageTrap (s : State) (c : Issue) (va : DWord) (n : Nat) (write : Bool) (e : Nat × Nat) : Trap :=
  let bad := (pieces va.toNat n).find? fun p =>
    match s.access c.g.die c.g.ctx (BitVec.ofNat 64 p.1) write false with
    | .error _ => true
    | .ok _ => match s.readPiece c.g.die c.g.ctx false p with
      | .error _ => true
      | .ok _ => false
  { code := e.1
    cause := e.2
    arg := some (match bad with | some p => BitVec.ofNat 64 p.1 | none => va)
    place := some (va, n) }

/-- The end of a privileged instruction that writes an image: written at package scope, and no L1 line of it stands (R191, R208). -/
def State.storeImage (s : State) (c : Issue) (va : DWord) (bs : List Byte) : Fate :=
  match s.vwrite c.g.die c.g.ctx va bs with
  | .error e => .trap (s.imageTrap c va bs.length true e)
  | .ok s' => .done (((s'.countRange c.g.die c.g.ctx va bs.length).dropL1 c.g.core).dropLatch c)

/-- The trap of an image address that is not aligned. -/
def misaligned (c : Issue) (va : DWord) (n : Nat) : Option Trap :=
  if va.toNat % n = 0 then none else some { code := cMISALIGN, arg := some va, lanes := some (maskOf c.act) }

/-- The state item of an entry (R192, R194). -/
def Split.stateItem (sp : Split) : Nat :=
  1 + (if sp.incl then 2 + 16 * sp.widx else 0) + (if sp.mvalid then 256 * sp.midx + 8192 else 0)

/-- The entry of the interrupted table that TRAPSPLIT names. -/
def Gang.trapped (g : Gang) (h : Handler) : Option Split := h.splits.getD (bits g.trapSplit 0 2) none

/-- NSPLIT of the interrupted table (R194). -/
def Gang.nsplitOf (g : Gang) (h : Handler) : Nat := (h.splits.filter (·.isSome)).length + 65536 * g.ovf

/-- The lane takes part in the clause of its interrupted split (R403). -/
def Handler.partakes (h : Handler) (i : Nat) : Bool :=
  (match h.lanes[i]? with | some l => l.takes | none => false) && h.splits.any fun o => match o with
    | some sp => sp.incl && sp.mask.getLsbD i
    | none => false

/-- The header of a save image (R192). -/
def Gang.imageHeader (g : Gang) (h : Handler) : List Byte :=
  let sp := g.trapped h
  let entry (k : Nat) : List Byte := match h.splits.getD k none with
    | none => List.replicate 24 0
    | some sp => leBytes 8 sp.pc.toNat ++ leBytes 8 sp.mask.toNat ++ leBytes 8 sp.stateItem
  let params (k : Nat) : List Byte := match h.splits.getD k none with
    | none => List.replicate 8 0
    | some sp => leBytes 8 (if sp.mvalid then sp.mparams.toNat else 0)
  let clhdr : DWord := match sp with | none => 0 | some sp => if sp.incl then sp.header else sp.pc
  let clmask := match sp with
    | none => (0 : BitVec 64)
    | some sp => maskOf ((List.range g.width).filter fun i => sp.mask.getLsbD i && h.partakes i)
  leBytes 4 1 ++ leBytes 4 g.width ++ leBytes 4 g.regBytes ++ leBytes 4 g.vb.toNat ++ leBytes 4 g.tb.toNat ++ leBytes 4 g.ab.toNat
    ++ leBytes 4 g.fpctl.toNat ++ leBytes 4 g.fpflags.toNat ++ leBytes 4 g.fuseTmo.toNat ++ leBytes 4 g.batch.toNat
    ++ leBytes 4 g.wbatch.toNat ++ leBytes 4 (g.nsplitOf h)
    ++ (List.range 4).flatMap entry ++ leBytes 8 clhdr.toNat
    ++ leBytes 4 (match sp with | some sp => if sp.incl then sp.widx else 0 | none => 0) ++ leBytes 4 g.trapSplit.toNat
    ++ leBytes 8 clmask.toNat ++ leBytes 8 g.tvec.toNat ++ leBytes 8 g.trapPc.toNat ++ leBytes 8 g.trapArg.toNat
    ++ leBytes 4 g.trapCode.toNat ++ leBytes 4 g.placeReg.toNat ++ leBytes 8 g.trapMask.toNat
    ++ (List.range 16).flatMap (fun c => leBytes 1 (g.pending c)) ++ (List.range 4).flatMap params

/-- Lane j's record of a save image (R192): poisoned words as 0x7FC00000 (R257). -/
def Gang.imageLane (g : Gang) (h : Handler) (j : Nat) : List Byte :=
  let l := g.lane j
  let sv := h.lanes.getD j ⟨0, none, false⟩
  let word (k : Nat) : Word := if l.poison.contains k then 0x7FC00000 else tgetD l.regs k 0
  (List.range (g.regBytes / 4)).flatMap (fun k => leBytes 4 (word k).toNat)
    ++ (List.range 8).flatMap (fun k => leBytes 4 (tgetD l.ofile k 0).toNat)
    ++ leBytes 8 (sv.latch.getD 0).toNat
    ++ leBytes 4 (sv.latch.isSome.toNat + 2 * l.live.toNat + 4 * (h.partakes j).toNat)
    ++ leBytes 4 sv.preds.toNat ++ leBytes 8 l.rand.toNat ++ leBytes 8 0

/-- The size of a save image (R192). -/
def Gang.imageSize (g : Gang) : Nat := 256 + g.width * (g.regBytes + 64)

/-- XSAVE (R192). [DEDUCED, log entry 19] -/
def execXsave (a : Opnd) (s : State) : Outcome :=
  gangWord (.xsave a) s fun c =>
    match c.g.handler with
    | none => .trap illOpnd
    | some h => match c.one.check [(.src true, a)] with
      | some t => .trap t
      | none =>
        let va := c.g.r64 a c.low
        match misaligned c va 256 with
        | some t => .trap t
        | none =>
          if !c.g.drained then .wait (s.hold c .wait)
          else s.storeImage c va (c.g.imageHeader h ++ (List.range c.g.width).flatMap (c.g.imageLane h))

/-- What XRSTR asks of an image (R193). [DEDUCED, log entry 19] -/
def Gang.imageOk (g : Gang) (img : List Byte) : Bool :=
  fieldBytes img 0 4 == 1 && fieldBytes img 4 4 == g.width && fieldBytes img 8 4 == g.regBytes && zeroBytes img 208 16
    && (List.range 4).all (fun k => fieldBytes img (64 + 24 * k) 8 < 2 ^ 14)
    && (List.range g.width).all fun j =>
      let b := 256 + j * (g.regBytes + 64) + g.regBytes
      zeroBytes img (b + 56) 8 && fieldBytes img (b + 44) 4 < 256 && fieldBytes img (b + 40) 4 < 8

/-- An entry of the interrupted table from an image (R192, R403). -/
def imageSplit (img : List Byte) (k : Nat) : Option Split :=
  let st := BitVec.ofNat 64 (fieldBytes img (64 + 24 * k) 8)
  if !bit st 0 then none
  else
    let sp := headerAt (BitVec.ofNat 64 (fieldBytes img (48 + 24 * k) 8)) (BitVec.ofNat 64 (fieldBytes img (56 + 24 * k) 8))
    some { sp with
      incl := bit st 1
      widx := if bit st 1 then bits st 4 4 else 0
      mvalid := bit st 13
      midx := if bit st 13 then bits st 8 5 else 0
      mparams := if bit st 13 then BitVec.ofNat 64 (fieldBytes img (224 + 8 * k) 8) else 0 }

/-- A lane from its record (R192): the committed copies of group words are written, and no poison bit is set (R257). -/
def imageLaneIn (img : List Byte) (b n : Nat) (l : Lane) : Lane × SavedLane :=
  let w (o : Nat) : Word := BitVec.ofNat 32 (fieldBytes img (b + o) 4)
  let flags := w (n + 40)
  let regs := (List.range (n / 4)).foldl (fun t k => tput t k (w (4 * k))) l.regs
  let ofile := (List.range 8).foldl (fun t k => tput t k (w (n + 4 * k))) l.ofile
  ({ l with regs := regs, poison := [], ofile := ofile, live := bit flags 1, rand := BitVec.ofNat 64 (fieldBytes img (b + n + 48) 8) },
   ⟨field (w (n + 44)) 0 8, if bit flags 0 then some (BitVec.ofNat 64 (fieldBytes img (b + n + 32) 8)) else none, bit flags 2⟩)

/-- The gang with an image installed as its interrupted state (R193). [DEDUCED, log entry 19] -/
def Gang.install (g : Gang) (h : Handler) (img : List Byte) : Gang :=
  let w (o : Nat) : Word := BitVec.ofNat 32 (fieldBytes img o 4)
  let d (o : Nat) : DWord := BitVec.ofNat 64 (fieldBytes img o 8)
  let lanes := g.lanes.zipIdx.map fun (p : Lane × Nat) => imageLaneIn img (256 + p.2 * (g.regBytes + 64)) g.regBytes p.1
  let splits := (List.range 4).map (imageSplit img)
  { g with
    vb := w 12
    tb := w 16
    ab := w 20
    fpctl := fpctlOf (w 24)
    fpflags := fpflagsOf (w 28)
    fuseTmo := w 32
    batch := w 36
    wbatch := w 40
    ovf := bits (w 44) 16 16
    trapSplit := trapSplitOf (w 156)
    tvec := d 168 &&& ~~~3#64
    trapPc := d (48 + 24 * bits (w 156) 0 2)
    trapArg := d 184
    trapCode := trapCodeOf (w 192)
    trapMask := d 200
    lanes := lanes.map (·.1)
    handler := some { h with splits := splits, lanes := lanes.map (·.2), staged := [] } }

/-- XRSTR (R193). [DEDUCED, log entry 19] -/
def execXrstr (a : Opnd) (s : State) : Outcome :=
  gangWord (.xrstr a) s fun c =>
    match c.g.handler with
    | none => .trap illOpnd
    | some h => match c.one.check [(.src true, a)] with
      | some t => .trap t
      | none =>
        let va := c.g.r64 a c.low
        match misaligned c va 256 with
        | some t => .trap t
        | none => match s.vread c.g.die c.g.ctx va c.g.imageSize with
          | .error e => .trap (s.imageTrap c va c.g.imageSize false e)
          | .ok img =>
            if c.g.imageOk img then .done (((s.countRange c.g.die c.g.ctx va c.g.imageSize).put c (c.g.install h img)).dropLatch c) else .trap illOpnd

/-- What an entry of the interrupted table holds: a free entry holds what SPLWR has written (R194). -/
def Handler.entry (h : Handler) (k : Nat) : DWord × BitVec 64 × Nat :=
  match h.splits.getD k none with
  | some sp => (sp.pc, sp.mask, sp.stateItem)
  | none => let x := tgetD h.staged k (0, 0); (x.1, x.2, 0)

/-- SPLRD (R194): the selector is the lowest taking-part lane's. [DESIGN CHOICE, log entry 19] -/
def execSplrd (d a : Opnd) (s : State) : Outcome :=
  gangWord (.splrd d a) s fun c =>
    match c.g.handler with
    | none => .trap illOpnd
    | some h => match (c.check [(.dst true, d)]).or (c.one.check [(.src false, a)]) with
      | some t => .trap t
      | none =>
        let sel := c.g.r32 a c.low
        if field sel 4 28 != 0 then .trap illOpnd
        else
          let e := h.entry (bits sel 0 2)
          let v : DWord := match bits sel 2 2 with
            | 0 => e.1
            | 1 => e.2.1
            | 2 => BitVec.ofNat 64 e.2.2
            | _ => BitVec.ofNat 64 (c.g.nsplitOf h)
          .done (s.put c (c.g.mapLanes c.act fun _ => c.g.res64 d v))

/-- The gang with an item of an interrupted entry written (R194). -/
def Gang.setItem (g : Gang) (h : Handler) (k item : Nat) (v : DWord) : Gang :=
  let set (o : Option Split) (x : DWord × BitVec 64) : Gang :=
    { g with handler := some { h with splits := h.splits.set k o, staged := tput h.staged k x } }
  let e := h.entry k
  match item, h.splits.getD k none with
  | 0, some sp =>
    let g := set (some (headerAt v sp.mask)) (v, sp.mask)
    if k = bits g.trapSplit 0 2 then { g with trapPc := v, trapSplit := setBit g.trapSplit 4 false } else g
  | 0, none =>
    let g := set none (v, e.2.1)
    if k = bits g.trapSplit 0 2 then { g with trapPc := v, trapSplit := setBit g.trapSplit 4 false } else g
  | 1, some sp => set (some { sp with mask := v }) (sp.pc, v)
  | 1, none => set none (e.1, v)
  | _, some sp => if bit v 0 then g else set none (sp.pc, sp.mask)
  | _, none => if bit v 0 then set (some (headerAt e.1 e.2.1)) (e.1, e.2.1) else g

/-- SPLWR (R194). [DEDUCED, log entry 19] The selector and the value are the lowest taking-part lane's. [DESIGN CHOICE, log entry 19] -/
def execSplwr (a b : Opnd) (s : State) : Outcome :=
  gangWord (.splwr a b) s fun c =>
    match c.g.handler with
    | none => .trap illOpnd
    | some h => match c.one.check [(.src false, a), (.src true, b)] with
      | some t => .trap t
      | none =>
        let sel := c.g.r32 a c.low
        let v := c.g.r64 b c.low
        let item := bits sel 2 2
        if field sel 4 28 != 0 || item == 3 then .trap illOpnd
        else if item = 0 ∧ field v 0 2 ≠ 0 then
          .trap { code := cMISALIGN, arg := some v, lanes := some (maskOf c.act) }
        else .done ((s.put c (c.g.setItem h (bits sel 0 2) item v)).dropLatch c)

/-- A lane with the bytes of an asynchronous operation landed at their destination (R36, R201): a byte or half zero-extends. -/
def Gang.land (g : Gang) (d : Dest) (bs : List Byte) (l : Lane) : Lane :=
  let bs := if bs.length < 4 then (bs ++ [0, 0, 0, 0]).take 4 else bs
  match d with
  | .none => l
  | .file k => { l with
      ofile := (List.range (bs.length / 4)).foldl (fun t j => tput t (k + j) (BitVec.ofNat 32 (fieldBytes bs (4 * j) 4))) l.ofile }
  | .reg umbra off => g.writeBytes l umbra true off bs

/-- The low n bytes of the registers from A upward in a lane (R195). -/
def Gang.regBytesFrom (g : Gang) (a : Opnd) (n i : Nat) : List Byte :=
  ((List.range ((n + 3) / 4)).flatMap fun j => leBytes 4 (g.r32 (a + BitVec.ofNat 8 j) i).toNat).take n

/-- Whether n bytes of registers from A upward may be read. -/
def Gang.regsOk (g : Gang) (a : Opnd) (n : Nat) : Bool :=
  let k := a.toNat + (n + 3) / 4
  if a < 0xE0#8 then decide (k ≤ 224) && (g.place g.vbNow (4 * a.toNat) (4 * ((n + 3) / 4))).isSome else decide (k ≤ 0xE8)

/-- REPLV (R195): replacement values for the lanes of a load that failed with MEMUE cause 1 or 2; with the last of them the load is complete, and its
counter falls by 1: once, however often the handler executes the word. [DEDUCED, log entry 14] -/
def execReplv (a : Opnd) (s : State) : Outcome :=
  gangWord (.replv a) s fun c =>
    match c.g.handler with
    | none => .trap illOpnd
    | some h => match h.failure with
      | none => .trap illOpnd
      | some f => match f.repl with
        | none => .trap illOpnd
        | some (dest, n) =>
          if bits c.g.trapCode 0 8 ≠ cMEMUE || (bits c.g.trapCode 8 8 != 1 && bits c.g.trapCode 8 8 != 2) || !c.g.regsOk a n then .trap illOpnd
          else
            let ls := c.act.filter fun i => c.g.trapMask.getLsbD i
            match c.g.poisonAt ls a ((n + 3) / 4) with
            | some p => .trap { code := cPOISON, arg := some (BitVec.ofNat 64 p.1), lanes := some (maskOf p.2) }
            | none =>
              let g := c.g.mapLanes ls fun i => c.g.land dest (c.g.regBytesFrom a n i)
              let left := f.mask &&& ~~~maskOf ls
              let f' := { f with mask := left }
              let g := { g with
                failures := if left = 0 then g.failures.erase f else g.failures.map fun x => if x = f then f' else x
                handler := some { h with failure := some f' } }
              let whole : Bool := f.mask != 0 && left == 0 && !(g.failures.any fun x => x.op == f.op && x.repl.isSome)
              let g := if whole && f.counted then g.setCtr f.ctr (g.outstanding f.ctr - 1) else g
              .done ((s.put c g).dropLatch c)

/-- The machine with the translations of a context, or of one of its addresses, gone from every TLB (R196). -/
def State.dropTlb (s : State) (ctx : Nat) (va : Option DWord) : State :=
  (List.range 8).foldl (fun s k =>
    let d := s.die k
    s.setDie k { d with tlb := d.tlb.filter fun x => match va with
      | none => x.1 / 2 ^ 60 != ctx
      | some a => x.1 != tlbKey ctx 2 a && x.1 != tlbKey ctx 3 a && x.1 != tlbKey ctx 4 a }) s

/-- TLBINV (R196): the kind is the lowest taking-part lane's. [DESIGN CHOICE, log entry 19] -/
def execTlbinv (a b : Opnd) (s : State) : Outcome :=
  gangWord (.tlbinv a b) s fun c =>
    match c.one.check [(.src true, a), (.src false, b)] with
    | some t => .trap t
    | none =>
      let kind := c.g.r32 b c.low
      if 1 < kind then .trap illOpnd
      else .done ((s.dropTlb c.g.ctx (if kind = 0 then some (c.g.r64 a c.low) else none)).dropLatch c)

/-- A copy's word in the shadow image: a poisoned word as 0x7FC00000 (R257). [DESIGN CHOICE, log entry 42] -/
def shWord (poison : Bool) (v : Word) : Word := if poison then 0x7FC00000 else v

/-- Lane j's record of a shadow image (R197): the copies are ordered by the bank bits. A copy of a word that is in no group holds
no stated value (log entry 42). [DESIGN CHOICE, log entry 42] -/
def Gang.shadowLane (g : Gang) (free : Nat → DWord) (j : Nat) : List Byte :=
  let l := g.lane j
  let copies (k : Nat) : Word × Word := match g.proposal with
    | some p =>
      if k < p.n then
        let w := p.base + k
        let com := shWord (l.poison.contains w) (tgetD l.regs w 0)
        let unc := shWord (l.shPoison.getLsbD k) (tgetD l.shadow k 0)
        if l.bank.getLsbD k then (unc, com) else (com, unc)
      else (field (free (32 * j + k)) 0 32, field (free (32 * j + 16 + k)) 0 32)
    | none => (field (free (32 * j + k)) 0 32, field (free (32 * j + 16 + k)) 0 32)
  (List.range 16).flatMap (fun k => leBytes 4 (copies k).1.toNat) ++ (List.range 16).flatMap (fun k => leBytes 4 (copies k).2.toNat)
    ++ leBytes 4 l.bank.toNat ++ leBytes 4 l.written.toNat ++ List.replicate 24 0

/-- SHSAVE (R197): GVB is no stated value where no proposal is open (log entry 42). [DESIGN CHOICE, log entry 42] -/
def execShsave (a : Opnd) (s : State) : Outcome :=
  gangWord (.shsave a) s fun c =>
    match c.g.handler with
    | none => .trap illOpnd
    | some _ => match c.one.check [(.src true, a)] with
      | some t => .trap t
      | none =>
        let va := c.g.r64 a c.low
        match misaligned c va 64 with
        | some t => .trap t
        | none =>
          let state := match c.g.proposal with
            | none => 0
            | some p => 65536 * p.vbase + 2 ^ 24 * p.n + 2 ^ 31
          let free (n : Nat) : DWord := Config.freeValue (s.steps * 2 ^ 16 + n)
          let gvb := match c.g.proposal with | none => (field (free 4096) 0 32).toNat | some p => p.gvb
          s.storeImage c va (leBytes 4 state ++ leBytes 4 gvb ++ leBytes 4 c.g.accn.toNat ++ leBytes 4 c.g.propn.toNat
            ++ leBytes 4 c.g.width ++ List.replicate 44 0
            ++ (List.range c.g.width).flatMap (c.g.shadowLane free))

/-- What SHRSTR asks of an image (R197). -/
def Gang.shadowOk (g : Gang) (img : List Byte) : Bool :=
  fieldBytes img 16 4 == g.width && zeroBytes img 20 44 && (List.range g.width).all fun j => zeroBytes img (64 + 160 * j + 136) 24

/-- A lane with its shadow bank restored (R197), with no poison bit set in what is written (R257). -/
def shadowLaneIn (img : List Byte) (p : Option Proposal) (b : Nat) (l : Lane) : Lane :=
  let w (o : Nat) : Word := BitVec.ofNat 32 (fieldBytes img (b + o) 4)
  let bank : BitVec 16 := field (w 128) 0 16
  let l := { l with bank := bank, written := field (w 132) 0 16, shPoison := 0 }
  match p with
  | none => l
  | some p => (List.range p.n).foldl (fun l k =>
      let c0 := w (4 * k)
      let c1 := w (64 + 4 * k)
      let x := p.base + k
      { l with
        regs := tput l.regs x (if bank.getLsbD k then c1 else c0)
        shadow := tput l.shadow k (if bank.getLsbD k then c0 else c1)
        poison := l.poison.filter (· != x) }) l

/-- SHRSTR (R197). -/
def execShrstr (a : Opnd) (s : State) : Outcome :=
  gangWord (.shrstr a) s fun c =>
    match c.g.handler with
    | none => .trap illOpnd
    | some _ => match c.one.check [(.src true, a)] with
      | some t => .trap t
      | none =>
        let va := c.g.r64 a c.low
        let n := 64 + c.g.width * 160
        if c.g.proposal.isSome then .trap shadowErr
        else match misaligned c va 64 with
          | some t => .trap t
          | none => match s.vread c.g.die c.g.ctx va n with
            | .error e => .trap (s.imageTrap c va n false e)
            | .ok img =>
              if !c.g.shadowOk img then .trap illOpnd
              else
                let st := BitVec.ofNat 32 (fieldBytes img 0 4)
                let p : Option Proposal := if bit st 31 then some ⟨bits st 16 8, bits st 24 5, fieldBytes img 4 4⟩ else none
                let g := { c.g with
                  proposal := p
                  accn := BitVec.ofNat 32 (fieldBytes img 8 4)
                  propn := BitVec.ofNat 32 (fieldBytes img 12 4)
                  lanes := c.g.lanes.zipIdx.map fun (x : Lane × Nat) => shadowLaneIn img p (64 + 160 * x.2) x.1 }
                .done (((s.countRange c.g.die c.g.ctx va n).put c g).dropLatch c)

/-- The words of entry e of a control-store image (R198). -/
def imageEntry (img : List Byte) (e : Nat) : List Word :=
  (leWords 4 (fieldBytes img (132 * e) 4) (img.drop (132 * e + 4))).map (BitVec.ofNat 32)

/-- Whether every entry of a control-store image has a length of 32 or less (R198). -/
def entriesOk (img : List Byte) (n : Nat) : Bool := (List.range n).all fun e => fieldBytes img (132 * e) 4 ≤ 32

/-- MSTORE (R198): each entry replaces its predecessor whole; the range of entries is the lowest taking-part lane's. [DESIGN CHOICE, log entry 19] -/
def execMstore (a b : Opnd) (s : State) : Outcome :=
  gangWord (.mstore a b) s fun c =>
    match c.one.check [(.src true, a), (.src false, b)] with
    | some t => .trap t
    | none =>
      let va := c.g.r64 a c.low
      let r := c.g.r32 b c.low
      let f := bits r 0 8
      let n := if bits r 8 8 = 0 then 256 else bits r 8 8
      if field r 16 16 != 0 || 256 < f + n then .trap illOpnd
      else match misaligned c va 4 with
        | some t => .trap t
        | none => match s.vread c.g.die c.g.ctx va (132 * n) with
          | .error e => .trap (s.imageTrap c va (132 * n) false e)
          | .ok img =>
            if !entriesOk img n then .trap illOpnd
            else
              let core := s.core c.g.core
              let store := (List.range n).foldl (fun t e => tput t (f + e) (imageEntry img e)) core.control
              .done (((s.countRange c.g.die c.g.ctx va (132 * n)).setCore c.g.core { core with control := store }).dropLatch c)

end Sys2Proof.Machine
end

