-- ==== Sys2Proof/Machine/Access.lean ====
section
/-!
DEFINITION. Asynchronous gang accesses (R199 to R202): translation and held faults (R214 to R217), the order in which they leave the
core (R56, R60, R61), their packets (R312, R313), replies, completion and the landing of their data (R36, R202).
-/
namespace Sys2Proof.Machine

/-- Whether an access returns data to its lane. -/
def AccKind.reads : AccKind → Bool
  | .store | .rel | .mbinit | .mbarv | .pref => false
  | _ => true

/-- ACCESS of a fault record (R216). -/
def AccKind.code : AccKind → Nat
  | .load | .pref => 0
  | .atomic _ => 2
  | .fadd => 3
  | .cas => 4
  | .acq => 5
  | .rel => 6
  | _ => 1

/-- A part that is neither performed nor failed. -/
def Part.isOpen (p : Part) : Bool :=
  match p.st with
  | .done _ | .failed _ _ _ => false
  | _ => true

/-- A part that waits to be sent. -/
def Part.isReady (p : Part) : Bool := p.st == .ready
def Part.isHeld (p : Part) : Bool := match p.st with | .held _ _ _ => true | _ => false

/-- The accesses of a job. -/
def Job.parts : Job → List Part
  | .access a => a.parts
  | .token _ _ _ p _ => [p]
  | .coll _ _ _ _ p _ => [p]
  | _ => []

/-- A part translated (R214 to R217): its physical place, or held. [DEDUCED, log entry 27] -/
def State.resolve (s : State) (die ctx : Nat) (k : AccKind) (p : Part) : Part :=
  match s.walk die ctx p.va with
  | .bad cause level => { p with st := .held cause 0 level }
  | .leaf e level =>
    let pa := physOf e level p.va
    if k.writes && !bit e 1 then { p with st := .held 3 0 level }
    else if bit e 7 && (s.keyFor (bits e 56 8) pa).isNone then { p with st := .held 6 0 0 }
    else
      let p := { p with
        pa := pa
        key := if bit e 7 then some (field e 56 8) else none
        aper := bits e 8 3
        counted := bit e 6
        st := .ready }
      if bits e 8 3 ≠ 1 then p
      else match s.tokenRule (s.attachFor die (stackOf (pa % 2 ^ 44))) e pa k with
        | .error cause => { p with st := .held cause 0 0 }
        | .ok cached => { p with peerCached := cached }

/-- The range of addresses that the entry at which a walk stopped covers, as a number of its size (R216). [DEDUCED, log entry 46] -/
def State.faultPage (s : State) (die ctx : Nat) (va : DWord) : Nat :=
  match s.walk die ctx va with
  | .leaf _ level => va.toNat / 2 ^ pageShift level
  | .bad _ level => va.toNat / 2 ^ (if level = 1 then 39 else if level = 2 then 30 else if level = 3 then 21 else 16)

/-- The bytes of a fault record (R216). -/
def faultBytes (g : Gang) (seq : Word) (va : DWord) (mask : BitVec 64) (cause access level : Nat) : List Byte :=
  leBytes 2 0 ++ leBytes 1 level ++ leBytes 1 access ++ leBytes 1 cause ++ leBytes 1 g.id ++ leBytes 1 (coreNum g.core)
    ++ leBytes 1 (16 + g.die) ++ leBytes 4 g.launch.toNat ++ leBytes 4 seq.toNat ++ leBytes 8 mask.toNat ++ leBytes 8 va.toNat

/-- The cause and level of a part that has just been held. -/
def Part.heldAs (p : Part) : Option (Nat × Nat) := match p.st with | .held c _ l => some (c, l) | _ => none

/-- The parts that an instruction has just had held, with one fault record for each page (R216). -/
def State.recordFaults (s : State) (g : Gang) (access : Nat) (ps : List Part) : State × List Part :=
  let key (p : Part) : Option (Nat × Nat × Nat) := p.heldAs.map fun x => (x.1, x.2, s.faultPage g.die g.ctx p.va)
  let keys := (ps.filterMap key).eraseDups
  let base := (s.die g.die).faultSeq
  let s' := keys.foldl (fun (t : State) k =>
    let mine := ps.filter fun p => key p == some k
    let va := match mine with | p :: _ => p.va | [] => 0
    (t.faultRecord g.die g.ctx (faultBytes g (t.die g.die).faultSeq va (maskOf (mine.map (·.lane))) k.1 access k.2.1)).nextSeq g.die) s
  (s', ps.map fun p => match key p with
    | none => p
    | some k => { p with st := .held k.1 (base + BitVec.ofNat 32 (keys.idxOf k)).toNat k.2.1 })

/-- Parts translated, with the fault records of those that are held; PREFG drops them instead (R209, R216). -/
def State.translateParts (s : State) (g : Gang) (k : AccKind) (ps : List Part) : State × List Part :=
  let s := ps.foldl (fun t p => t.fillTlb g.die g.ctx p.va) s
  let ps := ps.map (s.resolve g.die g.ctx k)
  if k == .pref then (s, ps.map fun p => if p.isHeld then { p with st := .done 0 } else p)
  else s.recordFaults g k.code ps

/-- An atomic operator on n-byte values: the table of R211, and 10 for compare-and-swap (R206, R212). -/
def atomicOp (n : Nat) (rm : RM) (op old data cmp : Nat) : Nat :=
  let m := 2 ^ (8 * n)
  let a := BitVec.ofNat (8 * n) old
  let b := BitVec.ofNat (8 * n) data
  match op with
  | 1 => if n = 8 then (f64.sum rm [f64.decode old, f64.decode data]).1 else (f32.sum rm [f32.decode old, f32.decode data]).1
  | 2 => if a.slt b then old else data
  | 3 => if a.slt b then data else old
  | 4 => min old data
  | 5 => max old data
  | 6 => (a &&& b).toNat
  | 7 => (a ||| b).toNat
  | 8 => (a ^^^ b).toNat
  | 9 => data
  | 10 => if old = cmp then data else old
  | _ => (old + data) % m

/-- A memory barrier word with its fields (R227). -/
def barWord (phase expect pending : Nat) : Nat := 2 ^ 63 + phase * 2 ^ 48 + expect * 2 ^ 32 + pending

/-- An arrival of c on a memory barrier word (R227). -/
def barArrival (w c : Nat) : Nat :=
  let phase := w / 2 ^ 48 % 2 ^ 15
  let expect := w / 2 ^ 32 % 2 ^ 16
  let pending := w % 2 ^ 32
  if w / 2 ^ 63 % 2 = 0 then w
  else if pending ≤ c then barWord ((phase + 1) % 2 ^ 15) expect expect
  else barWord phase expect (pending - c)

/-- What a part of an access does to the bytes at a place of the memory list, and the value it returns (R203, R206, R207, R227). -/
def Mem.perform (m : Mem) (a : Access) (k : Nat) (p : Part) : Mem × Nat :=
  let old := m.readNat k p.len
  match a.kind with
  | .load | .acq | .pref => (m, old)
  | .store | .rel => (m.writeNat k p.len p.data, 0)
  | .atomic op => (m.writeNat k p.len (atomicOp p.len a.rm op old p.data p.cmp), old)
  | .fadd => (m.writeNat k p.len ((old + p.data) % 2 ^ (8 * p.len)), old)
  | .cas => (m.writeNat k p.len (if old = p.cmp then p.data else old), old)
  | .ring n logs logn =>
    (if p.cmp + 1 = n then m.writeNat k 4 ((old + n) % 2 ^ 32) else m,
      (p.data + ((old + p.cmp) % 2 ^ logn) * 2 ^ logs) % 2 ^ 32)
  | .mbinit =>
    let e := p.data % 2 ^ 16
    ((m.setTag k (e != 0)).writeNat k 8 (if e = 0 then 0 else barWord 0 e e), 0)
  | .mbarv => (m.writeNat k 8 (barArrival old (p.data % 2 ^ 32)), 0)

/-- Whether a barrier tag refuses an access's write (R228). -/
def AccKind.refused (k : AccKind) (m : Mem) (a n : Nat) : Bool :=
  match k with
  | .mbinit | .mbarv => false
  | _ => k.writes && m.touchesTag a n

/-- The virtual address of the first tagged word that n bytes at a place touch, the access being at a virtual address (R228). -/
def Mem.tagAddr (m : Mem) (k n : Nat) (va : DWord) : DWord :=
  match (m.tags.filter fun t => t * 8 < k + n && k < t * 8 + 8) with
  | [] => va
  | t :: ts => va + BitVec.ofNat 64 (ts.foldl min t * 8) - BitVec.ofNat 64 k

/-- A line of team memory or of a scratchpad found uncorrectable (R91, R394): it ends the context that a valid owner tag names, with
SEV 2; otherwise the error is logged with SEV 1. The line is rewritten as zero with its owner tag not valid. [DEDUCED, log entry 28] -/
def State.foundBad (s : State) (sock a : Nat) : State :=
  let line := a / 64 * 64
  let owner := tget s.mem.owners (a / 64)
  let s := { s with mem := s.mem.wipe line (line + 64) }
  match owner.filter fun c => (s.ctxRec (sock - 16) c).valid with
  | some c => (s.errlog sock 0xFF 2 8 (cMEMUE + 256 * 5) (s.ctxid c).toNat line).endContext c 1 (cMEMUE + 256 * 5)
  | none => s.errlog sock 0xFF 1 8 (cMEMUE + 256 * 5) 0 line

/-- Accesses whose parts are performed at the core or its die's array directly: team memory, and barrier words (R203, R227). -/
def Access.direct (a : Access) : Bool := a.space == .team || a.kind == .mbinit || a.kind == .mbarv

/-- The place of the memory list of a part. -/
def Part.memAt (s : State) (p : Part) : Nat :=
  if p.aper = 2 then hostKey p.pa else if p.pa / 2 ^ 44 = s.pkg.id then p.pa % 2 ^ 44 else peerKey p.pa

/-- A line gone from a core's L1, where it is to be no older than what the core has read or written (R56, R59). -/
def State.dropLine (s : State) (core k : Nat) : State :=
  let c := s.core core
  let s := s.staled core fun q => q.memAt s / 64 == k / 64
  if (tget c.l1 (k / 64)).isNone then s else s.setCore core { c with l1 := tdel c.l1 (k / 64) }

/-- A direct part performed. -/
def State.performDirect (s : State) (core ctx : Nat) (a : Access) (p : Part) : State × Part :=
  let k := p.pa % 2 ^ 44
  let sock := 16 + coreDie core
  let s := s.dropLine core k
  if s.mem.isBad k then (s.foundBad sock k, { p with st := .failed cMEMUE 5 p.va })
  else if a.kind.refused s.mem k p.len then (s, { p with st := .failed cBARCLOB 0 (s.mem.tagAddr k p.len p.va) })
  else
    let r := s.mem.perform a k p
    let mem := match apertureOf k with
      | .pad _ _ => r.1.own k (some ctx)
      | _ => r.1
    ({ s with mem := mem }, { p with st := .done r.2 })

/-- A request of a compute die sent into the fabric (R10, R307); one to host memory goes to I/O die 0 (R215), one to the die's own
scratchpad window straight to its array (R204). -/
def State.inject (s : State) (k : Nat) (own : Bool) (p : Packet) : State :=
  if own then s.push [.memoryRequest (16 + k) p]
  else if p.dsock = 24 then s.push [.memoryRequest 24 p]
  else
    let t := s.attachFor k (s.entryStack (p.addr.toNat % 2 ^ 44))
    s.push [.routerPacketArrive t (clientPort k) p]

/-- Whether a part is a line of a sealed page that its attaching base die works on (R324, R325): every one but a peer's that the package's cache holds
under a token, with its tag, where the cache's base die does. [DEDUCED, log entry 28] -/
def Part.sealedAway (s : State) (p : Part) : Bool := p.key.isSome && p.aper != 2 && !(p.peerCached && (tget s.mem.cached (p.pa / 64)).isSome)

/-- A peer line held in the package's cache (R217, R322). -/
def State.peerLine (s : State) (pa : Nat) : Bool := (tget s.mem.cached (pa / 64)).isSome

/-- The header of a request for a part of an access (R312). [DESIGN CHOICE, log entry 25] -/
def State.header (s : State) (g : Gang) (op : Nat) (a : Access) (p : Part) (addr : Nat) : Packet :=
  let peer := p.aper = 1
  let local_ := p.peerCached && s.peerLine p.pa
  { addr := BitVec.ofNat 56 addr
    tag := BitVec.ofNat 32 op
    part := (s.ctx g.ctx).partid
    spkg := BitVec.ofNat 12 s.pkg.id
    ssock := BitVec.ofNat 5 (16 + g.die)
    dpkg := if peer && !local_ then BitVec.ofNat 12 (p.pa / 2 ^ 44) else BitVec.ofNat 12 s.pkg.id
    dsock := if p.aper = 2 then 24 else if peer && local_ then BitVec.ofNat 5 (stackOf (p.pa % 2 ^ 44)) else BitVec.ofNat 5 (sockOf (p.pa % 2 ^ 44))
    lat := a.lat
    ord := a.ord == 1
    size := BitVec.ofNat 3 a.size
    key := p.key
    ctx := some (BitVec.ofNat 8 g.ctx) }

/-- A line of parts stored, in ascending lane order, and its byte mask (R54, R55). -/
def mergeStores (ps : List Part) : List Byte × BitVec 64 :=
  ps.foldl (fun (x : List Byte × BitVec 64) p =>
    let off := p.pa % 64
    (patchBytes x.1 off (leBytes p.len p.data), (List.range p.len).foldl (fun m j => setBit m (off + j) true) x.2))
    (List.replicate 64 0, 0)

/-- A leaf entry of a combining request (R318). -/
def leafEntry (pkg sock tag : Nat) : DWord := BitVec.ofNat 64 (pkg * 2 ^ 52 + sock * 2 ^ 47 + tag)

/-- The packets of one element's group of an atomic, each with as many operands as fit its 96 payload bytes (R313). -/
def atomPackets (h : Packet) (per : Nat) (opnds : List Nat) (word : Nat) : List Packet :=
  let n := (opnds.length + per - 1) / per
  (List.range n).map fun i =>
    let mine := (opnds.drop (i * per)).take per
    let bytes := mine.flatMap (leBytes word)
    { h with
      gidx := BitVec.ofNat 4 i
      gcnt := BitVec.ofNat 5 n
      nopnd := BitVec.ofNat 7 mine.length
      payload := (leWords 8 ((bytes.length + 7) / 8) bytes).map (BitVec.ofNat 64) }

/-- How many operands a packet of an atomic carries (R313). -/
def operandsPer (a : Access) (len : Nat) : Nat :=
  match a.kind with
  | .cas => if len = 8 then 6 else 12
  | _ => if len = 8 then 12 else 24

/-- The request packets for parts that share a line, or an element of an atomic (R54, R313). [DESIGN CHOICE, log entry 25] -/
def State.requests (s : State) (g : Gang) (op : Nat) (a : Access) (ps : List Part) : List Packet :=
  match ps with
  | [] => []
  | p :: _ =>
    let line := p.pa / 64 * 64
    if p.peerCached && !s.peerLine p.pa then [{ s.header g op a p line with kind := 1, size := 5 }]
    else match a.kind with
      | .load | .acq | .pref => [{ s.header g op a p line with kind := 1 }]
      | .fadd =>
        let sum := (ps.map (·.data)).sum % 2 ^ (8 * p.len)
        [{ s.header g op a p p.pa with
          kind := 3
          opnd := BitVec.ofNat 64 sum
          leaves := 1
          nopnd := 1
          payload := [leafEntry s.pkg.id (16 + g.die) op] }]
      | .atomic aop =>
        atomPackets { s.header g op a p p.pa with
            kind := 4
            aop := BitVec.ofNat 4 aop
            opnd := BitVec.ofNat 64 p.data
            side := BitVec.ofNat 64 a.rm.toNat }
          (operandsPer a p.len) (ps.map (·.data)) p.len
      | .cas =>
        atomPackets { s.header g op a p p.pa with kind := 4, aop := 10, opnd := BitVec.ofNat 64 p.cmp } (operandsPer a p.len)
          (ps.map fun q => q.cmp + q.data * 2 ^ (8 * p.len)) (2 * p.len)
      | _ =>
        let m := mergeStores ps
        [{ s.header g op a p line with kind := 2, opnd := m.2, payload := (leWords 8 8 m.1).map (BitVec.ofNat 64) }]

/-- Which parts of an access travel together (R54, R71, R73): the aperture of R215, and a line, or an element of an atomic. -/
def State.groupOf (s : State) (a : Access) (p : Part) : Nat × Nat :=
  (p.aper, if a.kind.isAtomic && !p.sealedAway s && (!p.peerCached || s.peerLine p.pa) then p.pa else p.pa / 64)

/-- The access of an operation in flight. -/
def Flight.access (f : Flight) : Option Access := match f.job with | .access a => some a | _ => none

/-- Whether an earlier access of the core touches a part's line and is not yet performed there (R52, R56). [DEDUCED, log entry 22] -/
def State.lineBusy (s : State) (op : Nat) (f : Flight) (p : Part) : Bool :=
  let virt : Bool := f.access.any fun a => a.space == .virt
  s.flight.any fun x => decide (x.1 < op) && x.2.gang / 64 == f.gang / 64 && match x.2.access with
    | none => false
    | some a => a.parts.any fun q => q.isOpen &&
        (if q.isHeld then virt && x.2.ctx == f.ctx && q.va.toNat / 64 == p.va.toNat / 64
        else (q.aper == 2) == (p.aper == 2) && q.pa / 64 == p.pa / 64)

/-- Whether an operation has a part of some lanes that is neither performed nor failed. -/
def State.opBusy (s : State) (op : Nat) (lanes : Nat → Bool) : Bool :=
  match (tget s.flight op).bind Flight.access with
  | none => false
  | some a => a.parts.any fun q => q.isOpen && lanes q.lane

/-- Whether the operations that a part follows are done: those of its lane (R61, R63, R65), and those of its gang (R60). -/
def State.afterDone (s : State) (p : Part) : Bool :=
  p.after.all (fun o => !s.opBusy o fun _ => true) && p.afterLane.all fun o => !s.opBusy o fun l => l == p.lane

/-- Whether nothing that a part follows keeps it in the core. -/
def State.clear (s : State) (op : Nat) (f : Flight) (p : Part) : Bool := s.afterDone p && !s.lineBusy op f p

/-- The parts of an access that may leave the core now: those of one line, or of one element of an atomic, leave together, once none of them has to wait and
none has left before (R54, R55, R71, R73). [DEDUCED, log entry 22] -/
def State.sendable (s : State) (op : Nat) (f : Flight) (a : Access) : List Part :=
  a.parts.filter fun p => p.isReady && a.parts.all fun q =>
    s.groupOf a q != s.groupOf a p || (if q.isReady then s.clear op f q else q.st != AccSt.sent)

/-- The flight with the parts of its access changed. -/
def Flight.setParts (f : Flight) (a : Access) (ps : List Part) : Flight := { f with job := .access { a with parts := ps } }

/-- Whether a load may be served from the core's L1 (R59): core scope, no acquire, and the line is there. -/
def Access.fromL1 (a : Access) (l1 : Tab (List Byte)) (k : Nat) : Option (List Byte) :=
  if a.kind == .load && a.scope == 0 && a.ord == 0 && a.space == .virt then tget l1 (k / 64) else none

/-- The counts for parts that leave together: one for each line portion (R290). -/
def State.countParts (s : State) (die : Nat) (ps : List Part) : State :=
  ((ps.map fun p => (p.aper, p.pa / 64, p.counted)).eraseDups).foldl (fun s x => s.countAt die x.1 (x.2.1 * 64) x.2.2) s

/-- Why a part can never reach memory: an address that is reserved, or an atomic on a register (R13, R16). -/
def State.misaddressed (s : State) (a : Access) (p : Part) : Bool :=
  p.aper != 2 && p.pa / 2 ^ 44 == s.pkg.id && match apertureOf (p.pa % 2 ^ 44) with
    | .none => true
    | .mmio _ _ => a.kind.isAtomic
    | _ => false

/-- The parts that have the given state put in place of those of the same lane and place. -/
def replaceParts (ps new : List Part) : List Part :=
  ps.map fun p => (new.find? fun q => q.lane == p.lane && q.sub == p.sub && q.va == p.va).getD p

/-- Whether nothing of a job is left to do but its completion (R202, R221, R223). -/
def Job.settled : Job → Bool
  | .access a => a.parts.all fun p => !p.isOpen
  | .token _ _ _ p st => st.isSome || !p.isOpen
  | .coll _ _ _ _ p r => r.isSome || !p.isOpen
  | _ => false

/-- ACCESS_COMPLETE follows once a job is settled (R202). -/
def State.settle (s : State) (op : Nat) : State :=
  match tget s.flight op with
  | none => s
  | some f => if f.job.settled && !s.agenda.contains (.accessComplete op) then s.push [.accessComplete op] else s

/-- A part that the core's L1 serves (R59). -/
def State.servedByL1 (s : State) (core : Nat) (a : Access) (p : Part) : Option (List Byte) := a.fromL1 (s.core core).l1 (p.memAt s)

/-- One group of parts sent: served by L1, failed as an addressing error, put into packets, or given to the attaching base die's sealing. -/
def State.sendGroup (s : State) (op : Nat) (g : Gang) (a : Access) (ps : List Part) : State × List Part :=
  match ps with
  | [] => (s, [])
  | p :: _ =>
    if s.misaddressed a p then
      let t := s.attachFor g.die 0
      (if a.kind == .pref then s else s.errlog t (16 + g.die) 1 4 cPERMFAULT (s.ctxid g.ctx).toNat p.pa,
        ps.map fun q => { q with st := if a.kind == .pref then .done 0 else .failed cPERMFAULT 0 q.va })
    else match s.servedByL1 g.core a p with
      | some line => (s, ps.map fun q => { q with st := .done (fieldBytes line (q.pa % 64) q.len) })
      | none =>
        let sent := ps.zipIdx.map fun x => { x.1 with seat := x.2, stale := false, st := .sent }
        if p.sealedAway s then (s.kick (.sealedLine op (p.pa / 64)), sent)
        else
          let own := a.space == .pad
          ((s.requests g op a ps).foldl (fun t q => t.inject g.die own q) s, sent)

/-- The parts of an access that may leave now leave (R60 to R63, R202). -/
def State.sendReady (s : State) (op : Nat) : State :=
  match tget s.flight op with
  | none => s
  | some f => match f.access, s.gang f.gang with
    | some a, some g =>
      let ps := s.sendable op f a
      let r := if a.direct then
          ps.foldl (fun (x : State × List Part) p =>
            if (tget x.1.flight op).isNone then x
            else
              let y := x.1.performDirect g.core g.ctx a p
              (y.1, x.2 ++ [y.2])) (s, [])
        else
          let out := ps.filter fun p => !s.misaddressed a p && (s.servedByL1 g.core a p).isNone
          ((ps.map (s.groupOf a)).eraseDups).foldl (fun (x : State × List Part) k =>
            let y := x.1.sendGroup op g a (ps.filter fun p => s.groupOf a p == k); (y.1, x.2 ++ y.2)) (s.countParts g.die out, [])
      match tget r.1.flight op with
      | none => r.1
      | some f' => (if r.2 = [] then r.1 else { r.1 with flight := tput r.1.flight op (f'.setParts a (replaceParts a.parts r.2)) }).settle op
    | _, _ => s

/-- Every access of a core that may leave now leaves, the oldest first. -/
def State.sendAll (s : State) (core : Nat) : State :=
  s.flight.foldl (fun t x => if x.2.gang / 64 = core then t.sendReady x.1 else t) s

/-- The operations in flight of a gang that have a part, neither performed nor failed, for which a condition holds. -/
def State.opsOf (s : State) (key : Nat) (c : Access → Part → Bool) : List Nat :=
  s.flight.filterMap fun x =>
    if x.2.gang == key && (match x.2.access with | some a => a.parts.any fun q => q.isOpen && c a q | none => false) then some x.1 else none

/-- Whether an access is an acquire load (R61, R213). -/
def Access.acquires (a : Access) : Bool := a.kind == .acq || (a.kind == .load && a.ord == 2)

/-- Whether a virtual address is a sync word of a binding of the context (R62). -/
def State.isSync (s : State) (ctx : Nat) (va : DWord) : Bool := (s.ctx ctx).bindings.any fun b => b.2.sync == va

/-- Whether a part lies in a range bound to a sync word, to be performed at die scope or wider by a release of a scope (R63). -/
def State.boundTo (s : State) (ctx scope : Nat) (word : DWord) (p : Part) : Bool :=
  (s.ctx ctx).bindings.any fun b => b.2.sync == word && b.2.lo ≤ p.va.toNat && p.va.toNat < b.2.hi && decide (1 ≤ max scope b.2.scope)

/-- Whether an access has to be done before a release, or a fence, of a scope (R52, R61, R65, R66): its value is bound, and it is performed at the
scope. A write is performed at core scope once it is issued, as every later access of the core to its line waits for it. [DEDUCED, log entry 22] -/
def AccKind.before (k : AccKind) (scope : Nat) : Bool := k.reads || 1 ≤ scope

/-- What a part of an access of a gang follows: the earlier acquire loads of its lane (R61, R63), and what its own class asks for (R60, R61, R63,
R227). [DEDUCED, log entry 22] -/
def State.follows (s : State) (key ctx : Nat) (a : Access) (p : Part) : Part :=
  let mine (c : Access → Part → Bool) : List Nat := s.opsOf key fun b q => q.lane == p.lane && c b q
  let acq := mine fun b _ => b.acquires
  let cls := match a.kind, a.ord with
    | .mbarv, _ => mine fun b _ => b.kind.writes
    | .rel, _ | .store, 2 =>
      if s.isSync ctx p.va then mine fun b q => b.kind.writes && s.boundTo ctx a.scope p.va q
      else mine fun b _ => b.kind.before a.scope
    | _, _ => []
  let all := match a.kind, a.ord with
    | .store, 1 => s.opsOf key fun b _ => b.kind.writes
    | _, 1 => s.opsOf key fun _ _ => true
    | _, _ => []
  { p with
    afterLane := acq ++ cls
    after := all }

/-- Whether a word that makes an access of one part at its issue has to wait: an earlier access of its lane that it follows is not done, or one of its core
touches the line and is not performed there (R56, R61). [DEDUCED, log entry 22] -/
def State.holdsBack (s : State) (c : Issue) (a : Access) (p : Part) : Bool :=
  (s.follows c.key c.g.ctx a p).afterLane != [] || (!p.isHeld && s.lineBusy s.nextOp ⟨c.key, c.g.ctx, 16, .access a⟩ p)

/-- An access issued (R202): the counter rises, its parts are translated and leave; issue stalls at a counter of 63. The gang of the
issue carries whatever the instruction has already changed of it. [DEDUCED, log entry 22] -/
def State.issueAccess (s : State) (c : Issue) (ctr : Nat) (a : Access) : Fate :=
  if 63 ≤ c.g.outstanding ctr then .wait (s.hold c .wait)
  else
    let op := s.nextOp
    let g := (c.g.setCtr ctr (c.g.outstanding ctr + 1)).dropLatch c.act
    let s := { (s.put c g) with nextOp := op + 1 }
    let r := if a.space == .virt then s.translateParts g a.kind a.parts else (s, a.parts)
    let a := { a with parts := r.2.map (r.1.follows c.key g.ctx a) }
    .done ({ r.1 with flight := tput r.1.flight op ⟨c.key, g.ctx, ctr, .access a⟩ }.sendReady op)

/-- A destination some bytes further on. -/
def Dest.plus (d : Dest) (n : Nat) : Dest :=
  match d with
  | .none => .none
  | .file k => .file (k + n / 4)
  | .reg u off => .reg u (off + n)

/-- The gang with the data of an access's performed parts landed (R36, R201). -/
def Gang.landParts (g : Gang) (a : Access) : Gang :=
  if !a.kind.reads then g
  else a.parts.foldl (fun g p => match p.st with
    | .done v => g.mapLanes [p.lane] fun _ => g.land (a.dest.plus p.sub) (leBytes p.len v)
    | _ => g) g

/-- The failures of an access, one for each code and cause, in the order of their lowest lanes (R80, R202). [DEDUCED, log entry 14] -/
def Access.failures (a : Access) (op ctr : Nat) : List Failure :=
  let bad := a.parts.filterMap fun p => match p.st with
    | .failed c u arg => some (c, u, arg, p.lane)
    | _ => none
  ((bad.map fun x => (x.1, x.2.1)).eraseDups).map fun k =>
    let mine := bad.filter fun x => x.1 == k.1 && x.2.1 == k.2
    let len := a.parts.foldl (fun n p => max n (p.sub + p.len)) 0
    let load := a.kind == .load || a.kind == .acq
    { ctr := ctr
      code := k.1
      cause := k.2
      arg := match mine with | x :: _ => x.2.2.1 | [] => 0
      mask := maskOf (mine.map fun x => x.2.2.2)
      repl := if k.1 = cMEMUE ∧ (k.2 = 1 ∨ k.2 = 2) ∧ load then some (a.dest, len) else none
      op := op }

/-- The gang with one operation of a counter less outstanding. [DEDUCED, log entry 14] -/
def Gang.lower (g : Gang) (ctr : Nat) : Gang := g.setCtr ctr (g.outstanding ctr - 1)

/-- An operation of a gang gone from flight, with its counter lowered, unless REPLV has still to complete it (R195), and its failures left for the waits
(R80, R202). [DEDUCED, log entry 14] -/
def State.finish (s : State) (op : Nat) (f : Flight) (g : Gang) (fs : List Failure) : State :=
  let g := if fs.any fun x => x.repl.isSome then g else g.lower f.ctr
  let s := { s with flight := tdel s.flight op }
  s.setGang f.gang { g with failures := g.failures ++ fs }

/-- The failure of a TOKACQ or a COLL (R216, R221, R223). -/
def Part.failure (p : Part) (ctr : Nat) (lanes : List Nat) : List Failure :=
  match p.st with
  | .failed c u arg => [{ ctr := ctr, code := c, cause := u, arg := arg, mask := maskOf lanes }]
  | _ => []

/-- A 32-bit status landed in some lanes (R221, R223). -/
def Gang.landStatus (g : Gang) (d : Dest) (lanes : List Nat) (v : Option Nat) : Gang :=
  match v with
  | none => g
  | some v => g.mapLanes lanes fun _ => g.land d (leBytes 4 v)

/-- ACCESS_COMPLETE (R202): the data lands, the counter falls, failures wait for their delivery, and accesses that followed leave. -/
def execAccessComplete (op : Nat) (s : State) : Outcome :=
  match tget s.flight op with
  | none => .next s
  | some f =>
    match s.gang f.gang with
    | none => .next s
    | some g =>
      if !f.job.settled then .next s
      else match f.job with
        | .access a =>
          let s := s.finish op f (g.landParts a) (a.failures op f.ctr)
          .next (s.sendAll g.core)
        | .token d lanes _ p st => .next (s.finish op f (g.landStatus d lanes st) (p.failure f.ctr lanes))
        | .coll d lanes _ _ p r => .next (s.finish op f (g.landStatus d lanes (r.map (·.toNat))) (p.failure f.ctr lanes))
        | _ => .next s

end Sys2Proof.Machine
end

