-- ==== Sys2Proof/Machine/Local.lean ====
section
/-!
DEFINITION. The words that access team memory, the spill stack and the scratchpad (R199 to R207, R227, R228).
-/
namespace Sys2Proof.Machine

/-- The bytes of an access size (R31). -/
def sizeBytes (size : Nat) : Nat := if size = 5 then 64 else 2 ^ size

/-- The registers that n bytes take (R201). -/
def dataRegs (n : Nat) : Nat := (n + 3) / 4

/-- Whether a byte names n bytes of registers for the data of an access (R201): `lat` says that the latch may stand there. -/
def Gang.dataOk (g : Gang) (lat : Bool) (o : Opnd) (n : Nat) : Bool :=
  let k := dataRegs n
  if o < 0xE0#8 then o.toNat % k == 0 && (g.place g.vbNow (4 * o.toNat) (4 * k)).isSome
  else if o < 0xE8#8 then decide (k ≤ 4) && (o.toNat - 0xE0) % k == 0
  else o == 0xE9 || (lat && decide (n ≤ 8) && o == 0xE8)

/-- Where n bytes of a reply land (R36, R201). -/
def Gang.destOf (g : Gang) (o : Opnd) (n : Nat) : Dest :=
  if o < 0xE0#8 then
    match g.place g.vbNow (4 * o.toNat) (4 * dataRegs n) with
    | some (umbra, off) => .reg umbra off
    | none => .none
  else if o < 0xE8#8 then .file (o.toNat - 0xE0)
  else .none

/-- The n bytes of data that a lane stores (R201). -/
def Gang.dataVal (g : Gang) (o : Opnd) (n i : Nat) : Nat :=
  if o < 0xE8#8 then ofLeBytes (g.regBytesFrom o n i)
  else if o = 0xE8 then (g.r64 o i).toNat % 2 ^ (8 * n)
  else 0

/-- The first trap of several checks. [DEDUCED, log entry 46] -/
def firstTrap (ts : List (Option Trap)) : Option Trap := ts.findSome? id

/-- The trap of the lanes for which a condition holds, with the argument of the lowest of them. [DEDUCED, log entry 9] -/
def Issue.bad (c : Issue) (code : Nat) (arg : Nat → DWord) (p : Nat → Bool) : Option Trap :=
  match c.act.filter p with
  | [] => none
  | i :: is => some { code := code, arg := some (arg i), lanes := some (maskOf (i :: is)) }

/-- The trap of a word that acts once for its split (log entry 9): every lane that takes part traps, whichever lane's operand is bad. [DEDUCED, log entry 9] -/
def Issue.whole (c : Issue) (t : Option Trap) : Option Trap := t.map fun t => { t with lanes := some (maskOf c.act) }

/-- The trap of the data operand of an access: its name, and the poison of what is read (R34, R201, R257). -/
def Issue.dataTrap (c : Issue) (read write : Bool) (o : Opnd) (n : Nat) : Option Trap :=
  if !c.g.dataOk (!write && c.full) o n then some illOpnd
  else if !read then none
  else (c.g.poisonAt c.act o (dataRegs n)).map fun p =>
    { code := cPOISON, arg := some (BitVec.ofNat 64 p.1), lanes := some (maskOf p.2) }

/-- The precise checks of an offset (R200): the high bits, the alignment, and the bound with the code of its trap. -/
def Issue.offsetTrap (c : Issue) (a : Opnd) (n limit code : Nat) : Option Trap :=
  let va := c.g.r64 a
  firstTrap [c.bad cPERMFAULT va fun i => field (va i) 32 32 != 0, c.bad cMISALIGN va fun i => (va i).toNat % n != 0,
    c.bad code va fun i => limit < (va i).toNat + n]

/-- The physical address and the size of the gang's team-memory allocation (R203). -/
def State.teamMem (s : State) (g : Gang) : Nat × Nat :=
  match s.team g.teamKey with
  | none => (0, 0)
  | some t => (s.ownAddr (teamBase g.core + t.base), t.shared)

/-- The physical address and the size of the context's scratchpad window on the gang's die (R205). -/
def State.padMem (s : State) (g : Gang) : Nat × Nat :=
  (s.ownAddr (padBase g.die + (s.ctx g.ctx).spBase.toNat), (s.ctx g.ctx).spLim.toNat)

/-- One part for each taking-part lane, at an offset of an allocation (R203, R204). -/
def Issue.partsAt (c : Issue) (a : Opnd) (base n : Nat) (data cmp : Nat → Nat) : List Part :=
  c.act.map fun i =>
    let va := c.g.r64 a i
    { lane := i, va := va, pa := base + va.toNat, len := n, data := data i, cmp := cmp i }

/-- The precise trap of a team-memory write that touches a tagged word (R228). [DEDUCED, log entry 48] -/
def State.clobTrap (s : State) (a : Access) : Option Trap :=
  match a.parts.filter fun p => a.kind.refused s.mem (p.pa % 2 ^ 44) p.len with
  | [] => none
  | p :: ps => some {
      code := cBARCLOB
      arg := some (s.mem.tagAddr (p.pa % 2 ^ 44) p.len p.va)
      lanes := some (maskOf ((p :: ps).map (·.lane))) }

/-- The form of the words that access team memory: operand and address checks, the barrier tags, then the access (R202, R203). -/
def teamWord (i : Instr) (ctr : BitVec 4) (checks : Issue → State → Option Trap) (mk : Issue → Nat → Access) (s : State) : Outcome :=
  gangWord i s fun c =>
    let a := mk c (s.teamMem c.g).1
    match (checks c s).or (s.clobTrap a) with
    | some t => .trap t
    | none => s.issueAccess c ctr.toNat a

/-- LDT (R203). -/
def execLdt (d a : Opnd) (ctr size : BitVec 4) (s : State) : Outcome :=
  let n := sizeBytes size.toNat
  teamWord (.ldt d a ctr size) ctr
    (fun c s => firstTrap [c.dataTrap false true d n, c.check [(.src true, a)], c.offsetTrap a n (s.teamMem c.g).2 cPERMFAULT])
    (fun c base => {
      kind := .load
      space := .team
      dest := c.g.destOf d n
      size := size.toNat
      parts := c.partsAt a base n (fun _ => 0) (fun _ => 0) }) s

/-- STT (R203). -/
def execStt (d a : Opnd) (ctr size : BitVec 4) (s : State) : Outcome :=
  let n := sizeBytes size.toNat
  teamWord (.stt d a ctr size) ctr
    (fun c s => firstTrap [c.dataTrap true false d n, c.check [(.src true, a)], c.offsetTrap a n (s.teamMem c.g).2 cPERMFAULT])
    (fun c base => {
      kind := .store
      space := .team
      dest := .none
      size := size.toNat
      parts := c.partsAt a base n (c.g.dataVal d n) (fun _ => 0) }) s

/-- ATOMT (R206): `cas` compares with D and stores B; every other operator combines the old value with B. -/
def execAtomt (d a b : Opnd) (wide : Bool) (op ctr : BitVec 4) (s : State) : Outcome :=
  let n := if wide then 8 else 4
  let cas := op == 10
  teamWord (.atomt d a b wide op ctr) ctr
    (fun c s => firstTrap [if 10#4 < op then some illOpnd else none, c.dataTrap cas true d n,
      c.check [(.src true, a), (.src wide, b)], c.offsetTrap a n (s.teamMem c.g).2 cPERMFAULT])
    (fun c base => {
      kind := .atomic op.toNat
      space := .team
      dest := c.g.destOf d n
      size := if wide then 3 else 2
      rm := c.g.rm
      parts := c.partsAt a base n (fun i => if wide then (c.g.r64 b i).toNat else (c.g.r32 b i).toNat)
        (fun i => if cas then c.g.dataVal d n i else 0) }) s

/-- RINGROT (R207): the head at the lowest lane's address rises by the number of taking-part lanes, and each lane receives its slot. -/
def execRingrot (d a b : Opnd) (logs : BitVec 4) (logn : BitVec 5) (ctr : BitVec 4) (s : State) : Outcome :=
  teamWord (.ringrot d a b logs logn ctr) ctr
    (fun c s => firstTrap [
      if logs < 2#4 || 10#4 < logs || logn < 1#5 || 20#5 < logn then some illOpnd else none,
      c.dataTrap false true d 4, c.check [(.src false, b)], c.one.check [(.src true, a)],
      c.whole (c.one.offsetTrap a 4 (s.teamMem c.g).2 cPERMFAULT)])
    (fun c base =>
      let va := c.g.r64 a c.low
      { kind := .ring c.act.length logs.toNat logn.toNat
        space := .team
        dest := c.g.destOf d 4
        size := 2
        parts := c.act.map fun i =>
          { lane := i
            va := va
            pa := base + va.toNat
            len := 4
            data := (c.g.r32 b i).toNat
            cmp := c.act.idxOf i } }) s

/-- The virtual address of byte o of a lane's spill stack (R111, R204). -/
def State.spillAddr (s : State) (g : Gang) (i o : Nat) : DWord :=
  BitVec.ofNat 64 ((s.ctx g.ctx).spillBase.toNat + (256 * g.core + 32 * g.level + g.slice + i / 4) * 2 ^ 22 + 16 * (o / 4)
    + 4 * (i % 4) + o % 4)

/-- The parts of a spill access: a double takes two words of the stack (R204). -/
def State.spillParts (s : State) (c : Issue) (a : Opnd) (n : Nat) (data : Nat → Nat) : List Part :=
  c.act.flatMap fun i =>
    let o := (c.g.r64 a i).toNat
    (List.range (dataRegs n)).map fun j =>
      { lane := i
        va := s.spillAddr c.g i (o + 4 * j)
        len := min n 4
        sub := 4 * j
        data := data i / 2 ^ (32 * j) % 2 ^ (8 * min n 4) }

/-- LDSP (R204). -/
def execLdsp (d a : Opnd) (ctr size : BitVec 4) (s : State) : Outcome :=
  let n := sizeBytes size.toNat
  gangWord (.ldsp d a ctr size) s fun c =>
    match firstTrap [if 3#4 < size then some illOpnd else none, c.dataTrap false true d n, c.check [(.src true, a)],
      c.offsetTrap a n (c.g.spBytes - 128) cSPILLOVF] with
    | some t => .trap t
    | none => s.issueAccess c ctr.toNat {
        kind := .load
        space := .virt
        dest := c.g.destOf d n
        size := size.toNat
        parts := s.spillParts c a n fun _ => 0 }

/-- STSP (R204). -/
def execStsp (d a : Opnd) (ctr size : BitVec 4) (s : State) : Outcome :=
  let n := sizeBytes size.toNat
  gangWord (.stsp d a ctr size) s fun c =>
    match firstTrap [if 3#4 < size then some illOpnd else none, c.dataTrap true false d n, c.check [(.src true, a)],
      c.offsetTrap a n (c.g.spBytes - 128) cSPILLOVF] with
    | some t => .trap t
    | none => s.issueAccess c ctr.toNat {
        kind := .store
        space := .virt
        dest := .none
        size := size.toNat
        parts := s.spillParts c a n (c.g.dataVal d n) }

/-- LDP (R204, R205). -/
def execLdp (d a : Opnd) (ctr size : BitVec 4) (s : State) : Outcome :=
  let n := sizeBytes size.toNat
  gangWord (.ldp d a ctr size) s fun c =>
    match firstTrap [c.dataTrap false true d n, c.check [(.src true, a)], c.offsetTrap a n (s.padMem c.g).2 cPERMFAULT] with
    | some t => .trap t
    | none => s.issueAccess c ctr.toNat {
        kind := .load
        space := .pad
        dest := c.g.destOf d n
        size := size.toNat
        parts := c.partsAt a (s.padMem c.g).1 n (fun _ => 0) (fun _ => 0) }

/-- STP (R204, R205, R228). -/
def execStp (d a : Opnd) (ctr size : BitVec 4) (s : State) : Outcome :=
  let n := sizeBytes size.toNat
  gangWord (.stp d a ctr size) s fun c =>
    match firstTrap [c.dataTrap true false d n, c.check [(.src true, a)], c.offsetTrap a n (s.padMem c.g).2 cPERMFAULT] with
    | some t => .trap t
    | none => s.issueAccess c ctr.toNat {
        kind := .store
        space := .pad
        dest := .none
        size := size.toNat
        parts := c.partsAt a (s.padMem c.g).1 n (c.g.dataVal d n) (fun _ => 0) }

/-- The barrier word that a pair names: whether it lies in the scratchpad window, its offset, its physical address and the size of its
space (R200). -/
def State.barrierWord (s : State) (g : Gang) (va : DWord) : Bool × Nat × Nat × Nat :=
  let pad := bit va 32
  let m := if pad then s.padMem g else s.teamMem g
  (pad, bits va 0 32, m.1 + bits va 0 32, m.2)

/-- The precise checks of the barrier-word instructions (R200, R227). [DEDUCED, log entry 48] -/
def State.barrierTrap (s : State) (c : Issue) (d a : Opnd) : Option Trap :=
  let va := c.g.r64 a c.low
  let w := s.barrierWord c.g va
  firstTrap [c.one.check [(.named false, d), (.src true, a)],
    c.whole (c.one.bad cPERMFAULT (fun _ => va) fun _ => field va 33 31 != 0),
    c.whole (c.one.bad cMISALIGN (fun _ => va) fun _ => w.2.1 % 8 != 0),
    c.whole (c.one.bad cPERMFAULT (fun _ => va) fun _ => w.2.2.2 < w.2.1 + 8)]

/-- MBINIT and MBARV act once per split, on the values of its lowest taking-part lane (R227). -/
def barrierAccess (i : Instr) (d a : Opnd) (ctr : BitVec 4) (k : AccKind) (s : State) : Outcome :=
  gangWord i s fun c =>
    match s.barrierTrap c d a with
    | some t => .trap t
    | none =>
      let va := c.g.r64 a c.low
      let w := s.barrierWord c.g va
      s.issueAccess c ctr.toNat {
        kind := k
        space := if w.1 then .pad else .team
        dest := .none
        size := 3
        parts := [{ lane := c.low, va := va, pa := w.2.2.1, len := 8, data := (c.g.r32 d c.low).toNat }] }

/-- MBINIT (R227). [DEDUCED, log entry 48] -/
def execMbinit (d a : Opnd) (ctr : BitVec 4) (s : State) : Outcome := barrierAccess (.mbinit d a ctr) d a ctr .mbinit s

/-- MBARV (R227). [DEDUCED, log entry 48] -/
def execMbarv (d a : Opnd) (ctr : BitVec 4) (s : State) : Outcome := barrierAccess (.mbarv d a ctr) d a ctr .mbarv s

/-- MBWAIT (R227): held until the phase differs or the word is not live; its end is an acquire at die scope. It reads its word behind the lane's own accesses
to it and its acquires (R56, R61). In a handler it is a double fault (R85). [DEDUCED, log entries 22 and 48] -/
def execMbwait (d a : Opnd) (s : State) : Outcome :=
  gangWord (.mbwait d a) s fun c =>
    match s.barrierTrap c d a with
    | some t => .trap t
    | none =>
      if c.g.inHandler then .trap illOpnd
      else
        let va := c.g.r64 a c.low
        let w := s.barrierWord c.g va
        let k := w.2.2.1 % 2 ^ 44
        let p : Part := { lane := c.low, va := va, pa := w.2.2.1, len := 8 }
        if s.holdsBack c { kind := .load, space := if w.1 then .pad else .team, dest := .none, size := 3, parts := [p] } p then
          .wait (s.hold c .wait)
        else if s.mem.isBad k then
          .went ((s.foundBad (16 + c.g.die) k).raise c va { code := cMEMUE, cause := 5 })
        else
          let w := BitVec.ofNat 64 (s.mem.readNat k 8)
          if bit w 63 && field w 48 15 == field (c.g.r32 d c.low) 0 15 then .wait (s.hold c .wait)
          else .done ((s.dropL1 c.g.core).dropLatch c)

end Sys2Proof.Machine
end

