-- ==== Sys2Proof/Machine/Global.lean ====
section
/-!
DEFINITION. The words that access virtual memory (R199 to R202, R208 to R213).
-/
namespace Sys2Proof.Machine

/-- The address of a global access in a lane (R200). -/
def Gang.addrIn (g : Gang) (a : Opnd) (off : BitVec 16) (i : Nat) : DWord := g.r64 a i + off.signExtend 64

/-- The precise checks of virtual addresses (R200). [DEDUCED, log entry 46] -/
def Issue.addrTrap (c : Issue) (va : Nat → DWord) (n : Nat) : Option Trap :=
  firstTrap [c.bad cPERMFAULT va fun i => !canonical (va i), c.bad cMISALIGN va fun i => (va i).toNat % n != 0]

/-- One part for each taking-part lane, at a virtual address. -/
def Issue.partsOf (c : Issue) (va : Nat → DWord) (n : Nat) (data cmp : Nat → Nat) : List Part :=
  c.act.map fun i => { lane := i, va := va i, len := n, data := data i, cmp := cmp i }

/-- The form of the global accesses (R202): operand checks, address checks, then the access, whose GX fields are those of R32. `len` is
what the data operand takes in registers. -/
def globalWord (i : Instr) (k : AccKind) (read write : Bool) (d a : Opnd) (ctr : BitVec 4) (gx : MemGx) (off : BitVec 16) (n len : Nat)
    (data cmp : Gang → Nat → Nat) (s : State) : Outcome :=
  gangWord i s fun c =>
    let va := c.g.addrIn a off
    match firstTrap [c.dataTrap read write d len, c.check [(.src true, a)], c.addrTrap va n] with
    | some t => .trap t
    | none => s.issueAccess c ctr.toNat {
        kind := k
        space := .virt
        dest := if write then c.g.destOf d len else .none
        size := if n = 64 then 5 else Nat.log2 n
        scope := gx.scope.toNat
        ord := gx.ord.toNat
        lat := gx.lat
        nt := gx.nt
        rm := c.g.rm
        parts := c.partsOf va n (data c.g) (cmp c.g) }

/-- LDG (R208). -/
def execLdg (d a : Opnd) (ctr size : BitVec 4) (gx : MemGx) (s : State) : Outcome :=
  let n := sizeBytes size.toNat
  globalWord (.ldg d a ctr size gx) .load false true d a ctr gx gx.offset n n (fun _ _ => 0) (fun _ _ => 0) s

/-- STG (R208). -/
def execStg (d a : Opnd) (ctr size : BitVec 4) (gx : MemGx) (s : State) : Outcome :=
  let n := sizeBytes size.toNat
  globalWord (.stg d a ctr size gx) .store true false d a ctr gx gx.offset n n (fun g => g.dataVal d n) (fun _ _ => 0) s

/-- The byte offset of an ATOMG, whose OFFSET holds OP in bits 3:0 (R211). -/
def atomOffset (gx : MemGx) : BitVec 16 := gx.offset &&& 0xFFF0

/-- ATOMG (R211). -/
def execAtomg (d a : Opnd) (ctr size : BitVec 4) (gx : MemGx) (s : State) : Outcome :=
  let n := sizeBytes size.toNat
  globalWord (.atomg d a ctr size gx) (.atomic (bits gx.offset 0 4)) true true d a ctr gx (atomOffset gx) n n (fun g => g.dataVal d n)
    (fun _ _ => 0) s

/-- FADDG (R210). -/
def execFaddg (d a : Opnd) (ctr size : BitVec 4) (gx : MemGx) (s : State) : Outcome :=
  let n := sizeBytes size.toNat
  globalWord (.faddg d a ctr size gx) .fadd true true d a ctr gx gx.offset n n (fun g => g.dataVal d n) (fun _ _ => 0) s

/-- CASG (R212): the expected value, then the new one, in the registers from D. -/
def execCasg (d a : Opnd) (ctr size : BitVec 4) (gx : MemGx) (s : State) : Outcome :=
  let n := sizeBytes size.toNat
  globalWord (.casg d a ctr size gx) .cas true true d a ctr gx gx.offset n (2 * n) (fun g i => g.dataVal d (2 * n) i / 2 ^ (8 * n))
    (fun g i => g.dataVal d (2 * n) i % 2 ^ (8 * n)) s

/-- PREFG (R209): a lane whose address breaks R200 is dropped; the others bring their lines. [DEDUCED, log entry 49] -/
def execPrefg (a : Opnd) (ctr size : BitVec 4) (gx : MemGx) (s : State) : Outcome :=
  gangWord (.prefg a ctr size gx) s fun c =>
    match c.check [(.src true, a)] with
    | some t => .trap t
    | none =>
      let va := c.g.addrIn a gx.offset
      s.issueAccess c ctr.toNat {
        kind := .pref
        space := .virt
        dest := .none
        size := 5
        scope := gx.scope.toNat
        lat := gx.lat
        nt := gx.nt
        parts := (c.act.filter fun i => canonical (va i)).map fun i =>
          { lane := i, va := BitVec.ofNat 64 ((va i).toNat / 64 * 64), len := 64 } }

/-- ACQ (R63, R213). -/
def execAcq (d a : Opnd) (ctr : BitVec 4) (gx : MemGx) (s : State) : Outcome :=
  globalWord (.acq d a ctr gx) .acq false true d a ctr gx gx.offset 8 8 (fun _ _ => 0) (fun _ _ => 0) s

/-- REL (R63, R213). -/
def execRel (d a : Opnd) (ctr : BitVec 4) (gx : MemGx) (s : State) : Outcome :=
  globalWord (.rel d a ctr gx) .rel true false d a ctr gx gx.offset 8 8 (fun g => g.dataVal d 8) (fun _ _ => 0) s

end Sys2Proof.Machine
end

