-- ==== Sys2Proof/Machine/Sync.lean ====
section
/-!
DEFINITION. Batches, fences, bindings, signals, tokens and collectives (R60 to R70, R219 to R224, R229).
-/
namespace Sys2Proof.Machine

/-- BSEAL (R229): the open batch is closed, even when it is empty. -/
def execBseal (d : Opnd) (s : State) : Outcome :=
  gangWord (.bseal d) s fun c =>
    match c.check [(.dst false, d)] with
    | some t => .trap t
    | none =>
      let n := c.g.batch + 1
      let g := c.g.mapLanes c.act fun _ => c.g.res32 d n
      .done (s.put c { g with batch := n })

/-- Whether a copy of a gang in a batch at or before n has not completed (R67, R229). -/
def State.copiesDue (s : State) (key : Nat) (n : Word) : Bool :=
  s.flight.any fun x => x.2.gang == key && match x.2.job with
    | .copy j => (match j.batch with | some b => !bit (n - b) 31 | none => false)
    | _ => false

/-- BWAIT (R229): the batch number must name a closed batch. -/
def execBwait (d : Opnd) (imm : BitVec 16) (s : State) : Outcome :=
  gangWord (.bwait d imm) s fun c =>
    match c.one.check [(.src false, d)] with
    | some t => .trap t
    | none =>
      let n := c.g.r32 d c.low + imm.setWidth 32
      let ahead := (n - c.g.batch).toNat
      if 1 ≤ ahead ∧ ahead ≤ 2 ^ 31 then .trap illOpnd
      else if s.copiesDue c.key n then .wait (s.hold c .wait)
      else
        let g := { c.g with
          wbatch := n
          waited := if c.g.waited.contains n.toNat then c.g.waited else n.toNat :: c.g.waited }
        .done ((s.put c (g.dropLatch c.act)).dropL1 g.core)

/-- Whether a load of some lanes of a gang has not bound its value, or a write of theirs is not performed at a scope (R65, R66). -/
def State.lanesBusy (s : State) (key scope : Nat) (lanes : List Nat) : Bool :=
  s.opsOf key (fun a p => lanes.contains p.lane && a.kind.before scope) != []

/-- FENCE (R65, R66, R219): every earlier access of the taking-part lanes is bound, or performed at the scope; at die scope or wider the core's L1 is
invalidated. [DEDUCED, log entry 22] -/
def execFence (scope : BitVec 2) (s : State) : Outcome :=
  gangWord (.fence scope) s fun c =>
    if s.lanesBusy c.key scope.toNat c.act then .wait (s.hold c .wait)
    else .done ((if scope = 0 then s else s.dropL1 c.g.core).dropLatch c)

/-- The range quad of BIND in the lowest lane (R220): base and length. -/
def Issue.quadOf (c : Issue) (a : Opnd) : DWord × DWord := (c.g.r64 a c.low, c.g.r64 (a + 2) c.low)

/-- BIND (R62, R220): the lowest free index, or 0xFFFFFFFF where the context holds 64 bindings. Of the sync word's address only the alignment is checked, not
that it is canonical. [DESIGN CHOICE, log entry 49] -/
def execBind (d a b : Opnd) (scope : BitVec 2) (s : State) : Outcome :=
  gangWord (.bind d a b scope) s fun c =>
    let q := c.quadOf a
    let sync := c.g.r64 b c.low
    match firstTrap [c.check [(.dst false, d)], c.one.check [(.src true, b)], c.one.dataTrap true true a 16,
      if q.2 = 0 ∨ 2 ^ 57 < q.1.toNat + q.2.toNat then some illOpnd else none,
      c.whole (c.one.bad cMISALIGN (fun _ => sync) fun _ => sync.toNat % 8 != 0)] with
    | some t => .trap t
    | none =>
      let x := s.ctx c.g.ctx
      let lo := q.1.toNat / 64 * 64
      let hi := (q.1.toNat + q.2.toNat + 63) / 64 * 64
      let (x, v) : Ctx × Word := match tfree x.bindings 64 with
        | none => (x, 0xFFFFFFFF)
        | some k => ({ x with bindings := tput x.bindings k ⟨lo, hi, sync, scope.toNat⟩ }, BitVec.ofNat 32 k)
      .done ((s.setCtx c.g.ctx x).put c (c.g.mapLanes c.act fun _ => c.g.res32 d v))

/-- UNBIND (R220). -/
def execUnbind (a : Opnd) (s : State) : Outcome :=
  gangWord (.unbind a) s fun c =>
    match c.one.check [(.src false, a)] with
    | some t => .trap t
    | none =>
      let x := s.ctx c.g.ctx
      .done ((s.setCtx c.g.ctx { x with bindings := tdel x.bindings (c.g.r32 a c.low).toNat }).dropLatch c)

/-- SIGNAL (R56, R61, R224): a release store of the lowest lane at package scope that subtracts from the signal object, behind what it releases and the
accesses of its core to the line; a held fault holds the split, and its Cancel fails the word (R216); the core's copy of the line is no older than it. [DEDUCED, log entry 49] -/
def execSignal (a b : Opnd) (s : State) : Outcome :=
  gangWord (.signal a b) s fun c =>
    match c.sp.hold with
    | .cancelled code at_ => .trap { code := code, arg := some at_ }
    | _ =>
    let va := c.g.r64 a c.low
    match firstTrap [c.one.check [(.src true, a), (.src false, b)], c.whole (c.one.addrTrap (fun _ => va) 16)] with
    | some t => .trap t
    | none =>
      let p : Part := { lane := c.low, va := va, len := 8 }
      let a : Access := { kind := .store, space := .virt, dest := .none, size := 3, ord := 2, scope := 2, parts := [p] }
      let q := s.resolve c.g.die c.g.ctx .store p
      if s.holdsBack c a q then .wait (s.hold c .wait)
      else
        let r := s.translateParts c.g .store [p]
        match r.2 with
        | [p] =>
          match p.st with
          | .held cause seq _ => .wait (r.1.hold c (.fault (BitVec.ofNat 32 seq) cause va))
          | _ => match r.1.signalSub c.g.die c.g.ctx va ((c.g.r32 b c.low).setWidth 64) with
            | .ok s' => .done (((s'.countRange c.g.die c.g.ctx va 8).dropLine c.g.core (p.memAt s')).dropLatch c)
            | .error e => .went ((r.1.failedSignal c.g.die c.g.ctx va e).raise c va { code := e.1, cause := e.2, lanes := some (maskOf c.act) })
        | _ => .done r.1

/-- A part translated as a load, under the conditions that are not the token rules (R216, R221, R223). -/
def State.resolvePlain (s : State) (die ctx : Nat) (p : Part) : Part :=
  match s.walk die ctx p.va with
  | .bad cause level => { p with st := .held cause 0 level }
  | .leaf e level =>
    let pa := physOf e level p.va
    if bit e 7 && (s.keyFor (bits e 56 8) pa).isNone then { p with st := .held 6 0 0 }
    else { p with
      pa := pa
      aper := bits e 8 3
      st := .ready }

/-- A part of TOKACQ translated, with the fault record of a held one (R216, R221). -/
def State.translatePlain (s : State) (g : Gang) (p : Part) : State × Part :=
  let s := s.fillTlb g.die g.ctx p.va
  match s.recordFaults g 0 [s.resolvePlain g.die g.ctx p] with
  | (s', [q]) => (s', q)
  | (s', _) => (s', p)

/-- The machine with the job of an operation changed. -/
def State.setJob (s : State) (op : Nat) (f : Flight) (j : Job) : State := { s with flight := tput s.flight op { f with job := j } }

/-- The request of a token sent to the region's home directory (R221, R321): OPND is 1 for exclusive. -/
def State.sendTokenRequest (s : State) (op die ctx region : Nat) (ex : Bool) : State :=
  let t := (tget s.pkg.tokens region).getD ⟨false, [], true⟩
  let home := homeOf region
  { s with pkg := { s.pkg with tokens := tput s.pkg.tokens region { t with pending := true } } }.push
    [.routerPacketArrive (s.attachFor die home) (clientPort die)
      { side := if ex then 1 else 0
        addr := BitVec.ofNat 56 (region * 2 ^ 21)
        tag := BitVec.ofNat 32 op
        part := (s.ctx ctx).partid
        spkg := BitVec.ofNat 12 s.pkg.id
        ssock := BitVec.ofNat 5 (16 + die)
        dpkg := BitVec.ofNat 12 (region * 2 ^ 21 / 2 ^ 44)
        dsock := BitVec.ofNat 5 home
        kind := 0x08 }]

/-- A translated TOKACQ decided (R221): its status, or a request to the home directory. [DEDUCED, log entry 27] -/
def State.askToken (s : State) (op : Nat) : State :=
  match tget s.flight op with
  | none => s
  | some f => match f.job, s.gang f.gang with
    | .token d lanes ex p none, some g =>
      if !p.isReady then s
      else
        let status (s : State) (v : Nat) : State := (s.setJob op f (.token d lanes ex p (some v))).settle op
        let region := regionOf p.pa
        let send (s : State) : State :=
          (s.setJob op f (.token d lanes ex { p with st := .sent } none)).sendTokenRequest op g.die f.ctx region ex
        if p.aper ≠ 1 then status s 1
        else match tget s.pkg.tokens region with
          | none => if 4096 ≤ s.pkg.tokens.length then status s 2 else send s
          | some t =>
            if t.ctxs = [] || (ex && !t.exclusive) then send s
            else if t.ctxs.contains f.ctx then status s 3
            else status { s with pkg := { s.pkg with tokens := tput s.pkg.tokens region { t with ctxs := f.ctx :: t.ctxs } } } 0
    | _, _ => s

/-- The region of a peer page's address, where it translates to one (R222). -/
def State.peerRegion (s : State) (g : Gang) (va : DWord) : Option Nat :=
  match s.walk g.die g.ctx va with
  | .bad _ _ => none
  | .leaf e level => if bits e 8 3 = 1 then some (regionOf (physOf e level va)) else none

/-- Whether a region's token is on its way home: what its lines hold is not there yet (R222, R322). -/
def State.returning (s : State) (region : Nat) : Bool := s.awaits (.region (2 * region))

/-- TOKACQ (R221): it waits for a token of the region that the package is still giving back. [DEDUCED, log entry 27] -/
def execTokacq (d a : Opnd) (ex : Bool) (ctr : BitVec 4) (s : State) : Outcome :=
  gangWord (.tokacq d a ex ctr) s fun c =>
    let va := c.g.r64 a c.low
    match firstTrap [c.dataTrap false true d 4, c.one.check [(.src true, a)], c.whole (c.one.bad cPERMFAULT (fun _ => va) fun _ => !canonical va)] with
    | some t => .trap t
    | none =>
      let n := c.g.outstanding ctr.toNat
      if 63 ≤ n || ((s.peerRegion c.g va).any s.returning) then .wait (s.hold c .wait)
      else
        let op := s.nextOp
        let s := { (s.put c ((c.g.setCtr ctr.toNat (n + 1)).dropLatch c.act)) with nextOp := op + 1 }
        let r := s.translatePlain c.g { lane := c.low, va := va, len := 1 }
        .done ({ r.1 with
          flight := tput r.1.flight op ⟨c.key, c.g.ctx, ctr.toNat, .token (c.g.destOf d 4) c.act ex r.2 none⟩ }.askToken op)

/-- TOKREL (R74, R222): 0 where the context held the token, whose region then goes home with its last holder, else 1; it holds the split until the region's
lines are there. [DEDUCED, log entry 27] -/
def execTokrel (d a : Opnd) (s : State) : Outcome :=
  gangWord (.tokrel d a) s fun c =>
    let va := c.g.r64 a c.low
    match firstTrap [c.check [(.dst false, d)], c.one.check [(.src true, a)], c.whole (c.one.bad cPERMFAULT (fun _ => va) fun _ => !canonical va)] with
    | some t => .trap t
    | none =>
      let status (s : State) (v : Word) : Fate := .done (s.put c (c.g.mapLanes c.act fun _ => c.g.res32 d v))
      match c.sp.hold, s.peerRegion c.g va with
      | .tokrel r v, _ => if s.returning r then .wait s else status s v
      | _, none => status s 1
      | _, some r =>
        let held := match tget s.pkg.tokens r with
          | none => false
          | some t => t.ctxs.contains c.g.ctx
        let v : Word := if held then 0 else 1
        let s' := s.releaseToken r c.g.ctx
        if s'.returning r then .wait (s'.hold c (.tokrel r v)) else status s' v

/-- The package's state of a token (R222). -/
def State.tokenState (s : State) (region : Nat) : Word :=
  match tget s.pkg.tokens region with
  | none => 0
  | some t => if t.pending then 3 else if t.ctxs = [] then 0 else if t.exclusive then 2 else 1

/-- TOKQRY (R222). [DEDUCED, log entry 27] -/
def execTokqry (d a : Opnd) (s : State) : Outcome :=
  gangWord (.tokqry d a) s fun c =>
    let va := c.g.r64 a c.low
    match firstTrap [c.check [(.dst false, d)], c.one.check [(.src true, a)], c.whole (c.one.bad cPERMFAULT (fun _ => va) fun _ => !canonical va)] with
    | some t => .trap t
    | none =>
      let v : Word := match s.peerRegion c.g va with
        | none => 4
        | some r => s.tokenState r
      .done (s.put c (c.g.mapLanes c.act fun _ => c.g.res32 d v))

/-- A translated COLL entered in its engine's start queue where there is room, or failed where the base die is in reset (R223, R335). -/
def State.enterStart (s : State) (op : Nat) : State :=
  match tget s.flight op with
  | none => s
  | some f => match f.job, s.gang f.gang with
    | .coll d lanes sock entry p r, some g =>
      let b := s.base sock
      if !p.isReady then s
      else if b.inReset then (s.setJob op f (.coll d lanes sock entry { p with st := .failed cMEMUE 3 p.va } r)).settle op
      else if 64 ≤ b.starts.length then s
      else
        let pte := match s.walk g.die g.ctx p.va with
          | .leaf e _ => e
          | .bad _ _ => 0
        let start : Start := ⟨op, f.gang, f.ctx, g.die, entry, p.va, p.pa, pte⟩
        ((s.setBase sock { b with starts := b.starts ++ [start] }).setJob op f (.coll d lanes sock entry { p with st := .sent } r)).push
          [.attarStart sock]
    | _, _ => s

/-- COLL (R223): one start for each split, on the values of its lowest taking-part lane; a full start queue stalls the issue. -/
def execColl (d a b : Opnd) (sock ctr : BitVec 4) (s : State) : Outcome :=
  gangWord (.coll d a b sock ctr) s fun c =>
    let va := c.g.r64 a c.low
    let entry := c.g.r32 b c.low
    match firstTrap [c.dataTrap false true d 4, c.one.check [(.src true, a), (.src false, b)],
      if field entry 14 18 != 0 then some illOpnd else none, c.whole (c.one.addrTrap (fun _ => va) 64)] with
    | some t => .trap t
    | none =>
      let n := c.g.outstanding ctr.toNat
      let e := s.base sock.toNat
      if 63 ≤ n || (!e.inReset && 64 ≤ e.starts.length) then .wait (s.hold c .wait)
      else
        let op := s.nextOp
        let s := { (s.put c ((c.g.setCtr ctr.toNat (n + 1)).dropLatch c.act)) with nextOp := op + 1 }
        let r := s.translateParts c.g .load [{ lane := c.low, va := va, len := 64 }]
        match r.2 with
        | [p] => .done ({ r.1 with
            flight := tput r.1.flight op
              ⟨c.key, c.g.ctx, ctr.toNat, .coll (c.g.destOf d 4) c.act sock.toNat entry.toNat p none⟩ }.enterStart op)
        | _ => .done r.1

end Sys2Proof.Machine
end

