-- ==== Sys2Proof/Machine/Attar.lean ====
section
/-!
DEFINITION. The Attar collective engines (R328 to R352): programs, reduction slots, contributions and messages.
-/
namespace Sys2Proof.Machine

/-- The Attar context whose turn it is: engine, context number and its registers. -/
structure ATurn where
  sock : Nat
  k : Nat
  x : ACtx
  deriving DecidableEq, Repr

/-- What an Attar word comes to. -/
inductive AFate where
  /-- the context goes on at the next word -/
  | done (s : State) (x : ACtx)
  /-- it stays at the word -/
  | wait (s : State) (x : ACtx)
  /-- it goes on at another clause -/
  | jump (target : Int)
  | trap (code : Nat) (cause : Nat)
  /-- an access that has failed, or that must be asked for (log entry 23) -/
  | failed (s : State) (code cause : Nat)
  /-- the program is over -/
  | ended (s : State)

/-- The Attar context that the machine is issuing for. -/
def State.attarTurn (s : State) : Option ATurn :=
  match s.cursor with
  | .attar sock k => (tget (s.base sock).actxs k).map fun x => ⟨sock, k, x⟩
  | _ => none

def ACtx.xr (x : ACtx) (k : BitVec 4) : DWord := tgetD x.x k.toNat 0
def ACtx.setX (x : ACtx) (k : Nat) (v : DWord) : ACtx := { x with x := tput x.x k v }
def ACtx.lr (x : ACtx) (k : BitVec 3) : List DWord := tgetD x.l k.toNat (List.replicate 8 0)
def ACtx.setL (x : ACtx) (k : Nat) (v : List DWord) : ACtx := { x with l := tput x.l k v }
/-- The context past its word. -/
def ACtx.next (x : ACtx) : ACtx := { x with pc := x.pc + 1, left := x.left - 1, wait := .run }

def State.setACtx (s : State) (sock k : Nat) (x : ACtx) : State :=
  let b := s.base sock
  s.setBase sock { b with actxs := tput b.actxs k x }

/-- The signal of a program (R70, R350): the status word goes to its COLL. -/
def State.attarSignal (s : State) (x : ACtx) (status : Word) : State :=
  match tget s.flight x.op with
  | none => s
  | some f => match f.job with
    | .coll d lanes sock entry p _ => (s.setJob x.op f (.coll d lanes sock entry p (some (status ||| 1)))).settle x.op
    | _ => s

/-- A program ended by a trap code (R334). -/
def State.attarTrap (s : State) (sock k : Nat) (code cause : Nat) : State :=
  match tget (s.base sock).actxs k with
  | none => s
  | some x =>
    let status := setBit (setBits x.status 8 8 code) 1 true
    let s := if bit x.status 0 then s else s.attarSignal x status
    let s := s.errlog sock (16 + x.die) 1 3 (code + 256 * cause) (s.ctxid x.ctx).toNat 0
    let s := s.trace sock 3 k 2 (bits (s.ctxid x.ctx) 0 16) (leBytes 4 (code + 256 * cause) ++ leBytes 4 0 ++ leBytes 8 (4 * x.pc))
    s.endProgram sock k 1 (code + 256 * cause) (status ||| 1)

/-- The issue of a collective word (R332): a control transfer must be the last word of its clause. -/
def attarWord (i : Instr) (s : State) (body : ATurn → AFate) : Outcome :=
  match s.attarTurn with
  | none => .fault .noIssuer
  | some t =>
    if isCollTransfer i && t.x.left != 1 then .next (s.attarTrap t.sock t.k cILLCLAUSE 0)
    else match body t with
      | .done s' x => .next (s'.setACtx t.sock t.k x.next)
      | .wait s' x => .next (s'.setACtx t.sock t.k x)
      | .jump target =>
        if target < 0 || 16383 < target then .next (s.attarTrap t.sock t.k cILLCLAUSE 0)
        else .next (s.setACtx t.sock t.k { t.x with pc := target.toNat, left := 0, wait := .run })
      | .trap code cause => .next (s.attarTrap t.sock t.k code cause)
      | .failed s' code cause => .next (if code = cWAIT then s' else s'.attarTrap t.sock t.k code cause)
      | .ended s' => .next s'

/-- The change of a context by a word that touches nothing else. -/
def attarReg (i : Instr) (s : State) (f : ACtx → ACtx) : Outcome := attarWord i s fun t => .done s (f t.x)

/-- CMOVI (R342). -/
def execCmovi (xd sh : BitVec 4) (imm : BitVec 14) (s : State) : Outcome :=
  attarReg (.cmovi xd sh imm) s fun x => x.setX xd.toNat (imm.signExtend 64 <<< (4 * sh.toNat))

/-- CADDI (R342). -/
def execCaddi (xd xa : BitVec 4) (imm : BitVec 14) (s : State) : Outcome :=
  attarReg (.caddi xd xa imm) s fun x => x.setX xd.toNat (x.xr xa + imm.signExtend 64)

/-- CADD (R342). -/
def execCadd (xd xa xb : BitVec 4) (s : State) : Outcome :=
  attarReg (.cadd xd xa xb) s fun x => x.setX xd.toNat (x.xr xa + x.xr xb)

/-- The code with which a held fault that is cancelled is delivered (R216). -/
def cancelCode (cause : Nat) : Nat :=
  if cause = 3 then cPERMFAULT else if cause = 4 then cTOKEN else if cause = 5 then cREMATOM else cPAGEFAULT

/-- The checks of an access of a program or a unit that is never held (R331): the code of the failure. -/
def State.unitCheck (s : State) (die ctx : Nat) (va : DWord) (n : Nat) (k : AccKind) : Option (Nat × Nat) :=
  if !canonical va then some (cPERMFAULT, 0)
  else if va.toNat % n ≠ 0 then some (cMISALIGN, 0)
  else match (s.resolve die ctx k { lane := 0, va := va, len := n }).st with
    | .held cause _ _ => some (cancelCode cause, 0)
    | _ => none

/-- A load of an Attar program (R331, R343). [DEDUCED, log entry 44] -/
def State.attarLoad (s : State) (x : ACtx) (va : DWord) (n : Nat) : Except (Nat × Nat) (State × List Byte) :=
  match s.unitCheck x.die x.ctx va n .load with
  | some e => .error e
  | none =>
    let s := s.fillTlb x.die x.ctx va
    match s.vread x.die x.ctx va n with
    | .error e => .error e
    | .ok bs => .ok (s, bs)

/-- A store of an Attar program (R331, R343). -/
def State.attarStore (s : State) (x : ACtx) (va : DWord) (bs : List Byte) : Except (Nat × Nat) State :=
  match s.unitCheck x.die x.ctx va bs.length .store with
  | some e => .error e
  | none => (s.fillTlb x.die x.ctx va).vwrite x.die x.ctx va bs

/-- A failed access of a program, with what it leaves (R16, R91, R331). -/
def State.attarFailed (s : State) (x : ACtx) (va : DWord) (n : Nat) (e : Nat × Nat) : AFate := .failed (s.failedAt x.die x.ctx va n e) e.1 e.2

/-- The words of a line. -/
def lineOf (bs : List Byte) : List DWord := (leWords 8 8 bs).map (BitVec.ofNat 64)

/-- CLD (R343). -/
def execCld (xd xa : BitVec 4) (imm : BitVec 14) (s : State) : Outcome :=
  attarWord (.cld xd xa imm) s fun t =>
    let va := t.x.xr xa + imm.signExtend 64
    match s.attarLoad t.x va 8 with
    | .error e => s.attarFailed t.x va 8 e
    | .ok (s', bs) => .done s' (t.x.setX xd.toNat (BitVec.ofNat 64 (ofLeBytes bs)))

/-- CST (R343). -/
def execCst (xa xb : BitVec 4) (imm : BitVec 14) (s : State) : Outcome :=
  attarWord (.cst xa xb imm) s fun t =>
    let va := t.x.xr xa + imm.signExtend 64
    match s.attarStore t.x va (leBytes 8 (t.x.xr xb).toNat) with
    | .error e => s.attarFailed t.x va 8 e
    | .ok s' => .done s' t.x

/-- CLDL (R343). -/
def execCldl (ld : BitVec 3) (xa : BitVec 4) (imm : BitVec 14) (s : State) : Outcome :=
  attarWord (.cldl ld xa imm) s fun t =>
    let va := t.x.xr xa + imm.signExtend 64
    match s.attarLoad t.x va 64 with
    | .error e => s.attarFailed t.x va 64 e
    | .ok (s', bs) => .done s' (t.x.setL ld.toNat (lineOf bs))

/-- CSTL (R343). -/
def execCstl (xa : BitVec 4) (lb : BitVec 3) (imm : BitVec 14) (s : State) : Outcome :=
  attarWord (.cstl xa lb imm) s fun t =>
    let va := t.x.xr xa + imm.signExtend 64
    match s.attarStore t.x va (dwordBytes (t.x.lr lb)) with
    | .error e => s.attarFailed t.x va 64 e
    | .ok s' => .done s' t.x

/-- The bits of an element of an operation code, and its float format where it has one (R337). -/
def elemBits (k : Nat) : Nat := if k % 3 = 1 then 16 else 32
def elemFmt (k : Nat) : Option Fmt := if k % 3 = 0 then some f32 else if k % 3 = 1 then some bf16 else none

/-- The absolute value of an element as AMAX takes it (R337). -/
def elemAbs (k a : Nat) : Nat :=
  match elemFmt k with
  | some f => a % 2 ^ (f.ew + f.mw)
  | none => if 2 ^ 31 ≤ a then 2 ^ 32 - a else a

/-- A NaN element in its canonical form. -/
def elemCanon (k a : Nat) : Nat :=
  match elemFmt k with
  | some f => if (f.decode a).isNan then f.nanBits else a
  | none => a

/-- An operation on two elements (R337). -/
def elemOp (k a b : Nat) : Nat :=
  match k / 3, elemFmt k with
  | 0, some f => (f.add 0 (f.decode a) (f.decode b)).1
  | 0, none => (a + b) % 2 ^ 32
  | 1, some f => (f.minMax true a b).1
  | 1, none => if (BitVec.ofNat 32 a).slt (BitVec.ofNat 32 b) then b else a
  | 2, some f => (f.minMax false a b).1
  | 2, none => if (BitVec.ofNat 32 a).slt (BitVec.ofNat 32 b) then a else b
  | _, some f => (f.minMax true (elemAbs k a) (elemAbs k b)).1
  | _, none => max (elemAbs k a) (elemAbs k b)

/-- A word of a line changed element by element. -/
def mapElems (w : Nat) (f : Nat → Nat → Nat) (a b : DWord) : DWord :=
  (List.range (64 / w)).foldl (fun (v : DWord) e => setBits v (w * e) w (f (bits a (w * e) w) (bits b (w * e) w))) 0

/-- Two lines combined (R337, R344). -/
def lineOp (k : Nat) (a b : List DWord) : List DWord :=
  (a.zip b).map fun (p : DWord × DWord) => mapElems (elemBits k) (elemOp k) p.1 p.2

/-- A line changed element by element. -/
def lineMap (k : Nat) (f : Nat → Nat) (a : List DWord) : List DWord := a.map fun v => mapElems (elemBits k) (fun x _ => f x) v 0

/-- The element of the result of a slot without a contribution (R337). -/
def elemEmpty (k : Nat) : Nat :=
  match k / 3, elemFmt k with
  | 0, _ => 0
  | _, some f => f.nanBits
  | 1, none => 0x80000000
  | 2, none => 0x7FFFFFFF
  | _, none => 0

/-- Whether a line holds a NaN element of an operation's type (R338). -/
def lineNan (k : Nat) (a : List DWord) : Bool :=
  match elemFmt k with
  | none => false
  | some f => a.any fun v => (List.range (64 / elemBits k)).any fun e => (f.decode (bits v (elemBits k * e) (elemBits k))).isNan

/-- CVOP (R344). -/
def execCvop (ld la lb : BitVec 3) (k : BitVec 4) (s : State) : Outcome :=
  attarWord (.cvop ld la lb k) s fun t =>
    if 11#4 < k then .trap cILLOPND 0 else .done s (t.x.setL ld.toNat (lineOp k.toNat (t.x.lr la) (t.x.lr lb)))

/-- COPEN (R345). -/
def execCopen (xd xa xb : BitVec 4) (k : BitVec 4) (base : BitVec 8) (s : State) : Outcome :=
  attarWord (.copen xd xa xb k base) s fun t =>
    let e := s.base t.sock
    if 11#4 < k || t.x.xr xa == 0 || bit (t.x.xr xb) 63 then .trap cILLOPND 0
    else match (List.range 256).find? fun j => base.toNat ≤ j && (tget e.slots j).isNone with
      | none => .done s (t.x.setX xd.toNat 0xFFFFFFFFFFFFFFFF)
      | some j =>
        let slot : Slot := {
          state := 1
          owner := t.k
          tag := field (t.x.xr xd) 0 16
          part := (s.ctx t.x.ctx).partid
          op := k.toNat
          expMask := t.x.xr xa
          deadline := if t.x.xr xb = 0 then 0 else s.pkg.time + t.x.xr xb }
        .done (s.setBase t.sock { e with slots := tput e.slots j slot }) (t.x.setX xd.toNat (BitVec.ofNat 64 j))

/-- The packet that carries a contribution or a message (R313, R346, R348): the side field holds the destination word, with bit 56 set for a
message; TAG names the send; a message takes the pinned route. [DESIGN CHOICE, log entry 25] -/
def State.attarPacket (s : State) (sock tag : Nat) (part : BitVec 12) (message : Bool) (dest : DWord) (line : List DWord) : Packet :=
  { side := if message then setBit dest 56 true else dest
    tag := BitVec.ofNat 32 tag
    part := part
    spkg := BitVec.ofNat 12 s.pkg.id
    ssock := BitVec.ofNat 5 sock
    dpkg := field dest 44 12
    dsock := BitVec.ofNat 5 (bits dest 40 4)
    ord := message
    size := 5
    kind := 0x0C
    payload := line }

/-- A context's send, made or made again (R346, R348). [DEDUCED, log entry 44] -/
def State.attarSend (s : State) (sock k : Nat) (x : ACtx) (since : DWord) (message : Bool) (dest : DWord) (line : List DWord)
    (xd : Nat) : State :=
  let part := (s.ctx x.ctx).partid
  let m : AttarMsg := {
    srcPkg := BitVec.ofNat 12 s.pkg.id
    src := some (sock, s.nextOp)
    part := part
    tag := field dest 16 16
    slot := bits dest 32 8
    index := bits dest 0 6
    line := line }
  ({ s with nextOp := s.nextOp + 1 }.setACtx sock k { x with wait := .send since s.pkg.time false message dest m xd }).push
    [.routerPacketArrive sock 9 (s.attarPacket sock s.nextOp part message dest line)]

/-- CCONT (R346, R351). -/
def execCcont (xd xa : BitVec 4) (lb : BitVec 3) (s : State) : Outcome :=
  attarWord (.ccont xd xa lb) s fun t =>
    let dest := t.x.xr xa
    if field dest 56 8 != 0 || field dest 6 10 != 0 then .trap cILLOPND 0
    else .ended (s.attarSend t.sock t.k t.x s.pkg.time false dest (t.x.lr lb) xd.toNat)

/-- CSEND (R348, R351). -/
def execCsend (xd xa : BitVec 4) (lb : BitVec 3) (s : State) : Outcome :=
  attarWord (.csend xd xa lb) s fun t =>
    let dest := t.x.xr xa
    if field dest 56 8 != 0 || field dest 32 8 != 0 || field dest 0 16 != 0 then .trap cILLOPND 0
    else .ended (s.attarSend t.sock t.k t.x s.pkg.time true dest (t.x.lr lb) xd.toNat)

/-- CONTRIBUTION_RETRY (R338, R348): after a retry reply the line is sent again, or the send ends with status 2 once 2 ms have passed
since the first one. -/
def execContributionRetry (sock ctx : Nat) (s : State) : Outcome :=
  match tget (s.base sock).actxs ctx with
  | none => .next s
  | some x => match x.wait with
    | .send since _ true message dest m xd =>
      if 2000000 ≤ (s.pkg.time - since).toNat then .next (s.setACtx sock ctx (x.setX xd 2).next)
      else .next (s.attarSend sock ctx x since message dest m.line xd)
    | _ => .next s

/-- The reply to a send of this package's engine (R338, R346, R348): a final status, a retry, or an addressing error. [DEDUCED, log entry 44] -/
def State.attarReplied (s : State) (sock : Nat) (p : Packet) : State :=
  let mine := (s.base sock).actxs.find? fun c => match c.2.wait with
    | .send _ _ _ _ _ m _ => m.src == some (sock, p.tag.toNat)
    | _ => false
  match mine with
  | none => s
  | some (k, x) => match x.wait with
    | .send since last _ message dest m xd =>
      match p.fail with
      | some (code, _) => if code = cMEMUE then s.setACtx sock k (x.setX xd 3).next else s.attarTrap sock k cPERMFAULT 0
      | none =>
        if p.side = 2 then s.setACtx sock k { x with wait := .send since last true message dest m xd }
        else s.setACtx sock k (x.setX xd p.side).next
    | _ => s

/-- The slot that an operand names, where the context may use it (R347). -/
def State.ownSlot (s : State) (t : ATurn) (v : DWord) : Option Slot :=
  if field v 8 56 != 0 then none else (tget (s.base t.sock).slots (bits v 0 8)).filter fun e => e.owner == t.k

/-- The slot status word (R340). -/
def Slot.status (e : Slot) : DWord :=
  BitVec.ofNat 64 (e.op * 2 ^ 24 + e.drops * 2 ^ 16 + popcount e.arrMask * 256 + (if e.nanMask = 0 then 0 else 4)
    + (if e.state = 2 ∧ e.lateMask ≠ 0 then 2 else 0) + (if e.state = 2 then 1 else 0))

/-- CWAIT (R347). -/
def execCwait (xd xa : BitVec 4) (s : State) : Outcome :=
  attarWord (.cwait xd xa) s fun t =>
    match s.ownSlot t (t.x.xr xa) with
    | none => .trap cILLOPND 0
    | some e => if e.state = 2 then .done s (t.x.setX xd.toNat e.status) else .wait s { t.x with wait := .slot }

/-- CRES (R347). -/
def execCres (ld : BitVec 3) (xa : BitVec 4) (s : State) : Outcome :=
  attarWord (.cres ld xa) s fun t =>
    match s.ownSlot t (t.x.xr xa) with
    | none => .trap cILLOPND 0
    | some e => if e.state = 2 then .done s (t.x.setL ld.toNat e.value) else .trap cILLOPND 0

/-- CSTAT (R347). -/
def execCstat (xd xa : BitVec 4) (which : BitVec 14) (s : State) : Outcome :=
  attarWord (.cstat xd xa which) s fun t =>
    if which = 8 then .done s (t.x.setX xd.toNat (t.x.status.setWidth 64))
    else if which = 9 then .done s (t.x.setX xd.toNat s.pkg.time)
    else if 5#14 < which then .trap cILLOPND 0
    else match s.ownSlot t (t.x.xr xa) with
      | none => .trap cILLOPND 0
      | some e =>
        let v : DWord := match which.toNat with
          | 0 => e.expMask
          | 1 => e.arrMask
          | 2 => e.nanMask
          | 3 => e.lateMask
          | 4 => e.status
          | _ => e.deadline
        .done s (t.x.setX xd.toNat v)

/-- CFREE (R347). -/
def execCfree (xa : BitVec 4) (s : State) : Outcome :=
  attarWord (.cfree xa) s fun t =>
    match s.ownSlot t (t.x.xr xa) with
    | none => .trap cILLOPND 0
    | some _ =>
      let b := s.base t.sock
      .done (s.setBase t.sock { b with slots := tdel b.slots (bits (t.x.xr xa) 0 8) }) t.x

/-- Whether a stored message has not yet been in the store for 2 ms (R348). -/
def State.keeps (s : State) (m : Stored) : Bool := decide ((s.pkg.time - m.time).toNat < 2000000)

/-- CRECV (R348): the oldest stored message of its tag and partition, else it waits. -/
def execCrecv (ld : BitVec 3) (xa xb : BitVec 4) (s : State) : Outcome :=
  attarWord (.crecv ld xa xb) s fun t =>
    let b := s.base t.sock
    let tag : BitVec 16 := field (t.x.xr xa) 0 16
    if field (t.x.xr xa) 16 48 != 0 || bit (t.x.xr xb) 63 then .trap cILLOPND 0
    else match b.msgs.find? fun m => s.keeps m && m.tag == tag && m.part == (s.ctx t.x.ctx).partid with
      | some m => .done (s.setBase t.sock { b with msgs := b.msgs.erase m }) ((t.x.setL ld.toNat m.line).setX xb.toNat 0)
      | none => .wait { s with nextOp := s.nextOp + 1 }
          { t.x with wait := .recv s.pkg.time (t.x.xr xb) s.nextOp tag ld.toNat xb.toNat }

/-- CBZ (R349). -/
def execCbz (xa : BitVec 4) (disp : BitVec 14) (s : State) : Outcome :=
  attarWord (.cbz xa disp) s fun t => if t.x.xr xa = 0 then .jump (t.x.hdr + disp.toInt) else .done s t.x

/-- CBNZ (R349). -/
def execCbnz (xa : BitVec 4) (disp : BitVec 14) (s : State) : Outcome :=
  attarWord (.cbnz xa disp) s fun t => if t.x.xr xa = 0 then .done s t.x else .jump (t.x.hdr + disp.toInt)

/-- CBRA (R349). -/
def execCbra (disp : BitVec 14) (s : State) : Outcome := attarWord (.cbra disp) s fun t => .jump (t.x.hdr + disp.toInt)

/-- CSIG (R350): the program status word with RESULT; a second CSIG is refused. -/
def execCsig (xa : BitVec 4) (s : State) : Outcome :=
  attarWord (.csig xa) s fun t =>
    if bit t.x.status 0 then .trap cILLOPND 0
    else
      let status := setBit (setBits t.x.status 16 16 (bits (t.x.xr xa) 0 16)) 0 true
      .done (s.attarSignal t.x status) { t.x with status := status }

/-- CEND (R350). -/
def execCend (s : State) : Outcome :=
  attarWord .cend s fun t =>
    let status := if bit t.x.status 0 then t.x.status else setBits t.x.status 16 16 0
    let s := if bit t.x.status 0 then s else s.attarSignal t.x status
    .ended (s.endProgram t.sock t.k 0 0 (status ||| 1))

/-- The COLLs of a die whose starts found no room enter the queue of an engine (R223). -/
def State.enterStarts (s : State) (sock : Nat) : State :=
  s.flight.foldl (fun t x => match x.2.job with
    | .coll _ _ k _ _ _ => if k = sock then t.enterStart x.1 else t
    | _ => t) s

/-- ATTAR_START (R330): the oldest start takes the lowest free context, once its argument block has been read. [DEDUCED, log entry 44] -/
def execAttarStart (sock : Nat) (s : State) : Outcome :=
  let b := s.base sock
  match b.starts, tfree b.actxs 16 with
  | st :: rest, some k =>
    let core := st.gang / 64
    let line := s.unitLine st.die st.pte st.pa
    let x : ACtx := {
      pc := st.entry
      x := [(0, st.va), (1, BitVec.ofNat 64 (16 + coreDie core + 32 * coreNum core + 2048 * (st.gang % 64))), (2, BitVec.ofNat 64 s.pkg.id), (3, BitVec.ofNat 64 sock)]
      l := match line with
        | .ok bs => [(0, lineOf bs)]
        | .error _ => []
      gang := st.gang
      op := st.op
      ctx := st.ctx
      die := st.die
      launch := match s.gang st.gang with | some g => g.launch | none => 0 }
    let t := s
    let s := s.setBase sock { b with starts := rest, actxs := tput b.actxs k x }
    let s := s.enterStarts sock
    match line with
    | .ok _ => .next s
    | .error e => .next (if e.1 = cWAIT then { t with asks := t.asks ++ t.lineAsks st.die st.ctx st.pte st.pa } else s.attarTrap sock k e.1 e.2)
  | _, _ => .next s

/-- The result of a slot (R339): the contributions in ascending order of their indices. -/
def Slot.result (e : Slot) : List DWord :=
  match (maskList 64 e.arrMask).map fun c => tgetD e.lines c [] with
  | [] => List.replicate 8 (mapElems (elemBits e.op) (fun _ _ => elemEmpty e.op) 0 0)
  | v :: vs =>
    let v := if 9 ≤ e.op then lineMap e.op (elemAbs e.op) v else v
    lineMap e.op (elemCanon e.op) (vs.foldl (lineOp e.op) v)

/-- A slot complete (R339). -/
def Slot.complete (e : Slot) : Slot := { e with state := 2, lateMask := e.expMask &&& ~~~e.arrMask, value := e.result, lines := [] }

/-- The reply to the sender of a contribution or a message (R338): 0 stored, 1 dropped, 2 retry, 3 unavailable. -/
def State.attarReply (s : State) (sock : Nat) (m : AttarMsg) (status : Nat) : State :=
  match m.src with
  | none => s
  | some (src, tag) => s.push [.routerPacketArrive sock 9
      { side := BitVec.ofNat 64 status
        tag := BitVec.ofNat 32 tag
        part := m.part
        spkg := BitVec.ofNat 12 s.pkg.id
        ssock := BitVec.ofNat 5 sock
        dpkg := m.srcPkg
        dsock := BitVec.ofNat 5 src
        kind := 0x06 }]

/-- A contribution dropped (R338). -/
def State.dropContribution (s : State) (sock : Nat) (m : AttarMsg) (e : Slot) : State :=
  let b := s.base sock
  let e := { e with drops := min (e.drops + 1) 255 }
  let s := s.setBase sock { b with slots := tput b.slots m.slot e, drops := b.drops + 1 }
  let tag := match tget b.actxs e.owner with
    | some x => bits (s.ctxid x.ctx) 0 16
    | none => 0
  let s := s.trace sock 3 m.slot 5 tag (leBytes 4 m.slot ++ leBytes 4 m.index ++ leBytes 8 m.srcPkg.toNat)
  s.attarReply sock m 1

/-- CONTRIBUTION_ACCEPT (R338, R339). [DEDUCED, log entry 44] -/
def execContributionAccept (sock : Nat) (m : AttarMsg) (s : State) : Outcome :=
  let b := s.base sock
  if b.inReset then .next (s.attarReply sock m 3)
  else match tget b.slots m.slot with
    | none => .next (s.attarReply sock m 2)
    | some e =>
      if e.tag ≠ m.tag ∨ e.part ≠ m.part ∨ 4096 ≤ (b.slots.map fun x => x.2.lines.length).sum then .next (s.attarReply sock m 2)
      else if e.state = 2 || (e.deadline != 0 && e.deadline ≤ s.pkg.time) || !e.expMask.getLsbD m.index || e.arrMask.getLsbD m.index then
        .next (s.dropContribution sock m e)
      else
        let e := { e with
          arrMask := setBit e.arrMask m.index true
          nanMask := if lineNan e.op m.line then setBit e.nanMask m.index true else e.nanMask
          lines := tput e.lines m.index m.line }
        let e := if e.arrMask = e.expMask then e.complete else e
        .next ((s.setBase sock { b with slots := tput b.slots m.slot e }).attarReply sock m 0)

/-- SLOT_DEADLINE (R339). -/
def execSlotDeadline (sock slot : Nat) (s : State) : Outcome :=
  let b := s.base sock
  match tget b.slots slot with
  | none => .next s
  | some e =>
    if e.state = 1 ∧ e.deadline ≠ 0 ∧ e.deadline ≤ s.pkg.time then
      .next (s.setBase sock { b with slots := tput b.slots slot e.complete })
    else .next s

/-- Whether a CRECV of a time with a timeout has timed out, whether its step has been made or not (R348). -/
def State.recvOver (s : State) (since timeout : DWord) : Bool := timeout != 0 && decide (timeout ≤ s.pkg.time - since)

/-- The waiting CRECV that receives a message: of those that have not timed out the one that issued first (R348). [DEDUCED, log entry 44] -/
def State.receiver (s : State) (sock : Nat) (tag : BitVec 16) (part : BitVec 12) : Option (Nat × ACtx × Nat × Nat) :=
  (s.base sock).actxs.foldl (fun (best : Option (Nat × ACtx × Nat × Nat)) c =>
    match c.2.wait with
    | .recv since timeout order t ld xb =>
      if !s.recvOver since timeout && t == tag && (s.ctx c.2.ctx).partid == part && (match best with
        | none => true
        | some b => match b.2.1.wait with | .recv _ _ o _ _ _ => decide (order < o) | _ => true)
      then some (c.1, c.2, ld, xb) else best
    | _ => best) none

/-- MESSAGE_STORE (R348). [DEDUCED, log entry 44] -/
def execMessageStore (sock : Nat) (m : AttarMsg) (s : State) : Outcome :=
  let b := s.base sock
  if b.inReset then .next (s.attarReply sock m 3)
  else if 1024 ≤ (b.msgs.filter s.keeps).length then .next (s.attarReply sock m 2)
  else match s.receiver sock m.tag m.part with
    | some (k, x, ld, xb) => .next ((s.setACtx sock k ((x.setL ld m.line).setX xb 0).next).attarReply sock m 0)
    | none => .next ((s.setBase sock { b with msgs := b.msgs ++ [⟨m.tag, m.part, m.line, s.pkg.time⟩] }).attarReply sock m 0)

/-- MESSAGE_EXPIRY (R348): the oldest message goes once it has waited 2 ms. -/
def execMessageExpiry (sock : Nat) (s : State) : Outcome :=
  let b := s.base sock
  match b.msgs with
  | [] => .next s
  | m :: rest =>
    if !s.keeps m then .next (s.setBase sock { b with msgs := rest, drops := b.drops + 1 }) else .next s

/-- CRECV_TIMEOUT (R348). -/
def execCrecvTimeout (sock ctx : Nat) (s : State) : Outcome :=
  match tget (s.base sock).actxs ctx with
  | none => .next s
  | some x => match x.wait with
    | .recv since timeout _ _ _ xb =>
      if s.recvOver since timeout then .next (s.setACtx sock ctx (x.setX xb 1).next) else .next s
    | _ => .next s

end Sys2Proof.Machine
end

