-- ==== Sys2Proof/Machine/Fabric.lean ====
section
/-!
DEFINITION. The Fethes routers (R305 to R320, R326, R407): routes, credits and arbitration, combining, replies, links.
-/
namespace Sys2Proof.Machine

/-- The packet kinds of the response class (R313). -/
def isResponse (kind : BitVec 8) : Bool := kind == 5 || kind == 6 || kind == 7 || kind == 9 || kind == 0x0B || kind == 0x0E

/-- The flits of a packet (R312, R313): the header of 32 bytes and the payload. -/
def flits (p : Packet) : Nat := (32 + 8 * p.payload.length + 63) / 64

/-- The channel on which a packet crosses its next link (R310). -/
def channelOf (p : Packet) : Nat := (if isResponse p.kind then 8 else 0) + p.hop.toNat % 8

/-- The flits buffered, or on their way, at the next router's input channel (R310, R311). -/
def State.buffered (s : State) (r port chan : Nat) : Nat :=
  let n := neighbour r port
  (((s.base n).outs.flatMap (·.2)).filterMap fun q => if q.inPort == port && q.chan == chan then some (flits q.p) else none).sum
    + (s.agenda.filterMap fun e => match e with
      | .routerPacketArrive r' i p => if r' == n && i == port && p.vc.toNat == chan then some (flits p) else none
      | _ => none).sum

/-- The free credits for a packet on the channel it uses next (R310, R311). -/
def State.credits (s : State) (r port : Nat) (p : Packet) : Nat := 8 - s.buffered r port (channelOf p)

/-- The port a packet takes among the minimal ones (R306): the pinned route for an ordered packet, else the most free credits. [DEDUCED, log entry 45] -/
def State.choosePort (s : State) (r : Nat) (p : Packet) : List Nat → Option Nat
  | [] => none
  | g :: gs => if p.ord then some g
    else some (gs.foldl (fun best k => if s.credits r best p < s.credits r k p then k else best) g)

/-- The destination stack of a packet within its destination package (R9, R15, R307). -/
def State.destStack (s : State) (p : Packet) : Nat :=
  let k := p.dsock.toNat
  if k < 16 then k
  else if p.dpkg.toNat = s.pkg.id then
    if isResponse p.kind then s.attachFor (k % 8) (s.entryStack (p.addr.toNat % 2 ^ 44)) else s.entryStack (p.addr.toNat % 2 ^ 44)
  else (attached (k % 8)).headD 0

/-- Where a router sends a packet. -/
inductive Way where
  | out (port : Nat)
  /-- no way: the code and cause of the failure -/
  | fail (code cause : Nat)
  deriving DecidableEq, Repr

/-- Whether a partition may pass an external port (R326). [DEDUCED, log entry 45] -/
def Base.permits (b : Base) (port : Nat) (part : BitVec 12) : Bool := b.parts.contains (port * 4096 + part.toNat)

/-- The way of a packet at a router (R306, R307, R308, R309, R315, R326, R401): a port out of service is no way, nor is any for a request to another
package while the package has no identifier. -/
def State.way (s : State) (r : Nat) (p : Packet) : Way :=
  let b := s.base r
  let t := s.destStack p
  if p.dpkg.toNat = s.pkg.id then
    if (s.base t).inReset then .fail cMEMUE 3
    else if r = t then
      if p.dsock.toNat < 16 then .out 9
      else if outOfService s.pkg.down r (clientPort (p.dsock.toNat % 8)) then .fail cPERMFAULT 0
      else .out (clientPort (p.dsock.toNat % 8))
    else match s.choosePort r p (minimalPorts s.pkg.view r t) with
      | some g => .out g
      | none => .fail cPERMFAULT 0
  else
    let e := tgetD b.routes (p.dpkg.toNat * 16 + t) 0xF
    if !isResponse p.kind && !s.pkg.idSet then .fail cPERMFAULT 0
    else if 6 < e || 8 ≤ p.hop.toNat then .fail cPERMFAULT 0
    else if outOfService s.pkg.down r e || (5 ≤ e && !b.permits e p.part) then .fail cPERMFAULT 0
    else .out e

/-- The kind of the response to a request (R313). -/
def responseKind (kind : BitVec 8) : BitVec 8 :=
  if kind = 1 then 5 else if kind = 3 ∨ kind = 4 then 7 else if kind = 8 then 9 else 6

/-- The response to a packet, from a socket of this package. [DESIGN CHOICE, log entry 25] -/
def responseTo (p : Packet) (own sock : Nat) : Packet :=
  { addr := p.addr
    tag := p.tag
    part := p.part
    spkg := BitVec.ofNat 12 own
    ssock := BitVec.ofNat 5 sock
    dpkg := p.spkg
    dsock := p.ssock
    lat := p.lat
    ord := p.ord
    echo := p.echo
    leaves := p.leaves
    size := p.size
    kind := responseKind p.kind
    gidx := p.gidx
    gcnt := p.gcnt
    nopnd := p.nopnd }

/-- A router of the package that works, the given one where it does. -/
def State.upRouter (s : State) (r : Nat) : Nat :=
  if (s.base r).inReset then ((List.range 16).find? fun t => !(s.base t).inReset).getD r else r

/-- Whether two FADDG requests combine (R317). [DEDUCED, log entry 26] -/
def combines (p q : Packet) : Bool :=
  p.kind == 3 && q.kind == 3 && !p.ord && !q.ord && p.addr == q.addr && p.size == q.size && p.part == q.part
    && decide (p.leaves.toNat + q.leaves.toNat ≤ 8) && p.key.isNone && q.key.isNone

/-- Where the reply to a FADDG request goes: a leaf entry, or with bit 46 set an echo id (R318). -/
def replyEntry (p : Packet) : DWord :=
  BitVec.ofNat 64 (p.spkg.toNat * 2 ^ 52 + p.ssock.toNat * 2 ^ 47 + (if p.echo then 2 ^ 46 else 0) + p.tag.toNat)

/-- Two requests merged (R318): q arrived first. [DEDUCED, log entry 26] -/
def mergeFadd (own r id : Nat) (q p : Packet) : Packet :=
  { q with
    opnd := BitVec.ofNat 64 ((q.opnd.toNat + p.opnd.toNat) % 2 ^ (8 * 2 ^ q.size.toNat))
    leaves := q.leaves + p.leaves
    payload := q.payload ++ p.payload
    hop := if q.hop < p.hop then p.hop else q.hop
    spkg := BitVec.ofNat 12 own
    ssock := BitVec.ofNat 5 r
    tag := BitVec.ofNat 32 id
    echo := true }

/-- The echo id of an entry: i + 512 × GEN (R318). -/
def Base.echoId (b : Base) (i : Nat) : Nat := i + 512 * tgetD b.gens i 0

/-- The queue of an output with the first packet that combines replaced by the merged one. [DEDUCED, log entry 26] -/
def combineIn (own r id : Nat) (p : Packet) : List Queued → List Queued
  | [] => []
  | q :: t => if combines q.p p then { q with p := mergeFadd own r id q.p p } :: t else q :: combineIn own r id p t

/-- A packet that waits at an output, or that has combined with one that waits there (R311, R317). -/
def State.enqueue (s : State) (r out inPort : Nat) (p : Packet) : State :=
  let b := s.base r
  let q := tgetD b.outs out []
  let chan := if inPort ≤ 6 then p.vc.toNat else if isResponse p.kind then 8 else 0
  let plain : Base := { b with outs := tput b.outs out (q ++ [⟨inPort, chan, 0, p⟩]) }
  match q.find? fun x => combines x.p p with
  | none => s.setBase r plain
  | some x =>
    match tfree b.echo 512 with
    | none => s.setBase r plain
    | some i =>
      let e : Echo := {
        addr := p.addr
        part := p.part
        size := p.size.toNat
        leaves := x.p.leaves.toNat + p.leaves.toNat
        firstLeaves := x.p.leaves.toNat
        first := replyEntry x.p
        second := replyEntry p
        firstOp := x.p.opnd }
      s.setBase r { b with
        outs := tput b.outs out (combineIn s.pkg.id r (b.echoId i) p q)
        echo := tput b.echo i e }

/-- The 32-byte header of a packet, OPND in bits 255:192 (R312). -/
def headerBits (p : Packet) : BitVec 256 :=
  p.opnd ++ p.addr ++ p.tag ++ p.part ++ p.spkg ++ p.ssock ++ p.dpkg ++ p.dsock ++ p.hop ++ p.vc ++ BitVec.ofBool p.lat ++ BitVec.ofBool p.ord
    ++ BitVec.ofBool p.echo ++ p.leaves ++ p.size ++ p.kind ++ p.aop ++ p.gidx ++ p.gcnt ++ p.nopnd ++ p.rsvd

/-- Whether a router refuses a packet on arrival (R312). -/
def reservedPacket (p : Packet) : Bool := p.kind == 0 || 0x0E#8 < p.kind || p.rsvd != 0

/-- A packet refused by the partition map of the external port it came in by (R326); the trace record's expected partition is the lowest that the port
permits, 0 where it permits none, and its source is package × 32 + socket (R98). [DESIGN CHOICE, log entry 36] -/
def State.ingressDrop (s : State) (r port : Nat) (p : Packet) : State :=
  let b := s.base r
  let s := s.setBase r { b with ingressDrops := b.ingressDrops + 1 }
  let s := s.errlog r p.ssock.toNat 1 4 0 0 p.addr.toNat
  let expected := ((b.parts.filter fun x => x / 4096 == port).map fun x => x % 4096).foldl (fun (m : Option Nat) x => some (match m with
    | some y => min x y
    | none => x)) none |>.getD 0
  s.trace r 4 port 8 p.part.toNat (leBytes 4 p.part.toNat ++ leBytes 4 expected ++ leBytes 8 (p.spkg.toNat * 32 + p.ssock.toNat))

/-- The heads of an output: the oldest packet of each input channel, by ascending (input, channel) (R311, R316). -/
def headsOf (q : List Queued) : List (Nat × Queued) :=
  let heads := q.filter fun x => (q.find? fun y => y.inPort == x.inPort && y.chan == x.chan) == some x
  heads.foldl (fun (t : Tab Queued) x => if (tget t (x.inPort * 16 + x.chan)).isSome then t else tput t (x.inPort * 16 + x.chan) x) []

/-- The bytes of a packet (R312), and the flits of an external link up to the end of some bytes (R314). -/
def packetBytes (p : Packet) : Nat := 32 + 8 * p.payload.length
def extFlits (n : Nat) : Nat := (n + 239) / 240

/-- Whether an external link takes a packet (R310, R311, R314): the other end has credits for its flits, and the sender's replay buffer has room. -/
def Link.takes (l : Link) (p : Packet) : Bool :=
  decide (tgetD l.used (channelOf p) 0 + flits p ≤ 8) && decide (extFlits (l.sent + packetBytes p) ≤ l.acked + 512)

/-- A packet on an external link, its VC the channel that it crosses on, kept until all of its flits are acknowledged (R310, R314). [DEDUCED, log entry 45] -/
def Link.send (l : Link) (p : Packet) : Link :=
  let n := l.sent + packetBytes p
  let chan := p.vc.toNat
  { l with
    sent := n
    kept := l.kept ++ [(extFlits n, p)]
    used := tput l.used chan (tgetD l.used chan 0 + flits p) }

/-- One end of a link. -/
def State.linkAt (s : State) (r port : Nat) : Link := tgetD (s.base r).links port {}

/-- Whether a link retrains, at whichever of its ends in the package (R315). -/
def State.training (s : State) (r port : Nat) : Bool := (s.linkAt r port).training || (decide (port < 5) && (s.linkAt (neighbour r port) port).training)

/-- Whether a head of an output may leave (R311, R314, R315). -/
def State.eligible (s : State) (r out : Nat) (p : Packet) : Bool :=
  let l := s.linkAt r out
  !outOfService s.pkg.down r out && !s.training r out &&
    (if out < 5 then decide (flits p ≤ s.credits r out p) else if out < 7 then l.takes p else true)

/-- The choice of an output among its eligible heads (R316): the head granted and the pointer and quota afterwards. -/
def arbitrate (ageMax : Nat) (ptr : Nat × Nat) (hs : List (Nat × Queued)) : Option (Nat × Nat × Nat) :=
  match hs.filter fun h => ageMax ≤ h.2.age with
  | h :: t => some ((t.foldl (fun (b : Nat × Queued) x => if b.2.age < x.2.age then x else b) h).1, ptr.1, ptr.2)
  | [] =>
    if 0 < ptr.2 && hs.any fun h => h.1 == ptr.1 then some (ptr.1, ptr.1, ptr.2 - 1)
    else
      match (hs.filter fun h => ptr.1 < h.1) ++ (hs.filter fun h => h.1 ≤ ptr.1) with
      | [] => none
      | h :: _ => some (h.1, h.1, (if h.2.p.lat then 4 else 1) - 1)

/-- The queue after a grant: the granted head is gone, every other eligible head is a step older (R316). -/
def ageQueue (hs : List (Nat × Queued)) (granted : Nat) (q : List Queued) : List Queued :=
  let won := hs.find? fun h => h.1 == granted
  let q := match won with | some h => q.erase h.2 | none => q
  hs.foldl (fun q h => if h.1 == granted then q
    else q.replace h.2 { h.2 with age := min (h.2.age + 1) 255 }) q

/-- The parts of an access changed: an ACQ that has bound a value drops the core's L1 (R63), and the data of some of the lanes that have theirs lands
at once, that of the others at the operation's completion (R36). [DEDUCED, log entry 22; DESIGN CHOICE, log entry 53] -/
def State.bindParts (s : State) (op : Nat) (f : Flight) (a : Access) (ps : List Part) : State :=
  let fresh := ps.filter fun q => !q.isOpen && !a.parts.contains q
  let early := fresh.filter fun q => Config.landsEarly s.steps q.lane
  let s := { s with flight := tput s.flight op (f.setParts a ps) }
  let s := if a.kind == .acq && fresh != [] then s.dropL1 (f.gang / 64) else s
  match if early = [] then none else s.gang f.gang with
  | none => s
  | some g => s.setGang f.gang (g.landParts { a with parts := early })

/-- Whether a reply comes from where a part was sent: host memory, or the package's own address space (R215). -/
def Part.from (q : Part) (p : Packet) : Bool := q.st == AccSt.sent && (q.aper == 2) == (p.spkg == p.dpkg && p.ssock == 24)

/-- The parts of an access that a reply answers, changed. -/
def State.answerParts (s : State) (op : Nat) (f : Flight) (a : Access) (p : Packet) (g : Part → AccSt) : State :=
  let line := p.kind != 7 && p.kind != 0x0E
  let hit (q : Part) : Bool := q.from p && (if line then q.pa / 64 == p.addr.toNat / 64 else q.pa == p.addr.toNat)
  s.bindParts op f a (a.parts.map fun q => if hit q then { q with st := g q } else q)

/-- Whether the masked bytes of a line meet a part. -/
def Part.meets (q : Part) (mask : BitVec 64) : Bool := (List.range q.len).any fun j => mask.getLsbD (q.pa % 64 + j)

/-- The lanes' values of an atomic's reply (R71, R73, R313): for FADDG each lane's old value follows those of the lanes below it in the group, of which
`ps` are the parts. -/
def atomValue (a : Access) (ps : List Part) (p : Packet) (q : Part) : Nat :=
  match a.kind with
  | .fadd => ((p.payload.headD 0).toNat + ((ps.filter fun x => x.seat < q.seat).map (·.data)).sum) % 2 ^ (8 * q.len)
  | _ =>
    let bytes := dwordBytes p.payload
    fieldBytes bytes ((q.seat - operandsPer a q.len * p.gidx.toNat) * q.len) q.len

/-- Whether a part's value travels in a packet of an atomic group's reply. -/
def inGroup (a : Access) (p : Packet) (q : Part) : Bool :=
  match a.kind with
  | .fadd => true
  | _ => q.seat / operandsPer a q.len == p.gidx.toNat

/-- A line of a peer region brought into the package's cache (R217, R322), with its tag where it is sealed, after which the accesses that asked for it are
performed there; where the package no longer holds the token that they need, they are translated again. -/
def State.fillPeer (s : State) (op : Nat) (f : Flight) (a : Access) (line : Nat) (bytes : List Byte) (tag : Option (Nat × List Byte)) : State :=
  let held := match tget s.pkg.tokens (regionOf (line * 64)) with
    | some t => t.ctxs != [] && (t.exclusive || !a.kind.writes)
    | none => false
  match (if held then none else s.gang f.gang) with
  | some g =>
    let mine := a.parts.filter fun (q : Part) => q.st == AccSt.sent && q.peerCached && q.pa / 64 == line
    let r := s.translateParts g a.kind (mine.map fun (q : Part) => { q with st := .ready })
    ({ r.1 with flight := tput r.1.flight op (f.setParts a (replaceParts a.parts r.2)) }).sendReady op
  | none =>
    let mem := match tag with
      | some (k, bs) => s.mem.write k bs
      | none => s.mem
    let s := { s with mem := { mem.write (peerKey (line * 64)) bytes with cached := tput mem.cached line false } }
    let ps := a.parts.map fun (q : Part) => if q.st == AccSt.sent && q.aper == 1 && q.pa / 64 == line then { q with st := .ready } else q
    ({ s with flight := tput s.flight op (f.setParts a ps) }).sendReady op

/-- A line of plaintext after some parts of an access, each with what it returns (R203, R206). -/
def Access.onLine (a : Access) (ps : List Part) (line : List Byte) : List Byte × List Part :=
  let r := ps.foldl (fun (x : Mem × List Part) p =>
    let y := x.1.perform a (p.pa % 64) p
    (y.1, x.2 ++ [{ p with st := .done y.2 }])) (({} : Mem).write 0 line, [])
  (r.1.read 0 64, r.2)

/-- A read of a line of a sealed page by the requester's base die: its ciphertext, once it and then its tag have come (R324). -/
def State.awayLine (s : State) (k : KeySlot) (line : Nat) : Except (Nat × Nat) (List Byte) :=
  match s.told line with
  | .none => .error (cWAIT, 0)
  | .bad c u => .error (c, u)
  | .ok raw => match s.tagAway k line with
    | .error e => .error e
    | .ok tag => if tag = k.tag line raw then .ok raw else .error (cMEMUE, 2)

/-- The requester's base die works on a line of a sealed page for an access (R324, R325): a read deciphers it, or brings it into the cache under a
token; a write or an atomic takes it locked, changes it and writes it and then its tag. [DEDUCED, log entry 28] -/
def State.sealedStep (s : State) (op line : Nat) : State :=
  match tget s.flight op with
  | none => s
  | some f => match f.access, s.gang f.gang with
    | some a, some g =>
      let mine := a.parts.filter fun (q : Part) => q.st == AccSt.sent && q.aper != 2 && q.pa / 64 == line && q.key.isSome
      let pa := line * 64
      let finish (s : State) (new : List Part) : State :=
        (((s.dropLine g.core (physKey s.pkg.id pa)).bindParts op f a (replaceParts a.parts new)).settle op).sendAll g.core
      let failed (s : State) (e : Nat × Nat) : State :=
        finish s (mine.map fun q => { q with st := if a.kind == .pref then .done 0 else .failed e.1 e.2 q.va })
      match mine with
      | [] => s
      | q :: _ => match q.key.bind fun id => s.keyFor id.toNat pa with
        | none => failed s (cPAGEFAULT, 0)
        | some k =>
          let asks : List Ask := [s.lineAsk g.die f.ctx (if s.told pa == .none then pa else k.tagAddr pa)]
          if !a.kind.writes || q.peerCached then
            match s.awayLine k pa with
            | .error e => if e.1 = cWAIT then { s with asks := s.asks ++ asks } else failed s e
            | .ok raw =>
              if q.peerCached then (s.fillPeer op f a line raw (some (physKey s.pkg.id (k.tagAddr pa), k.tag pa raw))).settle op
              else finish s (a.onLine mine (openLine k.dataKey k.tweakKey pa raw)).2
          else
            let whole : Bool := (a.kind == .store || a.kind == .rel) && (mergeStores mine).2 == BitVec.allOnes 64
            match s.sealAway g.die f.ctx k pa whole fun old => (a.onLine mine old).1 with
            | .error e => failed s e
            | .ok t =>
              if t.asks ≠ s.asks then t
              else
                let old := match s.askedAs { s.lineAsk g.die f.ctx pa with side := 1 } with
                  | some (_, .ok raw) => openLine k.dataKey k.tweakKey pa raw
                  | _ => List.replicate 64 0
                finish t (a.onLine mine old).2
    | _, _ => s

/-- The core's L1 after a reply (R56, R59, R208): a read brings its line in, unless it is NT, uncached at a peer, to the scratchpad window, or a prefetch
that names the memory-side cache, in all of which a copy that stands there is still renewed; a read whose line has left the L1 since it was sent brings
nothing, as it may be older than what has made it leave (R56, R63, R65); a store renews a copy; an atomic, and an access of which some lanes have failed,
drops it. [DESIGN CHOICE, log entry 24] -/
def State.replyL1 (s : State) (core : Nat) (a : Access) (p : Packet) : State :=
  let mine := a.parts.filter fun (q : Part) => q.from p && q.pa / 64 == p.addr.toNat / 64
  match mine with
  | [] => s
  | q :: _ =>
    let k := q.memAt s / 64
    let c := s.core core
    let had := tget c.l1 k
    let put (line : List Byte) : State := s.setCore core { c with l1 := tput c.l1 k line }
    let barred := a.nt || (q.aper == 1 && !q.peerCached) || (a.kind == AccKind.pref && a.scope != 0)
    if p.kind = 5 ∧ p.fail.isNone then
      if q.stale then s
      else if (barred || a.space != .virt) && had.isNone then s else put (dwordBytes p.payload)
    else match had with
      | none => s
      | some line =>
        if p.kind = 6 ∧ p.fail.isNone then put (mine.foldl (fun (l : List Byte) (x : Part) => patchBytes l (x.pa % 64) (leBytes x.len x.data)) line)
        else s.setCore core { c with l1 := tdel c.l1 k }

/-- A grant at the package that asked for it (R221, R322). -/
def State.granted (s : State) (p : Packet) : State :=
  let region := regionOf p.addr.toNat
  let t := (tget s.pkg.tokens region).getD ⟨false, [], false⟩
  let ex := p.side == 1
  let mine := tget s.flight p.tag.toNat
  let ctxs := match mine with | some f => if t.ctxs.contains f.ctx then t.ctxs else f.ctx :: t.ctxs | none => t.ctxs
  let more := s.flight.any fun x => x.1 != p.tag.toNat && match x.2.job with
    | .token _ _ _ q none => q.st == AccSt.sent && regionOf q.pa == region
    | _ => false
  let s := ({ s with pkg := { s.pkg with tokens := tput s.pkg.tokens region ⟨ex, ctxs, more⟩ } }).enterReplicas region
  match mine with
  | none => if ctxs = [] then s.returnToken region p.part else s
  | some f => match f.job with
    | .token d lanes e q none => (s.setJob p.tag.toNat f (.token d lanes e q (some 0))).settle p.tag.toNat
    | _ => s

/-- The unit whose requests have been answered goes on (log entry 23): a pending step and an input are made again, and a region's return is taken
further; a split or an Attar context issues again by itself. -/
def State.resume (s : State) (owner : Cursor) (part : BitVec 12) : State :=
  match owner with
  | .event e => s.push [e]
  | .input i => { s with inputs := i :: s.inputs }
  | .region code => s.finishRegion code part
  | _ => s

/-- The answer of a request that a unit has sent; a peer line that it has written at home is no longer the package's to cache (R74). [DESIGN CHOICE, log
entry 23] -/
def State.answerAsk (s : State) (tag : Nat) (x : Asked) (p : Packet) : State :=
  let a : Answer := match p.fail with
    | some e => .bad e.1 e.2
    | none => .ok (dwordBytes p.payload)
  let s := { s with asked := tput s.asked tag { x with answer := a } }
  let s := if x.ask.kind == .read then s else s.forgetLine (x.ask.pa / 64)
  if s.awaits x.owner then s else s.resume x.owner x.ask.part

/-- What a reply leaves a part of an access in (R202, R216, R218): a failure marks the parts that it names, or all of them. -/
def State.answered (s : State) (a : Access) (hit : List Part) (p : Packet) (q : Part) : AccSt :=
  match p.fail with
  | some (code, cause) =>
    if a.kind == AccKind.pref then .done 0
    else if p.side = 0 || q.meets p.side || p.kind = 7 then
      .failed code cause (if code = cBARCLOB then s.mem.tagAddr (q.pa % 2 ^ 44) q.len q.va else q.va)
    else if p.kind = 5 then .done (fieldBytes (dwordBytes p.payload) (q.pa % 64) q.len) else .done 0
  | none =>
    if p.kind = 0x0E then .failed cATOMLOST 0 q.va
    else if p.kind = 7 then if inGroup a p q then .done (atomValue a hit p q) else .sent
    else if p.kind = 5 then .done (fieldBytes (dwordBytes p.payload) (q.pa % 64) q.len)
    else .done 0

/-- A reply at the compute die that asked (R202, R216, R218). -/
def State.deliverReply (s : State) (p : Packet) : State :=
  let op := p.tag.toNat
  let outside : Bool := p.spkg.toNat != s.pkg.id
  match tget s.asked op with
  | some x => s.answerAsk op x p
  | none => match tget s.flight op with
    | none => if p.kind = 9 ∧ p.fail.isNone then s.granted p else s
    | some f => match f.job with
      | .token d lanes ex q none =>
        match p.fail with
        | some (code, cause) =>
          ((s.setJob op f (.token d lanes ex { q with st := .failed code cause q.va } none))).settle op
        | none => s.granted p
      | .access a =>
        let hit := a.parts.filter fun q => q.from p && q.pa == p.addr.toNat
        let line := p.addr.toNat / 64
        let fill := outside && p.kind = 5 && p.fail.isNone &&
          a.parts.any fun (q : Part) => q.from p && q.peerCached && q.pa / 64 == line
        let s := s.replyL1 (f.gang / 64) a p
        let s := if outside && a.kind.writes && p.kind != 5 then s.forgetLine line else s
        let f := (tget s.flight op).getD f
        let s := if fill then s.fillPeer op f a line (dwordBytes p.payload) none
          else s.answerParts op f a p (s.answered a hit p)
        (s.settle op).sendAll (f.gang / 64)
      | _ => s

/-- A holder's copies of a region are invalidated: with the last of them the write that waits is performed (R74). [DEDUCED, log entry 43] -/
def State.copyGone (s : State) (sock pkg region : Nat) : State :=
  let b := s.base sock
  match tget b.dir region with
  | none => s
  | some e =>
    let e := { e with stale := e.stale.erase pkg }
    let s := s.setBase sock { b with dir := tput b.dir region e }
    match e.stale, e.writer with
    | [], some (some q) => s.push [.memoryRequest q.dsock.toNat q]
    | _, _ => s

/-- The mailbox message that a management packet carries: its 64 bytes are those of R389's ring. [DEDUCED, log entry 35] -/
def mailOf (p : Packet) : Mail :=
  let bs := dwordBytes p.payload
  ⟨p.side.toNat, BitVec.ofNat 32 (fieldBytes bs 4 4), fieldBytes bs 2 1, p.payload.drop 1⟩

/-- A management packet at the die that serves it (R313, R389). [DEDUCED, log entry 35] -/
def State.deliverMail (s : State) (p : Packet) : State :=
  let bs := dwordBytes p.payload
  s.push [.mail (fieldBytes bs 0 1) (fieldBytes bs 1 1) (mailOf p)]

/-- A packet handed to the units of a base die (R305, R313). [DEDUCED, log entry 35] -/
def State.deliverBase (s : State) (r : Nat) (p : Packet) : State :=
  let k := p.kind.toNat
  if 1 ≤ k ∧ k ≤ 4 then s.push [.memoryRequest r p]
  else if k = 8 then s.push [.tokenAcquireRequest r p]
  else if k = 0x0A then
    if p.side = 1 then s.returnLines (regionOf p.addr.toNat) 1 p.part else s.push [.tokenRecall (regionOf p.addr.toNat) p.part]
  else if k = 0x0B then
    if p.side = 1 then s.copyGone r p.spkg.toNat (regionOf p.addr.toNat)
    else s.push [.recallAck r p.spkg.toNat (regionOf p.addr.toNat)]
  else if k = 0x0C then
    let m : AttarMsg := {
      srcPkg := p.spkg
      src := some (p.ssock.toNat, p.tag.toNat)
      part := p.part
      tag := field p.side 16 16
      slot := bits p.side 32 8
      index := bits p.side 0 6
      line := p.payload }
    s.push [if bit p.side 56 then .messageStore r m else .contributionAccept r m]
  else if k = 0x0D then s.deliverMail p
  else if k = 0x0E then s.push [.failedReply r p]
  else if p.echo then s.push [.echoReply r p]
  else match tget s.asked p.tag.toNat with
    | some x => s.answerAsk p.tag.toNat x p
    | none => if k = 6 then s.attarReplied r p else s

/-- A granted packet leaves by its port (R10, R305, R310, R314): over a link with one hop more, out of the package, or to a client. A request of this
package that leaves it is kept until its response comes (R407). -/
def State.depart (s : State) (r out : Nat) (p : Packet) : State :=
  if out < 7 then
    let p' := { p with vc := BitVec.ofNat 4 (channelOf p), hop := p.hop + 1 }
    if out < 5 then s.push [.routerPacketArrive (neighbour r out) out p']
    else
      let b := s.base r
      let s := s.setBase r { b with links := tput b.links out ((tgetD b.links out {}).send p') }
      let s := if !isResponse p.kind && p.kind != 0x0A && p.kind != 0x0D && p.spkg.toNat = s.pkg.id then
          { s with pkg := { s.pkg with outbound := s.pkg.outbound ++ [(r, p, s.pkg.uptime)] } } else s
      s.emit (.ext r out p')
  else if out = 9 then s.deliverBase r p
  else if isResponse p.kind then s.deliverReply p
  else if p.kind = 0x0D then s.deliverMail p
  else s.push [.memoryRequest p.dsock.toNat p]

/-- A reply for one of the two destinations of an echo record (R319, R320). -/
def echoAnswer (own r : Nat) (p : Packet) (dest : DWord) (value : Nat) (leaves : List DWord) : Packet :=
  { p with
    opnd := 0
    spkg := BitVec.ofNat 12 own
    ssock := BitVec.ofNat 5 r
    dpkg := field dest 52 12
    dsock := field dest 47 5
    tag := field dest 0 32
    echo := bit dest 46
    hop := 0
    leaves := BitVec.ofNat 4 leaves.length
    payload := if p.kind = 0x0E then leaves else BitVec.ofNat 64 value :: leaves }

/-- The record that an echo id names, where it is valid, of the same generation and correctable (R318, R320). -/
def Base.echoOf (b : Base) (id : Nat) : Option Echo :=
  if id / 512 = tgetD b.gens (id % 512) 0 ∧ !b.echoBad.contains (id % 512) then tget b.echo (id % 512) else none

/-- A base die with an echo record freed: the entry's next use has the next generation (R318). -/
def Base.freeEcho (b : Base) (id : Nat) : Base :=
  { b with
    echo := tdel b.echo (id % 512)
    echoBad := b.echoBad.filter (· != id % 512)
    gens := tput b.gens (id % 512) ((id / 512 + 1) % 128) }

/-- The leaves that the reply destinations of a record lead to, through the records of this package's routers (R318). -/
def State.leavesOf (s : State) : Nat → DWord → List DWord
  | 0, d => [d]
  | n + 1, d =>
    if bit d 46 then match (s.base (bits d 47 5)).echoOf (bits d 0 32) with
      | some e => s.leavesOf n e.first ++ s.leavesOf n e.second
      | none => []
    else [d]

/-- The records of a router that lie on the way of a failed reply to some leaves: their element is its, and their leaves are among them. -/
def State.echoesUnder (s : State) (r : Nat) (p : Packet) (leaves : List DWord) : List Nat :=
  (s.base r).echo.filterMap fun x =>
    let mine := s.leavesOf 8 x.2.first ++ s.leavesOf 8 x.2.second
    if x.2.addr == p.addr && mine != [] && mine.all leaves.contains then some ((s.base r).echoId x.1) else none

/-- The leaves of a failed reply completed with ATOMLOST, each at its requester, and the records that it meets on the reply path freed (R320). [DEDUCED,
log entry 26] -/
def State.failLeaves (s : State) (r : Nat) (p : Packet) (leaves : List DWord) : State :=
  let s := (List.range 16).foldl (fun (t : State) b =>
    (s.echoesUnder b p leaves).foldl (fun (t : State) id => t.setBase b ((t.base b).freeEcho id)) t) s
  s.push (leaves.map fun e => .routerPacketArrive r 9 (echoAnswer s.pkg.id r { p with kind := 0x0E } e 0 [e]))

/-- A router that finds no record for an echo id (R98, R320): a record of kind 6 is traced, what is left of the lost one is freed, and the reply's leaves
fail. [DEDUCED, log entry 26] -/
def State.echoLost (s : State) (router : Nat) (p : Packet) (leaves : List DWord) : State :=
  let s := s.trace router 4 0 6 p.part.toNat (leBytes 8 p.addr.toNat ++ leBytes 8 p.tag.toNat)
  let b := s.base router
  let s := if b.echoBad.contains (p.tag.toNat % 512) then s.setBase router (b.freeEcho p.tag.toNat) else s
  s.failLeaves router p leaves

/-- A lock of a sealed line gone with a step of its holder that fails (R325). [DEDUCED, log entry 28] -/
def State.dropLock (s : State) (p : Packet) : State :=
  if (p.kind = 1 ∨ p.kind = 2) ∧ 2 ≤ p.side.toNat % 4 then
    { s with mem := { s.mem with locks := s.mem.locks.filter fun l => l.2 != (p.spkg.toNat, p.side.toNat / 4) } }
  else s

/-- A request failed: its failure goes back to its requester (R16), and a lock that it carries on is let go (R325). [DESIGN CHOICE, log entry 25] -/
def State.failRequest (s : State) (r : Nat) (p : Packet) (code cause : Nat) : State :=
  (s.dropLock p).push [.routerPacketArrive (s.upRouter r) 9
    { responseTo p s.pkg.id r with
      payload := if p.kind = 3 then 0 :: p.payload else []
      fail := some (code, cause) }]

/-- A recall, or an invalidation, that cannot reach its holder: what waits for it at the home directory fails, item by item, a host access as an Unsupported
Request (R16, R18). [DESIGN CHOICE, log entry 25] -/
def State.failRecall (s : State) (p : Packet) (code cause : Nat) : State :=
  let home := p.ssock.toNat
  let b := s.base home
  match (if p.spkg.toNat = s.pkg.id then tget b.dir (regionOf p.addr.toNat) else none) with
  | none => s
  | some e =>
    let host : Bool := e.writer == some none || (s.pkg.hostq.head?.any fun r => r.recalled.contains p.dpkg.toNat)
    let s := s.setBase home { b with dir := tput b.dir (regionOf p.addr.toNat) { e with
      pending := []
      writer := none
      stale := [] } }
    let s := if host then { s with pkg := { s.pkg with hostq := s.pkg.hostq.drop 1 } }.emit (.pcie none) else s
    let lost := e.pending.map (·.2.2) ++ (match e.writer with | some (some q) => [q] | _ => [])
    lost.foldl (fun (s : State) q => s.failRequest home q code cause) s

/-- A response for a base die in reset: the echo record that it names is lost with the die, so that its leaves fail (R320), and a request of the package is
answered with the failure. [DEDUCED, log entry 26] -/
def State.failReset (s : State) (r : Nat) (p : Packet) : State :=
  if p.echo then
    (s.trace p.dsock.toNat 4 0 6 p.part.toNat (leBytes 8 p.addr.toNat ++ leBytes 8 p.tag.toNat)).failLeaves (s.upRouter r) p
      (if p.kind = 0x0E then p.payload else p.payload.drop 1)
  else match tget s.asked p.tag.toNat with
    | some x => s.answerAsk p.tag.toNat x p
    | none => s

/-- A packet failed (R16, R18, R407): a request returns its failure. A response for another package is dropped; one for a compute die of this package that
no attached router reaches fails there, as does one for a base die. A recall that has come here goes on at a base die that works, as every one holds the
token table (R322); a management message whose die is in reset is answered with STATUS 4, one that finds no way with STATUS 1 (R389). [DESIGN CHOICE, log
entry 25] -/
def State.returnFailure (s : State) (r : Nat) (p : Packet) (code cause : Nat) : State :=
  if isResponse p.kind then
    if p.dpkg.toNat ≠ s.pkg.id then s
    else
      let q := { p with fail := some (code, cause) }
      if 16 ≤ p.dsock.toNat then s.deliverReply q
      else if (s.base p.dsock.toNat).inReset then s.failReset r q
      else s.deliverBase p.dsock.toNat q
  else if p.kind = 0x0A then
    if p.dpkg.toNat = s.pkg.id ∧ code = cMEMUE ∧ !(s.base (s.upRouter r)).inReset then s.deliverBase (s.upRouter r) p else s.failRecall p code cause
  else if p.kind = 0x0D then
    if p.spkg.toNat = s.pkg.id then s.replyWords (mailOf p) (if code = cMEMUE then 4 else 1) [] else s
  else s.failRequest r p code cause

/-- A packet that finds no way (R16, R18, R309, R326, R407): an ERRLOG record for an addressing error, and for what no response of the requester tells of,
and the packet fails. -/
def State.failPacket (s : State) (r : Nat) (p : Packet) (code cause : Nat) : State :=
  let s := if code = cPERMFAULT ∨ isResponse p.kind ∨ p.kind = 0x0A ∨ p.kind = 0x0D then
    s.errlog r p.ssock.toNat 1 4 (code + 256 * cause) 0 p.addr.toNat else s
  s.returnFailure r p code cause

/-- Whether a response answers a request that has left the package. -/
def answersRequest (p q : Packet) : Bool :=
  q.tag == p.tag && q.echo == p.echo && q.ssock == p.dsock && q.addr == p.addr && (p.kind != 7 || q.gidx == p.gidx)

/-- A failed reply of a peer's router to leaves of a request that left the package combined (R320): the request is no longer kept, and its record no longer
held, once every leaf has had one. [DEDUCED, log entry 26] -/
def State.leafFailed (s : State) (p : Packet) : Option State :=
  match (if p.kind = 0x0E then s.pkg.outbound.find? fun x => x.2.1.kind == 3 && x.2.1.addr == p.addr && p.payload != []
      && p.payload.all x.2.1.payload.contains else none) with
  | none => none
  | some x =>
    let q := x.2.1
    let left := q.leaves - BitVec.ofNat 4 p.payload.length
    if 0 < left.toNat ∧ p.payload.length < q.leaves.toNat then
      some { s with pkg := { s.pkg with outbound := s.pkg.outbound.replace x (x.1, { q with leaves := left }, x.2.2) } }
    else
      let s := { s with pkg := { s.pkg with outbound := s.pkg.outbound.erase x } }
      some (if q.echo then s.setBase q.ssock.toNat ((s.base q.ssock.toNat).freeEcho q.tag.toNat) else s)

/-- A response that has come from outside for a request of this package: the request is no longer kept; without one the response is dropped (R407). -/
def State.accept (s : State) (p : Packet) : Option State :=
  if !isResponse p.kind || p.kind = 0x0B || p.dpkg.toNat ≠ s.pkg.id then some s
  else match s.pkg.outbound.find? fun x => answersRequest p x.2.1 with
    | none => s.leafFailed p
    | some x => some { s with pkg := { s.pkg with outbound := s.pkg.outbound.erase x } }

/-- A packet routed at a router that works (R306, R309). -/
def State.routePacket (s : State) (router inPort : Nat) (p : Packet) : State :=
  match s.way router p with
  | .out port => s.enqueue router port inPort p
  | .fail code cause => s.failPacket router p code cause

/-- ROUTER_PACKET_ARRIVE (R306, R309, R312, R317, R326, R407). A packet that comes to a router in reset goes on from one that works (R308, R320).
[DEDUCED, log entry 34] -/
def execRouterPacketArrive (router inPort : Nat) (p : Packet) (s : State) : Outcome :=
  let r := s.upRouter router
  if reservedPacket p then .next (s.errlog router p.ssock.toNat 1 4 0 0 p.addr.toNat)
  else if inPort = 5 ∨ inPort = 6 then
    if !(s.base router).permits inPort p.part then .next (s.ingressDrop router inPort p)
    else match s.accept p with
      | none => .next s
      | some s' => .next (s'.routePacket r (if r = router then inPort else 9) p)
  else .next (s.routePacket r (if r = router then inPort else 9) p)

/-- OUTPUT_GRANT (R316). -/
def execOutputGrant (router out : Nat) (s : State) : Outcome :=
  let b := s.base router
  let q := tgetD b.outs out []
  let hs := (headsOf q).filter fun h => s.eligible router out h.2.p
  match arbitrate b.ageMax (tgetD b.ptr out (0, 0)) hs with
  | none => .next s
  | some (won, ptr, quota) =>
    match hs.find? fun h => h.1 == won with
    | none => .next s
    | some h =>
      let q' := ageQueue hs won q
      let b' : Base := { b with
        outs := if q' = [] then tdel b.outs out else tput b.outs out q'
        ptr := tput b.ptr out (ptr, quota) }
      .next ((s.setBase router b').depart router out h.2.p)

/-- ECHO_REPLY (R319, R320): a record of matching GEN sends the reply on to both destinations; without one the record is lost. [DEDUCED, log entry 26] -/
def execEchoReply (router : Nat) (p : Packet) (s : State) : Outcome :=
  let b := s.base router
  let v := (p.payload.headD 0).toNat
  let leaves := p.payload.drop 1
  match b.echoOf p.tag.toNat with
  | some e =>
    let s := s.setBase router (b.freeEcho p.tag.toNat)
    .next (s.push [
      .routerPacketArrive router 9 (echoAnswer s.pkg.id router p e.first v (leaves.take e.firstLeaves)),
      .routerPacketArrive router 9 (echoAnswer s.pkg.id router p e.second ((v + e.firstOp.toNat) % 2 ^ (8 * 2 ^ e.size)) (leaves.drop e.firstLeaves))])
  | none => .next (s.echoLost router p leaves)

/-- FAILED_REPLY (R320): a record it names is freed and the failure passed on to both destinations; without one it goes to its leaves. [DEDUCED, log entry 26] -/
def execFailedReply (router : Nat) (p : Packet) (s : State) : Outcome :=
  let b := s.base router
  match if p.echo then b.echoOf p.tag.toNat else none with
  | some e =>
    let s := s.setBase router (b.freeEcho p.tag.toNat)
    .next (s.push [
      .routerPacketArrive router 9 (echoAnswer s.pkg.id router p e.first 0 (p.payload.take e.firstLeaves)),
      .routerPacketArrive router 9 (echoAnswer s.pkg.id router p e.second 0 (p.payload.drop e.firstLeaves))])
  | none => .next (if p.echo then s.echoLost router p p.payload else s.failLeaves router p p.payload)

/-- A link of a router changed at its own end. -/
def State.setLink (s : State) (r port : Nat) (l : Link) : State :=
  let b := s.base r
  s.setBase r { b with links := tput b.links port l }

/-- What the header of a received flit says to the sender at this end of a link (R310, R314, R315): the flits that the other end has accepted, the flits of
each channel that it has freed, and whether it asks again for those after the accepted ones. -/
def Link.acknowledged (l : Link) (flit : Flit) : Link :=
  let n := max l.acked flit.ack
  { l with
    acked := n
    kept := l.kept.filter fun x => n < x.1
    used := flit.credits.foldl (fun t c => tput t c.1 (tgetD t c.1 0 - c.2)) l.used
    again := if flit.again then (if l.acked < flit.ack then 1 else l.again + 1) else if l.acked < flit.ack then 0 else l.again }

/-- A link that retrains, where it does not already. -/
def Link.retrain (l : Link) (uptime : Nat) : Link := if l.training then l else { l with training := true, since := uptime }

/-- What the other end has not accepted of a link sent again, from the oldest on (R314): the packets that an external link keeps, and what is on its way to
the other end over a link of the package, which the sender keeps until it is accepted. [DEDUCED, log entry 45] -/
def State.resend (s : State) (r port : Nat) : State :=
  if 5 ≤ port then (s.linkAt r port).kept.foldl (fun (s : State) x => s.emit (.ext r port x.2)) s
  else
    let mine (e : Pending) : Bool := match e with
      | .routerPacketArrive n i _ => n == neighbour r port && i == port
      | _ => false
    { s with agenda := s.agenda.filter (fun e => !mine e) ++ s.agenda.filter mine }

/-- LINK_FLIT_RECEIVE (R310, R314, R315): a flit whose CRC holds brings its header's acknowledgement and credits, and is accepted where it is the one
expected; where its header asks for a resend, what the other end has not accepted is sent again. A flit that fails is asked for again. Sixteen resends of one
flit that fail retrain the link, at whichever end. [DEDUCED, log entry 45] -/
def execLinkFlitReceive (router port : Nat) (flit : Flit) (crcOk : Bool) (s : State) : Outcome :=
  let l := s.linkAt router port
  if crcOk then
    let l' := l.acknowledged flit
    let l' := if 17 ≤ l'.again then l'.retrain s.pkg.uptime else l'
    let s := s.setLink router port (if flit.seq = l.accepted then { l' with accepted := l.accepted + 1, fails := 0 } else l')
    .next (if flit.again then s.resend router port else s)
  else
    let l' := { l with fails := l.fails + 1 }
    let s := s.setLink router port (if 17 ≤ l'.fails then l'.retrain s.pkg.uptime else l')
    .next (if port < 5 then s.resend (neighbour router port) port else s.emit (.again router port l.accepted))

/-- LINK_RETRAIN (R315): the link works again at both of its ends. Each end tells the other its last accepted flit, and what the other end has not accepted is
sent again, so that no flit is lost or duplicated; what an external link's other end has accepted has come with its last header. [DEDUCED, log entry 45] -/
def execLinkRetrain (router port : Nat) (s : State) : Outcome :=
  let trained (s : State) (r : Nat) : State := s.setLink r port { s.linkAt r port with
    fails := 0
    again := 0
    training := false }
  let s := trained s router
  .next (if port < 5 then ((trained s (neighbour router port)).resend router port).resend (neighbour router port) port
    else (s.resend router port).emit (.again router port (s.linkAt router port).accepted))

/-- The packets that a router has sent over a link and its receiver has not accepted. -/
def State.onLink (s : State) (r port : Nat) : List Packet :=
  s.agenda.filterMap fun e => match e with
    | .routerPacketArrive n i p => if port < 5 && n == neighbour r port && i == port then some p else none
    | _ => none

/-- The unaccepted packets of a link back at their sender's output, where they wait to be routed again (R315): those on their way over a link of the
package, and those that an external link keeps. -/
def State.takeBack (s : State) (r port : Nat) : State :=
  let b := s.base r
  let l := tgetD b.links port {}
  let ps := s.onLink r port ++ l.kept.map (·.2)
  let q := ps.map fun p => (⟨9, p.vc.toNat, 0, { p with hop := p.hop - 1 }⟩ : Queued)
  let s := { s with
    agenda := s.agenda.filter fun e => match e with
      | .routerPacketArrive n i _ => !(port < 5 && n == neighbour r port && i == port)
      | _ => true
    pkg := { s.pkg with outbound := s.pkg.outbound.filter fun x => !(x.1 == r && l.kept.any fun k => { k.2 with hop := x.2.1.hop, vc := x.2.1.vc } == x.2.1) } }
  if q = [] then s
  else s.setBase r { b with
    outs := tput b.outs port (q ++ tgetD b.outs port [])
    links := tput b.links port { l with kept := [], used := [] } }

/-- LINK_DOWN (R20, R307, R308, R315): the link, or the port of a compute die, is out of service, its unaccepted packets return to their senders, and the
routers recompute. What an external link's other end has accepted is what the last header of a flit has told, which the management kernels' word stands for.
[DEDUCED, log entry 45] -/
def execLinkDown (router port : Nat) (s : State) : Outcome :=
  let s := { s with pkg := { s.pkg with down := if s.pkg.down.contains (router, port) then s.pkg.down else (router, port) :: s.pkg.down } }
  let s := s.takeBack router port
  let s := if port < 5 then s.takeBack (neighbour router port) port else s
  .next (s.push [.routeRecompute])

/-- The packets that wait at a router's outputs to links out of service, routed again (R315). -/
def State.reroute (s : State) (r : Nat) : State :=
  (List.range 9).foldl (fun s out =>
    let b := s.base r
    let q := tgetD b.outs out []
    if q = [] || !outOfService s.pkg.down r out then s
    else (s.setBase r { b with outs := tdel b.outs out }).push (q.map fun x => .routerPacketArrive r (if x.inPort = 5 ∨ x.inPort = 6 then 9 else x.inPort) x.p)) s

/-- ROUTE_RECOMPUTE (R308). [DEDUCED, log entry 45] -/
def execRouteRecompute (s : State) : Outcome :=
  let s := { s with pkg := { s.pkg with view := s.pkg.down } }
  .next ((List.range 16).foldl (fun s r => s.reroute r) s)

/-- Whether a request that has left the package has had no response for 10 ms (R407). -/
def State.overdue (s : State) (x : Nat × Packet × Nat) : Bool := 10000000 ≤ s.pkg.uptime - x.2.2

/-- RESPONSE_TIMEOUT (R407): the requests of a tag that left the package 10 ms ago without a response fail as addressing errors, each with all of the
requests that it carries; no record tells of it. [DEDUCED, log entry 37] -/
def execResponseTimeout (tag : Nat) (s : State) : Outcome :=
  let late := s.pkg.outbound.filter fun x => x.2.1.tag.toNat == tag && s.overdue x
  let s := { s with pkg := { s.pkg with outbound := s.pkg.outbound.filter fun x => !late.contains x } }
  .next (late.foldl (fun (s : State) x => s.returnFailure x.1 x.2.1 cPERMFAULT 0) s)

end Sys2Proof.Machine
end

