-- ==== Sys2Proof/Machine/Token.lean ====
section
/-!
DEFINITION. The home token directories and the recall of a token the package holds (R74, R321, R322).
-/
namespace Sys2Proof.Machine

/-- A recall sent to a holder package for a request of a partition (R321, R322, R326), with SIDE 1 where only its copies are to be invalidated (R74; log
entry 43). -/
def State.sendRecall (s : State) (sock region : Nat) (part : BitVec 12) (kind holder : Nat) : State :=
  s.push [.routerPacketArrive sock 9
    { addr := BitVec.ofNat 56 (region * 2 ^ 21)
      part := part
      spkg := BitVec.ofNat 12 s.pkg.id
      ssock := BitVec.ofNat 5 sock
      dpkg := BitVec.ofNat 12 holder
      dsock := BitVec.ofNat 5 sock
      kind := 0x0A
      side := BitVec.ofNat 64 kind }]

/-- A base die's directory entry put, or deleted when nothing holds it. -/
def State.setDir (s : State) (sock region : Nat) (e : DirEnt) : State :=
  let b := s.base sock
  s.setBase sock { b with dir := if e.holders = [] ∧ e.pending = [] ∧ e.writer = none then tdel b.dir region else tput b.dir region e }

/-- A request that waits at the directory for some holders, which are recalled (R321). -/
def State.holdRequest (s : State) (sock region : Nat) (e : DirEnt) (pkg : Nat) (ex : Bool) (p : Packet) (owners : List Nat) : State :=
  let s := s.setDir sock region { e with pending := e.pending ++ [(pkg, ex, p)] }
  owners.foldl (fun s h => s.sendRecall sock region p.part 0 h) s

/-- A write for which the copies of the region at some holders are asked to be invalidated (R74). [DEDUCED, log entry 43] -/
def State.askCopies (s : State) (sock region : Nat) (e : DirEnt) (q : Option Packet) (holders : List Nat) : State :=
  let s := s.setDir sock region { e with
    writer := some q
    stale := holders }
  holders.foldl (fun s h => s.sendRecall sock region ((q.map (·.part)).getD 0) 1 h) s

/-- The grant of a token (R321). -/
def State.sendGrant (s : State) (sock : Nat) (p : Packet) (ex : Bool) : State :=
  s.push [.routerPacketArrive sock 9 { responseTo p s.pkg.id sock with side := if ex then 1 else 0 }]

/-- The least recently granted region of a directory. -/
def Base.oldestRegion (b : Base) : Option (Nat × DirEnt) :=
  b.dir.foldl (fun best x => match best with
    | none => some x
    | some (y : Nat × DirEnt) => if x.2.granted < y.2.granted then some x else best) none

/-- TOKEN_ACQUIRE_REQUEST (R321). [DEDUCED, log entry 27] -/
def execTokenAcquireRequest (sock : Nat) (p : Packet) (s : State) : Outcome :=
  let b := s.base sock
  let region := regionOf p.addr.toNat
  let pkg := p.spkg.toNat
  let ex := p.side == 1
  match tget b.dir region with
  | none =>
    if 65536 ≤ b.dir.length then
      match b.oldestRegion with
      | none => .next s
      | some (r, e) => .next (s.holdRequest sock r e pkg ex p e.holders)
    else
      let b := { b with dir := tput b.dir region { exclusive := ex, holders := [pkg], granted := b.dirClock }, dirClock := b.dirClock + 1 }
      .next ((s.setBase sock b).sendGrant sock p ex)
  | some e =>
    let block := e.blockers pkg ex true
    if e.pending ≠ [] ∨ e.writer ≠ none then .next (s.holdRequest sock region e pkg ex p [])
    else if block ≠ [] then .next (s.holdRequest sock region e pkg ex p block)
    else
      let e := { e with
        exclusive := ex
        holders := if e.holders.contains pkg then e.holders else e.holders ++ [pkg]
        granted := b.dirClock }
      .next ((s.setBase sock { b with dir := tput b.dir region e, dirClock := b.dirClock + 1 }).sendGrant sock p ex)

/-- TOKEN_RECALL (R322): the region's lines go home and the token with them; a pending acquire of the region stands. [DEDUCED, log entry 27] -/
def execTokenRecall (call : Recall) (s : State) : Outcome :=
  let pending := match tget s.pkg.tokens call.region with
    | some t => t.pending
    | none => false
  let s := s.returnToken call.region call.part
  .next (if pending then { s with pkg := { s.pkg with tokens := tput s.pkg.tokens call.region ⟨false, [], true⟩ } } else s)

/-- The requests that waited for a region, taken up again in arrival order, before any that has come since (R321). -/
def State.resumeRequests (s : State) (sock : Nat) (ps : List (Nat × Bool × Packet)) : State :=
  { s with agenda :=
      (ps.map fun x => if x.2.2.kind = 8 then .tokenAcquireRequest sock x.2.2 else .memoryRequest x.2.2.dsock.toNat x.2.2) ++ s.agenda }

/-- RECALL_ACK (R321): the holder is removed, and the requests that waited proceed once no holder stands in the way of the first. [DEDUCED, log entry 27] -/
def execRecallAck (sock pkg region : Nat) (s : State) : Outcome :=
  let b := s.base sock
  match tget b.dir region with
  | none => .next s
  | some e =>
    let e := { e with holders := e.holders.filter (· != pkg) }
    match (if e.writer = none then e.pending else []) with
    | [] => .next (s.setDir sock region e)
    | (k, ex, q) :: _ =>
      let mine := regionOf q.addr.toNat = region
      if (if mine then e.blockers k ex (q.kind == 8) else e.holders) ≠ [] then .next (s.setDir sock region e)
      else .next ((s.setDir sock region { e with pending := [] }).resumeRequests sock e.pending)

/-- The end of the write for which copies were invalidated: the requests that waited behind it proceed (R74). [DEDUCED, log entry 43] -/
def State.endWriter (s : State) (sock region : Nat) : State :=
  match tget (s.base sock).dir region with
  | none => s
  | some e => (s.setDir sock region { e with
      writer := none
      pending := [] }).resumeRequests sock e.pending

end Sys2Proof.Machine
end

