-- ==== Sys2Proof/Machine/Copy.lean ====
section
/-!
DEFINITION. Copies (R278 to R284, R289, R295 to R299, R301): descriptors and their checks, the pieces of a job, and their reads and
writes.
-/
namespace Sys2Proof.Machine

/-- The causes of R282. -/
abbrev kOVF : Nat := 1
abbrev kDESC : Nat := 2
abbrev kFAULT : Nat := 3
abbrev kMEMUE : Nat := 4
abbrev kBARCLOB : Nat := 5
abbrev kNETFAIL : Nat := 6
abbrev kABORTED : Nat := 7
abbrev kREMOTE : Nat := 8

/-- For whom a copy works: die, context, the place and size of the team memory, the scratchpad window (R151), and the gang and lanes of a fault record. A
chain walk has no gang and no team memory. -/
structure Who where
  die : Nat
  ctx : Nat
  team : Nat × Nat := (0, 0)
  window : Nat × Nat := (0, 0)
  gang : Option Gang := none
  lanes : List Nat := []
  deriving DecidableEq, Repr

/-- One piece of a copy: source space and address, or the data itself; destination space and address, `none` for a block that is only
read. -/
structure CMove where
  src : Option (Nat × Nat)
  data : List Byte := []
  dst : Option (Nat × Nat)
  len : Nat
  deriving DecidableEq, Repr

/-- What an access of a copy comes to; it waits where a line has to be asked for (log entry 23). -/
inductive Got (α : Type) where
  | ok (s : State) (v : α)
  | held (s : State) (cause seq : Nat)
  | wait (s : State)
  | fail (s : State) (cause : Nat)

/-- The fault record of a held copy access (R216); a chain walk names no gang, core or launch. -/
def State.copyFault (s : State) (w : Who) (va : DWord) (cause access level : Nat) : State × Nat :=
  let seq := (s.die w.die).faultSeq
  let bytes := match w.gang with
    | some g => faultBytes g seq va (maskOf (w.lanes.take 1)) cause access level
    | none => leBytes 2 0 ++ leBytes 1 level ++ leBytes 1 access ++ leBytes 1 cause ++ leBytes 1 0 ++ leBytes 1 0
        ++ leBytes 1 (16 + w.die) ++ leBytes 4 0 ++ leBytes 4 seq.toNat ++ leBytes 8 0 ++ leBytes 8 va.toNat
  ((s.faultRecord w.die w.ctx bytes).nextSeq w.die, seq.toNat)

/-- The cause of R282 for a trap code. -/
def copyCause (code : Nat) : Nat := if code = cMEMUE then kMEMUE else if code = cBARCLOB then kBARCLOB else kFAULT

/-- The leaf under which space 4 is reached: a package physical address, or a host bus address where bit 63 is set (R295). [DEDUCED, log entry 39] -/
def State.physLeaf (s : State) (addr : Nat) : DWord :=
  if 2 ^ 63 ≤ addr then 0x21F else if addr / 2 ^ 44 = s.pkg.id then 0x1F else 0x11F

/-- What an address of a space stands for (R278, R295): 0 a virtual address, 1 a place of the package's memory, 4 a physical address; or `none` where it is
out of bounds. -/
def Who.place (w : Who) (space addr n : Nat) : Option (Nat × Nat) :=
  match space with
  | 0 => some (0, addr)
  | 1 => if addr + n ≤ w.team.2 then some (1, (w.team.1 + addr) % 2 ^ 44) else none
  | 2 => if addr + n ≤ w.window.2 then some (1, padBase w.die + w.window.1 + addr) else none
  | 4 => some (4, addr)
  | _ => none

/-- A copy access whose line has to be asked for: the requests go in the copy's service class (R278), and the copy goes on when they have been answered.
[DESIGN CHOICE, log entry 23] -/
def State.copyWait (s : State) (lat : Bool) : State :=
  { s with asks := [] }.sendAsks s.cursor (s.asks.map fun (a : Ask) => { a with lat := lat })

/-- A failed copy access: one that has to wait, or the cause of the copy's failure with its records (R16, R91, R282). -/
def State.copyFailed {α : Type} (s : State) (w : Who) (lat : Bool) (va : DWord) (n : Nat) (e : Nat × Nat) : Got α :=
  let t := s.failedAt w.die w.ctx va n e
  if e.1 = cWAIT then .wait (t.copyWait lat) else .fail t (copyCause e.1)

/-- The leaf and the physical address of a copy access in virtual space, or held (R216, R217), or a failure (R200): a store where `k` is one. -/
def State.copyLeaf (s : State) (w : Who) (k : AccKind) (va : DWord) (n : Nat) : Got (DWord × Nat) :=
  if !canonical va then .fail s kFAULT
  else
    let s := s.fillTlb w.die w.ctx va
    match (s.resolve w.die w.ctx k { lane := 0, va := va, len := n }).st with
    | .held cause _ level =>
      let r := s.copyFault w va cause (if k.writes then 8 else 7) level
      .held r.1 cause r.2
    | _ => match s.access w.die w.ctx va k.writes false with
      | .ok x => .ok s x
      | .error e => .fail s (copyCause e.1)

/-- A copy's access to an element, each line of it translated: held at the first page that holds it (R216, R282). -/
def State.copyLeaves (s : State) (w : Who) (k : AccKind) : List (Nat × Nat) → Got Unit
  | [] => .ok s ()
  | p :: t => match s.copyLeaf w k (BitVec.ofNat 64 p.1) p.2 with
    | .ok s _ => s.copyLeaves w k t
    | .held s c q => .held s c q
    | .wait s => .wait s
    | .fail s c => .fail s c

/-- A failed copy access at a physical address of space 4: the record of an addressing error, and an uncorrectable line that it has found (R16, R91). -/
def State.physFailed {α : Type} (s : State) (w : Who) (e : DWord) (pa : Nat) (x : Nat × Nat) : Got α :=
  let own := bits e 8 3 != 2 && pa / 2 ^ 44 == s.pkg.id
  .fail (if own && x.1 == cPERMFAULT then s.strayLog (s.srcOf w.die) w.ctx pa
    else if own && x == (cMEMUE, 5) then s.foundBad (sockOf (pa % 2 ^ 44)) (pa % 2 ^ 44) else s) (copyCause x.1)

/-- The bytes of one piece, or of an element (R53, R282); `counted` where it is a new line portion for the access counters (R290). [DEDUCED, log entry 39] -/
def State.copyRead (s : State) (w : Who) (lat counted : Bool) (space addr n : Nat) : Got (List Byte) :=
  match w.place space addr n with
  | none => .fail s kFAULT
  | some (0, a) => match s.copyLeaves w .load (pieces a n) with
    | .ok s _ => match s.vread w.die w.ctx (BitVec.ofNat 64 a) n with
      | .ok bs => .ok (if counted then s.countRange w.die w.ctx (BitVec.ofNat 64 a) n else s) bs
      | .error e => s.copyFailed w lat (BitVec.ofNat 64 a) n e
    | .held s c q => .held s c q
    | .wait s => .wait s
    | .fail s c => .fail s c
  | some (1, k) => match s.lineErr k with
    | none => .ok s (s.mem.read k n)
    | some e => .fail (if e.2 = 5 then s.foundBad (16 + w.die) k else s) (copyCause e.1)
  | some (_, a) =>
    let e := s.physLeaf a
    let pa := a % 2 ^ 63
    if (s.register e pa).isSome then s.physFailed w e pa (cPERMFAULT, 0)
    else match s.unitLine w.die e pa with
      | .ok line => .ok s ((line.drop (pa % 64)).take n)
      | .error x =>
        if x.1 = cWAIT then .wait ({ s with asks := s.lineAsks w.die w.ctx e pa }.copyWait lat) else s.physFailed w e pa x

/-- Memory with bytes stored except in tagged words (R228), and how many were stored. [DEDUCED, log entries 39 and 48] -/
def Mem.writeSkip (m : Mem) (k : Nat) (bs : List Byte) : Mem × Nat :=
  bs.zipIdx.foldl (fun (r : Mem × Nat) p => if m.tagged (k + p.2) then r else (r.1.setByte (k + p.2) p.1, r.2 + 1)) (m, 0)

/-- A destination line of a copy: the kind of its address, line address / 64, and the bytes gathered for it by their offsets. -/
abbrev COut := Nat × Nat × List (Nat × List Byte)

/-- The bytes of a line with those gathered put in, and how many were gathered. -/
def patchAll (line : List Byte) (ws : List (Nat × List Byte)) : List Byte := ws.foldl (fun l w => patchBytes l w.1 w.2) line
def gatheredBytes (ws : List (Nat × List Byte)) : Nat := (ws.map fun w => w.2.length).sum
/-- The bytes of a line that are gathered. -/
def gatheredMask (ws : List (Nat × List Byte)) : BitVec 64 :=
  ws.foldl (fun m w => (List.range w.2.length).foldl (fun m j => setBit m (w.1 + j) true) m) 0

/-- The gathered bytes of a line stored in the package's memory except in tagged words, and how many were stored; a scratchpad line takes the context's
owner tag (R91, R228). -/
def Mem.storeOut (m : Mem) (k ctx : Nat) (ws : List (Nat × List Byte)) : Mem × Nat :=
  let r := ws.foldl (fun (r : Mem × Nat) w => let x := r.1.writeSkip (k + w.1) w.2; (x.1, r.2 + x.2)) (m, 0)
  match apertureOf k with
  | .pad _ _ => (r.1.own k (some ctx), r.2)
  | _ => r

/-- A line of a leaf's page stored by a copy, and how many bytes were stored. [DESIGN CHOICE, log entry 23] -/
def State.storeLine (s : State) (w : Who) (e : DWord) (pa : Nat) (ws : List (Nat × List Byte)) : Except (Nat × Nat) (State × Nat) :=
  let mask := gatheredMask ws
  let n := gatheredBytes ws
  let ask : Ask := { s.lineAsk w.die w.ctx pa with
    kind := .write mask (patchAll (List.replicate 64 0) ws)
    size := ws.foldl (fun m x => min m (elemLog x.1 x.2.length)) 3 }
  let refused (r : Except (Nat × Nat) State) : Except (Nat × Nat) (State × Nat) := match r with
    | .ok t => .ok (t, n)
    | .error x => if x.1 = cBARCLOB then .ok (s, 0) else .error x
  let away : Except (Nat × Nat) (State × Nat) :=
    if !bit e 7 then refused (s.askFor ask)
    else match s.keyFor (bits e 56 8) pa with
      | none => .error (cPAGEFAULT, 0)
      | some k => refused (s.sealAway w.die w.ctx k pa (mask == BitVec.allOnes 64) fun old => patchAll old ws)
  match s.register e pa with
  | some (sock, off) => match s.pathErr (s.srcOf w.die) (pa % 2 ^ 44) with
    | some x => .error x
    | none => if ws.any fun x => (s.regRead sock (off + x.1) x.2.length 9).isNone then .error (cPERMFAULT, 0) else refused (s.askFor ask)
  | none =>
    if s.askedOf pa (bit e 7) then away
    else match s.reachOf (s.srcOf w.die) e pa .store with
      | .ask => away
      | .bad c u => .error (c, u)
      | .here => match s.oldLine e pa (mask == BitVec.allOnes 64) with
        | .error x => .error x
        | .ok line =>
          let key := memKey s.pkg.id e pa
          if ws.any fun x => s.mem.touchesTag (key + x.1) x.2.length then
            let r := s.mem.storeOut key w.ctx ws
            .ok ({ s with mem := r.1 }, r.2)
          else
            let s := s.writeLine e pa (patchAll line ws)
            .ok (match apertureOf key with
              | .pad _ _ => { s with mem := s.mem.own key (some w.ctx) }
              | _ => s, n)

/-- A gathered destination line written at once (R54, R228, R282): how many bytes were stored. [DEDUCED, log entry 39] -/
def State.copyWrite (s : State) (w : Who) (lat : Bool) (o : COut) : Got Nat :=
  let a := o.2.1 * 64
  match o.1 with
  | 0 =>
    let va := BitVec.ofNat 64 a
    match s.copyLeaf w .store va 64 with
    | .ok s (e, pa) => match s.storeLine w e pa o.2.2 with
      | .error x => s.copyFailed w lat va 64 x
      | .ok (t, n) => if t.asks ≠ [] then .wait (t.copyWait lat) else .ok (t.countRange w.die w.ctx va 64) n
    | .held s c q => .held s c q
    | .wait s => .wait s
    | .fail s c => .fail s c
  | 1 => match s.lineErr a with
    | some e => .fail (if e.2 = 5 then s.foundBad (16 + w.die) a else s) (copyCause e.1)
    | none =>
      let r := s.mem.storeOut a w.ctx o.2.2
      .ok { s with mem := r.1 } r.2
  | _ => match s.storeLine w (s.physLeaf a) (a % 2 ^ 63) o.2.2 with
    | .error x => s.physFailed w (s.physLeaf a) (a % 2 ^ 63) x
    | .ok (t, n) => if t.asks ≠ [] then .wait (t.copyWait lat) else .ok t n

/-- How a run of a copy ends, or why it does not go on. -/
inductive Ran where
  | done
  | held
  | wait
  | failed
  deriving DecidableEq, Repr

/-- Whether a run is at its end. -/
def Ran.ended : Ran → Bool
  | .done | .failed => true
  | _ => false

/-- Fields of a descriptor (R278, R279). -/
def CJob.f (j : CJob) (off n : Nat) : Nat := fieldBytes j.desc off n
def CJob.flags (j : CJob) : BitVec 16 := BitVec.ofNat 16 (j.f 20 2)
/-- The latency service class (R278); NT has no effect here, as a copy allocates no L1 line and retention is a matter of timing (R208). -/
def CJob.lat (j : CJob) : Bool := bit j.flags 14
def CJob.sspace (j : CJob) : Nat := bits j.flags 0 3
def CJob.dspace (j : CJob) : Nat := bits j.flags 3 3
def CJob.esize (j : CJob) : Nat := 2 ^ bits j.flags 8 3
def CJob.dir (j : CJob) : Bool := bit j.flags 15
def CJob.src (j : CJob) : Nat := j.f 0 8
def CJob.dst (j : CJob) : Nat := j.f 8 8
def CJob.len (j : CJob) : Nat := j.f 16 4
/-- A signed field of n bytes. -/
def CJob.i (j : CJob) (off n : Nat) : Int := (BitVec.ofNat (8 * n) (j.f off n)).toInt
/-- The box sizes B0 to B3. -/
def CJob.box (j : CJob) (k : Nat) : Nat := j.f (48 + 2 * k) 2
/-- The box origin X0 to X3. -/
def CJob.origin (j : CJob) (k : Nat) : Int := j.i (32 + 4 * k) 4

/-- Where the tensor map of COPYT lies, and an index of COPYG or COPYS (R279, R280). -/
def CJob.mapPlace (j : CJob) (w : Who) : Nat := (w.team.1 + j.f 24 4) % 2 ^ 44
def CJob.indexPlace (j : CJob) (w : Who) (r : Nat) : Nat := (w.team.1 + j.f 32 4 + 4 * r) % 2 ^ 44

/-- The tensor map of COPYT (R280). -/
def State.tensorMap (s : State) (w : Who) (j : CJob) : List Byte := s.mem.read (j.mapPlace w) 64

def mapRank (m : List Byte) : Nat := fieldBytes m 56 1
/-- The dimensions D0 to D3: 1 at and above RANK (R280). -/
def mapDim (m : List Byte) (k : Nat) : Nat := if k < mapRank m then fieldBytes m (8 + 4 * k) 4 else 1
def mapStride (m : List Byte) (k : Nat) : Int := (BitVec.ofNat 64 (fieldBytes m (24 + 8 * k) 8)).toInt

/-- The cluster size of a gang's team. -/
def State.clusterSize (s : State) (g : Gang) : Nat := match s.team g.teamKey with | some t => 2 ^ t.logW * 2 ^ t.logH | none => 1

/-- The address of a peer-table entry (R285). -/
def State.peerPlace (s : State) (ctx k : Nat) : DWord := (s.ctx ctx).peerTab + BitVec.ofNat 64 (32 * k)

/-- A peer-table entry (R285), or why it cannot be read. -/
def State.peerEntry (s : State) (die ctx k : Nat) : Except (Nat × Nat) (List Byte) :=
  if (s.ctx ctx).peerN ≤ k then .error (cPERMFAULT, 0) else s.vread die ctx (s.peerPlace ctx k) 32

/-- The conditions on every descriptor (R295): which of bytes 32 to 63 the instruction names ends at byte `named`. -/
def CJob.commonOk (j : CJob) (named : Nat) : Bool :=
  let aligned (space a : Nat) : Bool := (space != 0 && space != 2) || a % j.esize == 0
  zeroBytes j.desc 28 4 && zeroBytes j.desc 22 2 && field j.flags 6 2 == 0 && field j.flags 11 2 == 0
    && (j.op == 2 || (!j.dir && j.f 24 4 == 0)) && decide (bits j.flags 8 3 ≤ 3) && decide (j.sspace ≤ 4) && decide (j.dspace ≤ 4)
    && j.len != 0 && j.len % j.esize == 0 && zeroBytes j.desc named (64 - named)
    && (j.op == 7 || aligned j.sspace j.src) && aligned j.dspace j.dst

/-- A space of 0 to 2. -/
def plainSpace (k : Nat) : Bool := decide (k ≤ 2)

/-- The conditions on COPYG and COPYS (R295). -/
def CJob.rowsOk (j : CJob) (w : Who) : Bool :=
  let nrow := j.f 40 4
  let rowb := j.f 36 4
  let idx := j.f 32 4
  plainSpace j.sspace && plainSpace j.dspace && j.len == nrow * rowb && decide (1 ≤ nrow) && decide (nrow ≤ 65536) && rowb != 0
    && rowb % j.esize == 0 && idx % 4 == 0 && decide (idx + 4 * nrow ≤ w.team.2)

/-- The conditions on COPYT (R295). -/
def State.boxOk (s : State) (w : Who) (j : CJob) : Bool :=
  let m := s.tensorMap w j
  (if j.dir then plainSpace j.sspace && j.dspace == 0 && j.dst == 0 else plainSpace j.dspace && j.sspace == 0 && j.src == 0)
    && j.f 24 4 % 64 == 0 && decide (j.f 24 4 + 64 ≤ w.team.2) && zeroBytes m 57 7 && decide (1 ≤ mapRank m) && decide (mapRank m ≤ 4)
    && (List.range 4).all (fun k => j.box k != 0 && (decide (k < mapRank m) || (j.box k == 1 && j.origin k == 0)))
    && j.len == j.esize * (j.box 0 * j.box 1 * j.box 2 * j.box 3)

/-- Whether a peer-table entry's reserved fields are zero (R285, R295). -/
def peerOk (e : List Byte) : Bool := zeroBytes e 23 9 && decide (fieldBytes e 20 2 < 4096)

/-- Whether a descriptor is well formed (R295). -/
def State.descOk (s : State) (w : Who) (j : CJob) : Bool :=
  let phys (a : Nat) : Bool := decide (2 ^ 63 ≤ a) || decide (a < 2 ^ 56)
  match j.op with
  | 1 => j.commonOk 32 && plainSpace j.sspace && plainSpace j.dspace
      && (j.sspace != j.dspace || decide (j.src + j.len ≤ j.dst) || decide (j.dst + j.len ≤ j.src))
  | 2 => j.commonOk 64 && s.boxOk w j
  | 3 | 4 => j.commonOk 52 && j.rowsOk w
  | 5 => j.commonOk 48 && plainSpace j.sspace && j.dspace == 1 && decide (j.len ≤ 655360) && j.f 40 8 % 8 == 0
      && (match w.gang with | some g => decide (j.f 32 8 < 2 ^ s.clusterSize g) | none => false)
  | 6 => j.commonOk 52 && (j.sspace == 1 || j.sspace == 2) && j.dspace == 3 && j.dst == 0 && decide (j.len ≤ 16777216)
      && decide (j.f 40 4 < (s.ctx w.ctx).peerN) && j.f 44 8 % 16 == 0
  | 7 => j.commonOk 32 && j.sspace == 0 && plainSpace j.dspace
  | 11 => j.commonOk 32 && j.sspace == 4 && j.dspace == 4 && (j.len == 65536 || j.len == 2097152) && bits j.flags 8 3 == 3
      && j.src % j.len == 0 && j.dst % j.len == 0 && phys j.src && phys j.dst
  | 12 => j.commonOk 44 && j.sspace == 3 && j.src == 0 && plainSpace j.dspace && decide (j.len ≤ 16777216)
      && decide (j.f 40 4 < (s.ctx w.ctx).peerN)
  | _ => false

/-- The moves of n bytes between two places, by the lines of the source (R53, R296). -/
def blockMoves (ss a ds b n : Nat) : List CMove :=
  (pieces a n).map fun (p : Nat × Nat) => { src := some (ss, p.1), dst := some (ds, b + (p.1 - a)), len := p.2 }

/-- How many of n bytes from an address of a space on are in bounds (R282, R295). -/
def Who.room (w : Who) (space addr n : Nat) : Nat :=
  match space with
  | 1 => min n (w.team.2 - addr)
  | 2 => min n (w.window.2 - addr)
  | _ => n

/-- The bytes of n that whole elements in bounds take (R53, R296). -/
def CJob.whole (j : CJob) (n room : Nat) : Nat := if n ≤ room then n else room / j.esize * j.esize

/-- The moves of n bytes of a job between two places: those of the whole elements in bounds, then that of the first element that is not, which fails
(R53, R282, R296). -/
def CJob.blockMoves (j : CJob) (w : Who) (ss a ds b n : Nat) : List CMove :=
  let fit := j.whole n (w.room ds b (w.room ss a n))
  Machine.blockMoves ss a ds b fit ++ if fit < n then [{ src := some (ss, a + fit), dst := some (ds, b + fit), len := j.esize }] else []

/-- The moves of FILL (R296), as `CJob.blockMoves` bounds them. -/
def CJob.fillMoves (j : CJob) (w : Who) : List CMove :=
  let fit := j.whole j.len (w.room j.dspace j.dst j.len)
  let move (p : Nat × Nat) : CMove :=
    { src := none
      data := (List.range p.2).map fun i => j.desc.getD ((p.1 - j.dst + i) % 8) 0
      dst := some (j.dspace, p.1)
      len := p.2 }
  (pieces j.dst fit).map move ++ if fit < j.len then [move (j.dst + fit, j.esize)] else []

/-- The tensor coordinates of box element e (R280). -/
def CJob.coords (j : CJob) (e : Nat) : List Int :=
  let i0 := e % j.box 0
  let i1 := e / j.box 0 % j.box 1
  let i2 := e / (j.box 0 * j.box 1) % j.box 2
  let i3 := e / (j.box 0 * j.box 1 * j.box 2)
  [j.origin 0 + i0, j.origin 1 + i1, j.origin 2 + i2, j.origin 3 + i3]

/-- Whether box element e is in bounds (R280). -/
def CJob.inBounds (j : CJob) (m : List Byte) (e : Nat) : Bool :=
  (j.coords e).zipIdx.all fun (p : Int × Nat) => decide (0 ≤ p.1) && decide (p.1 < mapDim m p.2)

/-- The address of box element e (R280). -/
def CJob.elemAddr (j : CJob) (m : List Byte) (e : Nat) : Int :=
  (fieldBytes m 0 8 : Int) + ((j.coords e).zipIdx.map fun (p : Int × Nat) => p.1 * mapStride m p.2).sum

/-- How many elements a box has. -/
def CJob.boxSize (j : CJob) : Nat := j.box 0 * j.box 1 * j.box 2 * j.box 3

/-- Whether a product lies in the signed 64-bit range (R281). -/
def inRange64 (x : Int) : Bool := decide (-(2 ^ 63) ≤ x) && decide (x < 2 ^ 63)

/-- Whether an address lies in 0 to 2^64 − 1 (R281). -/
def isAddr (x : Int) : Bool := decide (0 ≤ x) && decide (x < 2 ^ 64)

/-- The checks of R281 before any byte of a box moves: the cause of the failure. -/
def CJob.boxCheck (j : CJob) (m : List Byte) : Option Nat :=
  let es := (List.range j.boxSize).filter (j.inBounds m)
  if es.any fun e => !isAddr (j.elemAddr m e) || (j.coords e).zipIdx.any fun (p : Int × Nat) => !inRange64 (p.1 * mapStride m p.2) then some kOVF
  else if es.any fun e => !canonical (BitVec.ofInt 64 (j.elemAddr m e)) then some kFAULT
  else none

/-- The moves of a box in ascending packed offset (R280, R297). -/
def CJob.boxMoves (j : CJob) (m : List Byte) : List CMove :=
  (List.range j.boxSize).filterMap fun e =>
    let off := j.esize * e
    let a := (j.elemAddr m e).toNat
    if j.dir then
      if j.inBounds m e then some { src := some (j.sspace, j.src + off), dst := some (0, a), len := j.esize } else none
    else if j.inBounds m e then some { src := some (0, a), dst := some (j.dspace, j.dst + off), len := j.esize }
    else some { src := none, data := (j.desc.drop 56).take j.esize, dst := some (j.dspace, j.dst + off), len := j.esize }

/-- The moves of row r of COPYG or COPYS by its index (R298). -/
def CJob.rowMoves (j : CJob) (w : Who) (r : Nat) (index : Word) : Except Nat (List CMove) :=
  let rowb := j.f 36 4
  let stride := j.i 44 8
  let gather := j.op == 3
  let x : Int := (if gather then j.src else j.dst : Nat) + index.toInt * stride
  if !inRange64 (index.toInt * stride) || !isAddr x then .error kOVF
  else if gather then .ok (j.blockMoves w j.sspace x.toNat j.dspace (j.dst + r * rowb) rowb)
  else .ok (j.blockMoves w j.sspace (j.src + r * rowb) j.dspace x.toNat rowb)

/-- How many rows a job has. -/
def CJob.stages (j : CJob) : Nat := if j.op = 3 ∨ j.op = 4 then j.f 40 4 else 1

/-- The moves of the row at which a job stands (R296 to R298): `map` holds the tensor map, or the row's index, as it was read. [DEDUCED, log entry 39] -/
def CJob.moves (j : CJob) (w : Who) : Except Nat (List CMove) :=
  match j.op with
  | 1 | 11 => .ok (j.blockMoves w j.sspace j.src j.dspace j.dst j.len)
  | 2 => .ok (j.boxMoves j.map)
  | 3 | 4 => j.rowMoves w j.stage (BitVec.ofNat 32 (fieldBytes j.map 0 4))
  | 7 => .ok (j.fillMoves w)
  | 5 | 6 => .ok ((pieces j.src j.len).map fun (p : Nat × Nat) => { src := some (j.sspace, p.1), dst := none, len := p.2 })
  | _ => .ok []

/-- Bytes gathered for a destination line (R54). -/
def addOut (out : List COut) (kind line off : Nat) (bs : List Byte) : List COut :=
  if out.any fun o => o.1 == kind && o.2.1 == line then
    out.map fun o => if o.1 == kind && o.2.1 == line then (kind, line, o.2.2 ++ [(off, bs)]) else o
  else out ++ [(kind, line, [(off, bs)])]

/-- Bytes gathered for a destination, cut at its lines. -/
def addRange (out : List COut) (kind a : Nat) (bs : List Byte) : List COut :=
  (pieces a bs.length).foldl (fun out p => addOut out kind (p.1 / 64) (p.1 % 64) ((bs.drop (p.1 - a)).take p.2)) out

/-- The destination lines without those of which source data has failed (R282). -/
def dropRange (out : List COut) (kind a n : Nat) : List COut :=
  out.filter fun o => !(o.1 == kind && (pieces a n).any fun p => p.1 / 64 == o.2.1)

/-- Where the memory list holds the bytes at a place that a copy reaches, where it does. -/
def State.copyKey (s : State) (w : Who) (kind a : Nat) : Option Nat :=
  match kind with
  | 0 => match s.access w.die w.ctx (BitVec.ofNat 64 a) false false with
    | .ok (e, pa) => some (memKey s.pkg.id e pa)
    | .error _ => none
  | 1 => some a
  | _ => none

/-- Bytes read by a row, as the copy's earlier rows leave them: what is gathered for their line, and not refused, stands in them although the line is
written later, at once (R54, R228, R298). [DEDUCED, log entry 39] -/
def State.afterRows (s : State) (w : Who) (out : List COut) (kind a : Nat) (bs : List Byte) : List Byte :=
  match s.copyKey w kind a with
  | none => bs
  | some k => out.foldl (fun bs o =>
    if s.copyKey w o.1 (o.2.1 * 64) ≠ some (k / 64 * 64) then bs
    else o.2.2.foldl (fun bs x => bs.zipIdx.map fun (b : Byte × Nat) =>
      let off := k % 64 + b.2
      if x.1 ≤ off ∧ off < x.1 + x.2.length ∧ !s.mem.tagged (k / 64 * 64 + off) then x.2.getD (off - x.1) 0 else b.1) bs) bs

/-- The source bytes of a row gathered in order, until an access is held, waits or fails (R282); `last` is the source line read before. -/
def gatherMoves (w : Who) : List CMove → Option Nat → State → CJob → State × CJob × Ran
  | [], _, s, j => (s, j, .done)
  | m :: t, last, s, j =>
    match m.src with
    | none => put w m m.data t last s j
    | some (space, a) =>
      match s.copyRead w j.lat (last != some (a / 64)) space a m.len with
      | .held s' cause seq => (s', { j with held := some (cause, seq) }, .held)
      | .wait s' => (s', j, .wait)
      | .fail s' cause =>
        let place := m.dst.bind fun d => w.place d.1 d.2 m.len
        (s', { j with
          cause := cause
          out := match place with
            | some (kind, b) => if cause = kMEMUE then dropRange j.out kind b m.len else j.out
            | none => j.out }, .failed)
      | .ok s' bs =>
        let bs := match w.place space a m.len with
          | some p => if j.stage = 0 then bs else s'.afterRows w j.out p.1 p.2 bs
          | none => bs
        put w m bs t (some (a / 64)) (s'.forgetAsks s'.cursor) j
where
  /-- the piece's bytes kept, then the rest -/
  put (w : Who) (m : CMove) (bs : List Byte) (t : List CMove) (last : Option Nat) (s : State) (j : CJob) : State × CJob × Ran :=
    match m.dst with
    | none => gatherMoves w t last s { j with
        buf := j.buf ++ bs
        pos := j.pos + 1 }
    | some (space, a) => match w.place space a m.len with
      | none => (s, { j with cause := kFAULT }, .failed)
      | some (kind, b) => gatherMoves w t last s { j with
          out := addRange j.out kind b bs
          pos := j.pos + 1 }

/-- The gathered lines written, each at once, until one is held, waits or fails (R54, R282). -/
def flushOut (w : Who) : List COut → State → CJob → State × CJob × Ran
  | [], s, j => (s, { j with out := [] }, if j.cause = 0 then .done else .failed)
  | o :: t, s, j =>
    match s.copyWrite w j.lat o with
    | .held s' cause seq => (s', { j with held := some (cause, seq), out := o :: t }, .held)
    | .wait s' => (s', { j with out := o :: t }, .wait)
    | .fail s' cause => (s', { j with cause := cause, out := [] }, .failed)
    | .ok s' n => flushOut w t (s'.forgetAsks s'.cursor) { j with
        moved := j.moved + n
        clob := j.clob || n != gatheredBytes o.2.2 }

/-- What a job reads before the row at which it stands: the index of COPYG or COPYS, as the rows before leave it (R298), or the cause of the failure (R91, R282). -/
def State.rowStart (s : State) (w : Who) (j : CJob) : State × Except Nat CJob :=
  if (j.op = 3 ∨ j.op = 4) ∧ j.map = [] then
    let k := j.indexPlace w j.stage
    match s.lineErr k with
    | some e => (if e.2 = 5 then s.foundBad (16 + w.die) k else s, .error (copyCause e.1))
    | none => (s, .ok { j with map := s.afterRows w j.out 1 k (s.mem.read k 4) })
  else (s, .ok j)

/-- The rows of a job gathered in ascending order from where it stands, each as the rows before leave what it reads (R297, R298). -/
def gatherRows : Nat → Who → State → CJob → State × CJob × Ran
  | 0, _, s, j => (s, j, .done)
  | f + 1, w, s, j =>
    if j.stages ≤ j.stage then (s, j, .done)
    else match s.rowStart w j with
      | (s, .error cause) => (s, { j with cause := cause }, .failed)
      | (s, .ok j) => match j.moves w with
        | .error cause => (s, { j with cause := cause }, .failed)
        | .ok ms =>
          match gatherMoves w (ms.drop j.pos) none s j with
          | (s', j', .done) => gatherRows f w s' { j' with
              stage := j'.stage + 1
              pos := 0
              map := if j'.op = 2 then j'.map else [] }
          | r => r

/-- A job gone on with (R54, R282): what is left of its rows is gathered, then its lines are written; what was gathered before a failure is written too. -/
def goOn (w : Who) (s : State) (j : CJob) : State × CJob × Ran :=
  let r := if j.cause = 0 then gatherRows (j.stages + 1) w s j else (s, j, .failed)
  match r with
  | (s', j', .done) | (s', j', .failed) => flushOut w j'.out s' j'
  | r => r

/-- A job begun or gone on with (R281, R293, R295): a malformed descriptor moves no byte, and the tensor map is read once. [DEDUCED, log entry 39] -/
def runJob (w : Who) (s : State) (j : CJob) : State × CJob × Ran :=
  if j.started then goOn w s j
  else
    let k := j.mapPlace w
    let inside : Bool := j.op == 2 && decide (j.f 24 4 + 64 ≤ w.team.2)
    match if inside then s.lineErr k else none with
    | some e => (if e.2 = 5 then s.foundBad (16 + w.die) k else s, { j with cause := copyCause e.1 }, .failed)
    | none =>
      if !s.descOk w j then (s, { j with cause := kDESC }, .failed)
      else
        let map := if j.op = 2 then s.tensorMap w j else []
        match if j.op = 2 then j.boxCheck map else none with
        | some cause => (s, { j with cause := cause }, .failed)
        | none => goOn w s { j with
            started := true
            map := map }

/-- The cause that a job records: a stopping cause before BARCLOB (R282). -/
def CJob.finalCause (j : CJob) : Nat := if j.cause ≠ 0 then j.cause else if j.clob then kBARCLOB else 0

def CJob.status (j : CJob) : Nat := copyStatus j.moved j.finalCause

/-- For whom a gang's copy works. -/
def State.whoOf (s : State) (g : Gang) (j : CJob) : Who :=
  { die := g.die, ctx := g.ctx, team := s.teamMem g, window := j.window, gang := some g, lanes := j.lanes }

/-- The access counters of a page of a destination zeroed (R290). -/
def State.clearCounters (s : State) (dst len : Nat) : State :=
  let page (k : Nat) : Nat := if 2 ^ 63 ≤ k then (2 ^ 57 + k % 2 ^ 63) / 2 ^ 16 else k / 2 ^ 16
  let lo := page dst * 8
  let hi := lo + len / 65536 * 8
  (List.range 16).foldl (fun s b =>
    let e := s.base b
    if e.counters = [] then s else s.setBase b { e with counters := e.counters.filter fun c => c.1 < lo || hi ≤ c.1 }) s

/-- The other copies of a gang that may run, once one of them has ended (R283). -/
def State.kickCopies (s : State) (key : Nat) : State :=
  s.flight.foldl (fun t x => match x.2.job with
    | .copy j => if x.2.gang == key && j.held.isNone then t.kick (.copyJobComplete x.1) else t
    | _ => t) s

/-- A copy-class word's end: its bytes land, its counter falls (R36, R293). -/
def State.copyLand (s : State) (op : Nat) (f : Flight) (j : CJob) (bs : List Byte) (fs : List Failure) : State :=
  match s.gang f.gang with
  | none => s
  | some g => (s.finish op f (g.mapLanes j.lanes fun _ => g.land j.dest bs) fs).kickCopies f.gang

/-- A copy's end (R89, R282, R293): its status lands, and without a status register a failure waits for the counter wait. -/
def State.copyEnd (s : State) (op : Nat) (f : Flight) (j : CJob) (status : Nat) : State :=
  let s := if j.op = 11 ∧ j.finalCause = 0 then s.clearCounters j.dst j.len else s
  let fs : List Failure := if j.dest = .none ∧ (status / 2) % 2 = 1 then
      [{ ctr := f.ctr, code := cCOPYFAULT, arg := BitVec.ofNat 64 status, mask := maskOf j.lanes }] else []
  s.copyLand op f j (leBytes 4 status) fs

/-- A copy job put back after a run, ended, or still to go on (R293). -/
def afterRun (op : Nat) (f : Flight) (r : State × CJob × Ran) : State :=
  if r.2.2.ended then r.1.copyEnd op f r.2.1 r.2.1.status else r.1.setJob op f (.copy r.2.1)

/-- Whether a copy-class word writes memory by itself: every one but COPYN and the chain words. -/
def CJob.writes (j : CJob) : Bool := [1, 2, 3, 4, 5, 7, 11, 12].contains j.op

/-- Whether an earlier copy of the gang has still to write, which a later one that writes waits for (R283). [DEDUCED, log entry 39] -/
def State.writesBefore (s : State) (op key : Nat) (j : CJob) : Bool :=
  j.writes && s.flight.any fun x => decide (x.1 < op) && x.2.gang == key && match x.2.job with
    | .copy i => i.writes
    | _ => false

end Sys2Proof.Machine
end

