-- ==== Sys2Proof/Machine/CopyWords.lean ====
section
/-!
DEFINITION. The copy-class words, their completion, multicast, the network path and the chain channels (R284 to R289, R291 to R304,
R327).
-/
namespace Sys2Proof.Machine

/-- The precise checks of a descriptor address (R293). -/
def State.descTrap (s : State) (c : Issue) (a : Nat) : Option Trap :=
  if a % 64 ≠ 0 then some { code := cMISALIGN, arg := some (BitVec.ofNat 64 a) }
  else if (s.teamMem c.g).2 < a + 64 then some { code := cPERMFAULT, arg := some (BitVec.ofNat 64 a) }
  else none

/-- SPBASE and SPLIM of a context (R151). -/
def State.window (s : State) (ctx : Nat) : Nat × Nat := ((s.ctx ctx).spBase.toNat, (s.ctx ctx).spLim.toNat)

/-- The hand-off of a copy-class word (R292, R293): `op` is its op of R291. -/
def copyWord (i : Instr) (op : Nat) (d a : Opnd) (ctr : BitVec 4) (sealed : Bool) (s : State) : Outcome :=
  gangWord i s fun c =>
    let pair := op == 8
    let chain := op == 8 || op == 9 || op == 10
    let va := if pair then c.g.r64 a c.low else (c.g.r32 a c.low).setWidth 64
    match firstTrap [if op == 11 && !c.g.privileged then some priv else none,
      if a == 0xE8 then some illOpnd else none, c.dataTrap false true d (if op = 9 then 16 else 4), c.one.check [(.src pair, a)],
      if chain then none else s.descTrap c va.toNat] with
    | some t => .trap t
    | none =>
      let n := c.g.outstanding ctr.toNat
      if 63 ≤ n then .wait (s.hold c .wait)
      else
        let k := ((s.teamMem c.g).1 + va.toNat) % 2 ^ 44
        let bad := !chain && s.mem.isBad k
        let j : CJob := {
          op := op
          desc := if chain then [] else s.mem.read k 64
          arg := va
          dest := c.g.destOf d (if op = 9 then 16 else 4)
          batch := if chain then none else some (c.g.batch + 1)
          lanes := c.act
          window := (s.window c.g.ctx)
          cause := if bad then kMEMUE else 0 }
        let g := { (c.g.setCtr ctr.toNat (n + 1)).dropLatch c.act with batch := if sealed then c.g.batch + 1 else c.g.batch }
        let op := s.nextOp
        let s := { s.put c g with
          nextOp := op + 1
          flight := tput s.flight op ⟨c.key, c.g.ctx, ctr.toNat, .copy j⟩ }
        let s := s.push [.copyJobComplete op]
        .done (if bad then s.foundBad (16 + c.g.die) k else s)

/-- COPY (R296). -/
def execCopy (d a : Opnd) (ctr : BitVec 4) (sealed : Bool) (s : State) : Outcome := copyWord (.copy d a ctr sealed) 1 d a ctr sealed s
/-- COPYT (R297). -/
def execCopyt (d a : Opnd) (ctr : BitVec 4) (sealed : Bool) (s : State) : Outcome := copyWord (.copyt d a ctr sealed) 2 d a ctr sealed s
/-- COPYG (R298). -/
def execCopyg (d a : Opnd) (ctr : BitVec 4) (sealed : Bool) (s : State) : Outcome := copyWord (.copyg d a ctr sealed) 3 d a ctr sealed s
/-- COPYS (R298). -/
def execCopys (d a : Opnd) (ctr : BitVec 4) (sealed : Bool) (s : State) : Outcome := copyWord (.copys d a ctr sealed) 4 d a ctr sealed s
/-- COPYM (R284, R299). -/
def execCopym (d a : Opnd) (ctr : BitVec 4) (sealed : Bool) (s : State) : Outcome := copyWord (.copym d a ctr sealed) 5 d a ctr sealed s
/-- COPYN (R300). -/
def execCopyn (d a : Opnd) (ctr : BitVec 4) (sealed : Bool) (s : State) : Outcome := copyWord (.copyn d a ctr sealed) 6 d a ctr sealed s
/-- FILL (R296). -/
def execFill (d a : Opnd) (ctr : BitVec 4) (sealed : Bool) (s : State) : Outcome := copyWord (.fill d a ctr sealed) 7 d a ctr sealed s
/-- CHAIN (R302). -/
def execChain (d a : Opnd) (ctr : BitVec 4) (sealed : Bool) (s : State) : Outcome := copyWord (.chain d a ctr sealed) 8 d a ctr sealed s
/-- CHSTAT (R303). [DEDUCED, log entry 39] -/
def execChstat (d a : Opnd) (ctr : BitVec 4) (sealed : Bool) (s : State) : Outcome := copyWord (.chstat d a ctr sealed) 9 d a ctr sealed s
/-- CHABORT (R304). -/
def execChabort (d a : Opnd) (ctr : BitVec 4) (sealed : Bool) (s : State) : Outcome := copyWord (.chabort d a ctr sealed) 10 d a ctr sealed s
/-- MIGR (R290, R301). -/
def execMigr (d a : Opnd) (ctr : BitVec 4) (sealed : Bool) (s : State) : Outcome := copyWord (.migr d a ctr sealed) 11 d a ctr sealed s
/-- COPYR (R300). -/
def execCopyr (d a : Opnd) (ctr : BitVec 4) (sealed : Bool) (s : State) : Outcome := copyWord (.copyr d a ctr sealed) 12 d a ctr sealed s

/-- A chain channel of a die. -/
def State.chan (s : State) (die k : Nat) : Chan := tgetD (s.die die).chans k {}
def State.setChan (s : State) (die k : Nat) (c : Chan) : State :=
  let d := s.die die
  s.setDie die { d with chans := tput d.chans k c }

/-- A chain head or a doorbell given to a channel by a context (R289, R302): whether the channel took it. A RUNNING one remembers the doorbell. -/
def State.chainStart (s : State) (die ctx : Nat) (head : DWord) (packets : List (Nat × Nat × Word × Bool × DWord)) : State × Bool :=
  let k := bits head 0 6
  let c := s.chan die k
  if c.ctx.isSome && c.ctx != some ctx then (s, false)
  else if c.state = 1 then (s.setChan die k { c with
      packets := c.packets ++ packets
      rung := true }, true)
  else
    let c' : Chan := if c.state = 2 then { c with state := 1, packets := packets }
      else { ctx := some ctx, state := 1, pos := head &&& ~~~0x3F#64, packets := packets }
    ((s.setChan die k c').push [.chainRecordStep die k], true)

/-- The quad of CHSTAT (R303). -/
def Chan.quad (c : Chan) (ctx : Nat) : List Byte :=
  let mine := c.ctx == some ctx
  let word := if mine then min c.doneRec 0xFFFFFF * 256 + (if c.state = 3 then c.cause else 0) * 16 + 4 + c.state else c.state
  leBytes 4 word ++ leBytes 4 0 ++ leBytes 8 (if mine && c.state != 0 then c.pos.toNat else 0)

/-- A channel aborted by its context (R304): its record in progress is written with cause ABORTED, and it is IDLE. -/
def State.chainAbort (s : State) (die k : Nat) (c : Chan) : State :=
  let s := s.abortRecord die c
  let s := if c.state = 1 then s.walkRecord die c 3 0 else s
  s.setChan die k { ctx := c.ctx, doneRec := c.doneRec }

/-- The cores that receive a COPYM, by cluster rank (R284). -/
def CJob.ranks (j : CJob) : List Nat := (List.range 64).filter fun r => (BitVec.ofNat 64 (j.f 32 8)).getLsbD r

/-- A multicast begun: the block is read, then each receiver's copy engine takes it, or only arrives where the block could not be read (R284). A malformed
descriptor ends it (R279). [DEDUCED, log entry 39] -/
def State.multicast (s : State) (op : Nat) (f : Flight) (g : Gang) (j : CJob) : State :=
  let r := runJob (s.whoOf g j) s j
  let j' : CJob := { r.2.1 with due := r.2.1.ranks }
  if !r.2.2.ended then r.1.setJob op f (.copy r.2.1)
  else if !j'.started || j'.due = [] then r.1.copyEnd op f j' j'.status
  else (r.1.setJob op f (.copy j')).push (j'.due.map fun k => .copymReceiverArrive op k)

/-- The arrive of a receiver on the sender's barrier word (R227, R284): whether the word lies where the sender may name it. -/
def State.ackArrive (s : State) (g : Gang) (ackw : DWord) : State × Bool :=
  let w := s.barrierWord g ackw
  if field ackw 33 31 != 0 || w.2.2.2 < w.2.1 + 8 then (s, false)
  else
    let k := w.2.2.1 % 2 ^ 44
    let mem := s.mem.writeNat k 8 (barArrival (s.mem.readNat k 8) 1)
    ({ s with mem := if w.1 then mem.own k (some g.ctx) else mem }, true)

/-- The block of a COPYM written at a place of a receiving core, line by line up to the first that fails (R228, R282, R284): how many bytes were stored, and
the cause of the failure, if there is one. -/
def State.blockWrite (s : State) (sock k : Nat) (bs : List Byte) : State × Nat × Option Nat :=
  (pieces k bs.length).foldl (fun (r : State × Nat × Option Nat) p =>
    if r.2.2.isSome then r
    else match r.1.lineErr p.1 with
      | some e => (if e.2 = 5 then r.1.foundBad sock p.1 else r.1, r.2.1, some (copyCause e.1))
      | none =>
        let m := r.1.mem.writeSkip p.1 ((bs.drop (p.1 - k)).take p.2)
        ({ r.1 with mem := m.1 }, r.2.1 + m.2, none)) (s, 0, none)

/-- A receiver's part of a COPYM (R282, R284): what of the block lies within its team's memory is written, and what does not fails it. -/
def State.receive (s : State) (core : Nat) (t : Team) (j : CJob) : State × CJob :=
  let fit := j.whole j.len (min j.len (t.shared - j.dst))
  let r := s.blockWrite (16 + coreDie core) (teamBase core + t.base + j.dst) (j.buf.take fit)
  (r.1, { j with
    moved := j.moved + r.2.1
    clob := j.clob || (r.2.2.isNone && r.2.1 != fit)
    cause := match r.2.2 with
      | some cause => cause
      | none => if fit < j.len then kFAULT else j.cause })

/-- COPYM_RECEIVER_ARRIVE (R284, R299): the block is written at a receiver, which arrives on ACKW whether it could be or not. -/
def execCopymReceiverArrive (op rank : Nat) (s : State) : Outcome :=
  match tget s.flight op with
  | none => .next s
  | some f => match f.job, s.gang f.gang with
    | .copy j, some g =>
      if !j.due.contains rank then .next s
      else match s.team g.teamKey with
        | none => .next s
        | some t =>
          let core := (t.clusterCores).getD rank 512
          let dest := (s.clusterTeams t).find? fun x => x.2.core == core
          let r : State × CJob := match dest with
            | none => (s, { j with cause := kFAULT })
            | some x =>
              if j.buf.length ≠ j.len then (s, j)
              else s.receive core x.2 j
          let a := r.1.ackArrive g (BitVec.ofNat 64 (j.f 40 8))
          let j : CJob := { r.2 with due := r.2.due.erase rank, cause := if a.2 then r.2.cause else kFAULT }
          if j.due = [] then .next (a.1.copyEnd op f j j.status) else .next (a.1.setJob op f (.copy j))
    | _, _ => .next s

/-- How many packets a message takes (R285). -/
def NetMsg.packets (m : NetMsg) : Nat := (m.len + 4095) / 4096

/-- The bytes of packet k of a message. -/
def NetMsg.sizeOf (m : NetMsg) (k : Nat) : Nat := min 4096 (m.len - 4096 * k)

/-- Packets of a message put on the network (R285, R327). -/
def State.netSend (s : State) (id : Nat) (m : NetMsg) (ks : List Nat) : State :=
  ks.foldl (fun s k => s.emit (.net m.peer m.fetch
    { src := s.pkg.id
      fetch := m.fetch
      ext := some (BitVec.ofNat 32 (2 ^ 28 + m.peer.part))
      ctx := m.ctx
      msg := id
      off := 4096 * k
      total := m.len
      raddr := m.raddr
      rsig := m.rsig
      data := (m.data.drop (4096 * k)).take (m.sizeOf k) })) s

/-- A message begun (R285, R286). -/
def State.netStart (s : State) (op : Nat) (f : Flight) (j : CJob) (e : List Byte) : State :=
  let id := s.nextOp
  let m : NetMsg := {
    op := op
    fetch := j.op == 12
    peer := ⟨fieldBytes e 22 1, (s.ctx f.ctx).partid.toNat, fieldBytes e 16 4, e.take 16⟩
    ctx := f.ctx
    len := j.len
    data := j.buf
    raddr := BitVec.ofNat 64 (j.f 32 8)
    rsig := if j.op = 12 then 0 else BitVec.ofNat 64 (j.f 44 8)
    sentAt := s.pkg.time }
  let s := { s with nextOp := id + 1, pkg := { s.pkg with net := tput s.pkg.net id m } }
  (s.setJob op f (.copy { j with arg := BitVec.ofNat 64 id, started := true })).netSend id m (List.range m.packets)

/-- COPYN and COPYR begun (R295, R300). -/
def State.netCopy (s : State) (op : Nat) (f : Flight) (g : Gang) (j : CJob) : State :=
  let w := s.whoOf g j
  if !s.descOk w j then s.copyEnd op f j (copyStatus 0 kDESC)
  else match s.peerEntry g.die f.ctx (j.f 40 4) with
    | .error e =>
      let t := s.failedAt g.die f.ctx (s.peerPlace f.ctx (j.f 40 4)) 32 e
      if e.1 = cWAIT then t else t.copyEnd op f j (copyStatus 0 (copyCause e.1))
    | .ok e =>
      let s := if j.started then s else s.countRange g.die f.ctx (s.peerPlace f.ctx (j.f 40 4)) 32
      if !peerOk e then s.copyEnd op f j (copyStatus 0 kDESC)
      else if j.op = 12 then s.netStart op f j e
      else match runJob w s j with
        | (s', j', .done) => s'.netStart op f j' e
        | r => afterRun op f r

/-- A message of the network path no longer kept. -/
def State.dropMsg (s : State) (id : Nat) : State := { s with pkg := { s.pkg with net := tdel s.pkg.net id } }

/-- What has come of a COPYR written at DST, packet by packet, as far as nothing holds it (R54, R287, R300); it ends once every packet is written, or, when it has
failed, once what had come is (R282). -/
def State.runFetch (s : State) (op : Nat) (f : Flight) (g : Gang) (j : CJob) : State :=
  let r := flushOut (s.whoOf g j) j.out s j
  let all := match tget r.1.pkg.net j.arg.toNat with
    | some m => m.acked.length == m.packets || j.cause != 0
    | none => true
  if r.2.2 == .failed || (r.2.2 == .done && all) then (r.1.dropMsg j.arg.toNat).copyEnd op f r.2.1 r.2.1.status
  else r.1.setJob op f (.copy r.2.1)

/-- The 4-byte header extension of a network packet is what R327 asks for. [DEDUCED, log entry 45] -/
def extOk (ext : Option Word) (part : BitVec 12) : Bool :=
  match ext with
  | none => false
  | some w => field w 28 4 == 1#4 && field w 12 16 == 0 && field w 0 12 == part

/-- The header extension of a partition (R327). -/
def extOf (part : Nat) : Word := BitVec.ofNat 32 (2 ^ 28 + part)

/-- A network packet dropped for its extension, counted and logged, with no acknowledgement (R327). -/
def State.netDrop (s : State) : State := { s with pkg := { s.pkg with netDrops := s.pkg.netDrops + 1 } }.errlog 24 0xFF 1 9 0 0 0

/-- The data of a COPYR's reply packet taken up (R300): of one that passes the bounds of DST the elements within them, and the copy fails (R282). -/
def State.netReply (s : State) (m : NetMsg) (f : Flight) (g : Gang) (j : CJob) (pkt : Nat) (data : List Byte) : State :=
  let w := s.whoOf g j
  let n := m.sizeOf pkt
  let a := j.dst + 4096 * pkt
  let fit := j.whole n (w.room j.dspace a n)
  let out := match w.place j.dspace a fit with
    | some (kind, b) => addRange j.out kind b (data.take fit)
    | none => j.out
  if j.cause ≠ 0 then s
  else (s.setJob m.op f (.copy { j with
    out := out
    cause := if fit < n then kFAULT else 0 })).kick (.copyJobComplete m.op)

/-- NET_ACK_RECEIVE (R286, R300, R327): the acknowledgement of a packet of COPYN, or the reply packet of COPYR. -/
def execNetAckReceive (msg pkt : Nat) (data : NetReply) (s : State) : Outcome :=
  match tget s.pkg.net msg with
  | none => .next s
  | some m =>
    if m.fetch && !extOk data.ext (s.ctx m.ctx).partid then .next s.netDrop
    else if m.packets ≤ pkt ∨ m.acked.contains pkt then .next s
    else
      let m := { m with acked := pkt :: m.acked }
      let s := { s with pkg := { s.pkg with net := tput s.pkg.net msg m } }
      match tget s.flight m.op with
      | none => .next (s.dropMsg msg)
      | some f => match f.job, s.gang f.gang with
        | .copy j, some g =>
          if m.fetch then .next (s.netReply m f g j pkt data.bytes)
          else
            let j := { j with moved := j.moved + m.sizeOf pkt }
            if m.acked.length = m.packets then .next ((s.dropMsg msg).copyEnd m.op f j j.status)
            else .next (s.setJob m.op f (.copy j))
        | _, _ => .next s

/-- A message of the network path failed with a cause (R286): what has come of a COPYR is still written (R282). -/
def State.netFail (s : State) (msg : Nat) (m : NetMsg) (cause : Nat) : State :=
  let s := s.dropMsg msg
  match tget s.flight m.op with
  | none => s
  | some f => match f.job with
    | .copy j =>
      let j := { j with cause := if j.cause = 0 then cause else j.cause }
      if j.out = [] then s.copyEnd m.op f j j.status else (s.setJob m.op f (.copy j)).kick (.copyJobComplete m.op)
    | _ => s

/-- NEGATIVE_ACK (R286). -/
def execNegativeAck (msg : Nat) (s : State) : Outcome :=
  match tget s.pkg.net msg with
  | none => .next s
  | some m => .next (s.netFail msg m kREMOTE)

/-- The timeout of a message after a number of retries, in ns (R286). -/
def netTimeout (retries : Nat) : Nat := min (16000 * 2 ^ retries) 2000000

/-- NET_RETRY_TIMEOUT (R286): of a message whose acknowledgements are incomplete. -/
def execNetRetryTimeout (msg : Nat) (s : State) : Outcome :=
  match tget s.pkg.net msg with
  | none => .next s
  | some m =>
    if m.acked.length = m.packets ∨ (s.pkg.time - m.sentAt).toNat < netTimeout m.retries then .next s
    else if 8 ≤ m.retries then .next (s.netFail msg m kNETFAIL)
    else
      let m := { m with retries := m.retries + 1, sentAt := s.pkg.time }
      .next ({ s with pkg := { s.pkg with net := tput s.pkg.net msg m } }.netSend msg m
        ((List.range m.packets).filter fun k => !m.acked.contains k))

/-- COPY_JOB_COMPLETE (R283, R293): the engine performs a job once the earlier ones that write have ended, or goes on with one that was held or had to ask.
[DEDUCED, log entry 39] -/
def execCopyJobComplete (op : Nat) (s : State) : Outcome :=
  match tget s.flight op with
  | none => .next s
  | some f => match f.job, s.gang f.gang with
    | .copy j, some g =>
      if j.held.isSome || s.writesBefore op f.gang j then .next s
      else if j.cause ≠ 0 ∧ !j.started then .next (s.copyEnd op f j j.status)
      else match j.op with
        | 8 =>
          let r := s.chainStart g.die f.ctx j.arg []
          .next (r.1.copyEnd op f j (copyStatus 0 (if r.2 then 0 else kFAULT)))
        | 9 =>
          if 64 ≤ j.arg.toNat then .next (s.copyLand op f j (leBytes 4 0x30 ++ leBytes 12 0) [])
          else .next (s.copyLand op f j ((s.chan g.die j.arg.toNat).quad f.ctx) [])
        | 10 =>
          let k := j.arg.toNat
          let c := s.chan g.die k
          if 64 ≤ k || (c.ctx.isSome && c.ctx != some f.ctx) then .next (s.copyEnd op f j (copyStatus 0 kFAULT))
          else if c.ctx.isNone then .next (s.copyEnd op f j (copyStatus 0 0))
          else .next ((s.chainAbort g.die k c).copyEnd op f j (copyStatus 0 (if c.cur.isSome then kABORTED else 0)))
        | 5 => if j.due = [] then .next (s.multicast op f g j) else .next s
        | 6 => if (tget s.pkg.net j.arg.toNat).isSome && j.stage != 0 then .next s else .next (s.netCopy op f g j)
        | 12 => if j.started then .next (s.runFetch op f g j) else .next (s.netCopy op f g j)
        | _ => .next (afterRun op f (runJob (s.whoOf g j) s j))
    | _, _ => .next s

/-- A walk's end (R289): the channel's state, and its completion record. [DEDUCED, log entry 39] -/
def State.walkEnd (s : State) (die k : Nat) (c : Chan) (status code : Nat) : State :=
  (s.walkRecord die c status code).setChan die k { c with packets := [], cur := none }

/-- A record that failed (R289): its status is written, its OWN bit stays, and the channel is in ERROR. [DEDUCED, log entry 39] -/
def State.recordFailed (s : State) (die ctx k : Nat) (c : Chan) (cause : Nat) (stat : Option Nat) : State :=
  let s := match stat with
    | none => s
    | some v => match s.vwrite die ctx (c.pos + 12) (leBytes 4 v) with
      | .ok s' => s'.countRange die ctx (c.pos + 12) 4
      | .error e => s.failedAt die ctx (c.pos + 12) 4 e
  s.walkEnd die k { c with state := 3, cause := cause } 1 cCOPYFAULT

/-- A walk that stops at its record, or that goes on since a doorbell has come meanwhile (R289): `atNext` where it stops at NEXT. -/
def State.walkStop (s : State) (die k : Nat) (c : Chan) (atNext : Bool) : State :=
  if c.rung then (s.setChan die k { c with atNext := atNext, rung := false, cur := none }).push [.chainRecordStep die k]
  else s.walkEnd die k { c with state := 2, atNext := atNext } 0 0

/-- A record whose copy has ended (R289): STAT and OWN are written in one line, and the walk goes on at NEXT, or it failed. [DEDUCED, log entry 39] -/
def State.recordEnd (s : State) (die ctx k : Nat) (c : Chan) (j : CJob) : State :=
  let own := fieldBytes j.buf 8 4
  let next := BitVec.ofNat 64 (fieldBytes j.buf 0 8)
  if j.finalCause ≠ 0 then s.recordFailed die ctx k c j.finalCause (some j.status)
  else match s.vwrite die ctx (c.pos + 8) (leBytes 4 (own % 2 ^ 31) ++ leBytes 4 j.status) with
    | .error e => (s.failedAt die ctx (c.pos + 8) 8 e).recordFailed die ctx k c (copyCause e.1) none
    | .ok s' =>
      let s' := s'.countRange die ctx (c.pos + 8) 8
      let s' := if own / 16 % 2 = 1 then s'.irq (1 + die) 5 k else s'
      let c := { c with doneRec := min (c.doneRec + 1) 0xFFFFFF, cur := none }
      if next = 0 then s'.walkStop die k c true else (s'.setChan die k { c with pos := next }).push [.chainRecordStep die k]

/-- The job of a chain record, or the cause with which its fields fail it (R288). -/
def recordJob (rec : List Byte) (window : Nat × Nat) : Except Nat CJob :=
  let own := fieldBytes rec 8 4
  let kind := own % 16
  if own / 32 % 2 ^ 26 ≠ 0 ∨ 2 ≤ kind then .error kDESC
  else .ok { op := if kind = 0 then 1 else 7, desc := rec.drop 16 ++ List.replicate 16 0, buf := rec, window := window }

/-- Whether nothing of a record's copy is left to do. -/
def CJob.over (j : CJob) : Bool := j.out == [] && (j.cause != 0 || (j.started && decide (j.stages ≤ j.stage)))

/-- A record's copy run on (R289): once it has ended, the record itself is written in a step of its own. [DEDUCED, log entry 39] -/
def State.recordRun (s : State) (die ctx k : Nat) (c : Chan) (j : CJob) : State :=
  let r := runJob { die := die, ctx := ctx, window := j.window } s j
  let t := r.1.setChan die k { c with cur := some r.2.1 }
  if r.2.2.ended then t.push [.chainRecordStep die k] else t

/-- CHAIN_RECORD_STEP (R289): the walk goes on at the channel's position. -/
def execChainRecordStep (die chan : Nat) (s : State) : Outcome :=
  let c := s.chan die chan
  match c.ctx with
  | none => .next s
  | some ctx =>
    if c.state ≠ 1 then .next s
    else match c.cur with
      | some j =>
        if j.held.isSome then .next s
        else if j.over then .next (s.recordEnd die ctx chan c j)
        else .next (s.recordRun die ctx chan c j)
      | none =>
        match s.unitCheck die ctx c.pos 64 .load with
        | some e => .next ((s.failedAt die ctx c.pos 64 e).recordFailed die ctx chan c (copyCause e.1) none)
        | none => match s.vread die ctx c.pos 64 with
          | .error e => .next ((s.failedAt die ctx c.pos 64 e).recordFailed die ctx chan c (copyCause e.1) none)
          | .ok rec =>
            let s := s.countRange die ctx c.pos 64
            if c.atNext then
              let next := BitVec.ofNat 64 (fieldBytes rec 0 8)
              if next = 0 then .next (s.walkStop die chan c true)
              else .next ((s.setChan die chan { c with pos := next, atNext := false }).push [.chainRecordStep die chan])
            else if fieldBytes rec 8 4 / 2 ^ 31 = 0 then .next (s.walkStop die chan c false)
            else match recordJob rec (s.window ctx) with
              | .error cause => .next (s.recordFailed die ctx chan c cause (some (copyStatus 0 cause)))
              | .ok j => .next (s.recordRun die ctx chan c j)

/-- The die whose record describes a context, for the accesses of the network path (R384). -/
def State.homeDie (s : State) (ctx : Nat) : Option Nat := (List.range 8).find? fun k => (s.ctxRec k ctx).valid

/-- An acknowledgement of a network packet sent. -/
def State.netAck (s : State) (p : NetPacket) (ok : Bool) : State := s.emit (.netAck p.src p.msg (p.off / 4096) ok)

/-- A packet's payload written at its place, or where and why that is not permitted (R286, R287). -/
def State.netWrite (s : State) (die ctx : Nat) (va : DWord) (bs : List Byte) : Except (DWord × Nat × Nat) State :=
  (pieces va.toNat bs.length).foldl (fun (r : Except (DWord × Nat × Nat) State) p =>
    match r with
    | .error x => .error x
    | .ok t =>
      let a := BitVec.ofNat 64 p.1
      match t.unitCheck die ctx a 1 .store with
      | some e => .error (a, e)
      | none => match t.vwrite die ctx a ((bs.drop (p.1 - va.toNat)).take p.2) with
        | .ok t' => .ok (t'.countRange die ctx a p.2)
        | .error e => .error (a, e)) (.ok s)

/-- A network packet that cannot be served: a negative acknowledgement, and what the failed access leaves (R16, R286). -/
def State.netRefuse (s : State) (die : Nat) (p : NetPacket) (va : DWord) (n : Nat) (e : Nat × Nat) : State :=
  let t := s.failedAt die p.ctx va n e
  if e.1 = cWAIT then t else t.netAck p false

/-- The answer of this package to a request of a peer's COPYR (R285): the bytes at RADDR, or a negative acknowledgement (R286). -/
def State.netServe (s : State) (die : Nat) (p : NetPacket) : State :=
  let va := p.raddr + BitVec.ofNat 64 p.off
  let n := min 4096 (p.total - p.off)
  match (pieces va.toNat n).findSome? fun x => s.unitCheck die p.ctx (BitVec.ofNat 64 x.1) 1 .load with
  | some e => s.netRefuse die p va n e
  | none => match s.vread die p.ctx va n with
    | .error e => s.netRefuse die p va n e
    | .ok bs => (s.countRange die p.ctx va n).emit (.netData p.src p.msg (p.off / 4096) (extOf (s.ctx p.ctx).partid.toNat) bs)

/-- NET_PACKET_RECEIVE (R285, R287, R327). -/
def execNetPacketReceive (p : NetPacket) (s : State) : Outcome :=
  let part := (s.ctx p.ctx).partid
  if (tget s.ctxs p.ctx).isNone || !extOk p.ext part then .next s.netDrop
  else match s.homeDie p.ctx with
    | none => .next (s.netAck p false)
    | some die =>
      if p.fetch then .next (s.netServe die p)
      else if s.pkg.recvDone.contains (p.src, part.toNat, p.msg) then .next (s.netAck p true)
      else
        let mine (r : NetRecv) : Bool := r.src == p.src && r.part == part.toNat && r.msg == p.msg
        let r := (s.pkg.recv.find? mine).getD ⟨p.src, part.toNat, p.msg, []⟩
        let k := p.off / 4096
        if r.got.contains k then .next (s.netAck p true)
        else match s.netWrite die p.ctx (p.raddr + BitVec.ofNat 64 p.off) p.data with
          | .error x => .next (s.netRefuse die p x.1 1 x.2)
          | .ok s =>
            let r := { r with got := k :: r.got }
            let rest := s.pkg.recv.filter fun x => !mine x
            if r.got.length < (p.total + 4095) / 4096 then
              .next ({ s with pkg := { s.pkg with recv := r :: rest } }.netAck p true)
            else
              let done := (p.src, part.toNat, p.msg) :: s.pkg.recvDone
              let same := done.filter fun x => x.1 == p.src && x.2.1 == part.toNat
              let kept := if same.length ≤ 65536 then done else done.erase (same.getLast?.getD (0, 0, 0))
              let s := { s with pkg := { s.pkg with recv := rest, recvDone := kept } }
              if p.rsig = 0 then .next (s.netAck p true)
              else match s.signalSub die p.ctx p.rsig 1 with
                | .ok s' => .next (s'.netAck p true)
                | .error e => .next ((s.failedSignal die p.ctx p.rsig e).netAck p false)

/-- The held copies of a sequence number, gangs' and channels', taken up again (R216, R386). -/
def State.replayCopies (s : State) (die seq : Nat) : State :=
  let is (h : Option (Nat × Nat)) : Bool := match h with | some (_, q) => q == seq | none => false
  let s := s.flight.foldl (fun s x => match x.2.job, s.gang x.2.gang with
    | .copy j, some g =>
      if is j.held && g.die == die then (s.setJob x.1 x.2 (.copy { j with held := none })).push [.copyJobComplete x.1] else s
    | _, _ => s) s
  (s.die die).chans.foldl (fun s x => match x.2.cur with
    | some j => if is j.held then (s.setChan die x.1 { x.2 with cur := some { j with held := none } }).push [.chainRecordStep die x.1] else s
    | none => s) s

/-- A held copy cancelled (R216, R282): what was gathered before a read that was held is still to be written; of the lines that a write was held with none
is. -/
def CJob.cancelled (j : CJob) : CJob :=
  { j with
    held := none
    cause := kFAULT
    out := if j.op ≠ 12 ∧ j.cause = 0 ∧ j.stage < j.stages then j.out else [] }

/-- The held copies of a sequence number failed (R282, R386). -/
def State.cancelCopies (s : State) (die seq : Nat) : State :=
  let is (h : Option (Nat × Nat)) : Bool := match h with | some (_, q) => q == seq | none => false
  let s := s.flight.foldl (fun s x => match x.2.job, s.gang x.2.gang with
    | .copy j, some g =>
      if is j.held && g.die == die then (s.setJob x.1 x.2 (.copy j.cancelled)).push [.copyJobComplete x.1] else s
    | _, _ => s) s
  (s.die die).chans.foldl (fun s x => match x.2.cur, x.2.ctx with
    | some j, some _ => if is j.held then (s.setChan die x.1 { x.2 with cur := some j.cancelled }).push [.chainRecordStep die x.1] else s
    | _, _ => s) s

end Sys2Proof.Machine
end

