-- ==== Sys2Proof/Machine/Convert.lean ====
section
/-!
DEFINITION. The conversions (R160 to R165): CVT, FRND, PKLN6, UPLN6.
-/
namespace Sys2Proof.Machine

/-- The float format of a CVT format code (R160). -/
def cvtFmt (c : BitVec 4) : Fmt := if c = 0 then f16 else if c = 1 then bf16 else if c = 2 then f32 else f64

/-- The bit width of a CVT format code (R160). -/
def cvtBits (c : BitVec 4) : Nat :=
  if c < 4#4 then (if c < 2#4 then 16 else if c = 2#4 then 32 else 64) else 8 * 2 ^ (c.toNat % 4)

/-- A number that CVT moves: a float or an exact integer. -/
inductive CvtVal where
  | flt (v : FVal)
  | int (i : Int)

/-- The value of the low bits of a source in a format (R160). -/
def cvtRead (c : BitVec 4) (x : DWord) : CvtVal :=
  let n := x.toNat % 2 ^ cvtBits c
  if c < 4#4 then .flt ((cvtFmt c).decode n)
  else if c < 8#4 then .int (if n < 2 ^ (cvtBits c - 1) then n else (n : Int) - (2 ^ cvtBits c : Nat))
  else .int n

/-- The least and the greatest value of an integer format. -/
def cvtMin (c : BitVec 4) : Int := if c < 8#4 then -(2 ^ (cvtBits c - 1) : Nat) else 0
def cvtMax (c : BitVec 4) : Int := if c < 8#4 then (2 ^ (cvtBits c - 1) : Nat) - 1 else (2 ^ cvtBits c : Nat) - 1

/-- The conversion of R161: the register value, sign- or zero-extended as R160 says, and the flags. -/
def cvtOp (rm : RM) (src dst : BitVec 4) (x : DWord) : DWord × Flags :=
  match cvtRead src x with
  | .flt v =>
    if dst < 4#4 then let r := (cvtFmt dst).convert rm v; (BitVec.ofNat 64 r.1, r.2)
    else let r := toIntSat rm (cvtMin dst) (cvtMax dst) v; (BitVec.ofInt 64 r.1, r.2)
  | .int i =>
    if dst < 4#4 then let r := (cvtFmt dst).ofExact rm (i < 0) i.natAbs 0; (BitVec.ofNat 64 r.1, r.2)
    else (BitVec.ofInt 64 (Min.min (Max.max i (cvtMin dst)) (cvtMax dst)), 0)

/-- CVT (R160, R161). -/
def execCvt (d a : Opnd) (dyn : Bool) (rnd : BitVec 2) (src dst : BitVec 4) (s : State) : Outcome :=
  let r (g : Gang) (k : Nat) : DWord × Flags :=
    cvtOp (if dyn then g.rm else rnd) src dst (if cvtBits src = 64 then g.r64 a k else (g.r32 a k).setWidth 64)
  fpWord (.cvt d a dyn rnd src dst) [(.dst (cvtBits dst == 64), d), (.src (cvtBits src == 64), a)]
    (fun g k => (r g k).2)
    (fun g k => if cvtBits dst = 64 then g.res64 d (r g k).1 else g.res32 d (field (r g k).1 0 32)) s

/-- FRND (R162). -/
def execFrnd (d a : Opnd) (wide dyn : Bool) (rnd : BitVec 2) (s : State) : Outcome :=
  let mode (g : Gang) := if dyn then g.rm else rnd
  if wide then
    fp64Word (.frnd d a wide dyn rnd) [(.dst true, d), (.src true, a)] d (fun g k => f64.rint (mode g) (g.r64 a k).toNat) s
  else
    fp32Word (.frnd d a wide dyn rnd) [(.dst false, d), (.src false, a)] d (fun g k => f32.rint (mode g) (g.r32 a k).toNat) s

/-- The table T of R237: 2^(f/4) in 24 bits. -/
def ln6T (f : Nat) : Nat := if f = 0 then 0x800000 else if f = 1 then 0x9837F0 else if f = 2 then 0xB504F3 else 0xD744FD

/-- Whether log2 (m × 2^e) ≥ t / 8. -/
def log2Ge (m : Nat) (e t : Int) : Bool := let p := scaled (m ^ 8) 1 (8 * e - t); p.2 ≤ p.1

/-- Whether log2 (m × 2^e) = t / 8. -/
def log2Eq (m : Nat) (e t : Int) : Bool := let p := scaled (m ^ 8) 1 (8 * e - t); p.2 == p.1

/-- The LN6 code of a value under an E8 scale, and its flags (R164). -/
def ln6Code (scale : Nat) (v : FVal) : Nat × Flags :=
  if scale = 255 then (0x30, fNV)
  else match v with
    | .nan _ => (0x30, fNV)
    | .inf n => (32 * n.toNat + 15, fOF ||| fNX)
    | .fin n m e =>
      if m = 0 then (0x10, 0)
      else
        let e := e + 127 - (scale : Int)
        if log2Ge m e 31 then (32 * n.toNat + 15, fOF ||| fNX)
        else if !log2Ge m e (-31) || log2Eq m e (-31) then (0x10, fUF ||| fNX)
        else
          let t : Int := (((List.range 62).filter fun (j : Nat) => log2Ge m e ((j : Int) - 31)).length : Nat) - 32
          let exact := log2Eq m e t
          let l : Int := if t % 2 = 0 then t / 2 else if exact && (t / 2) % 2 == 0 then t / 2 else t / 2 + 1
          (32 * n.toNat + (l % 32).toNat, if exact && t % 2 == 0 then 0 else fNX)

/-- The FP32 value of an LN6 code under an E8 scale, and its flags (R165). -/
def ln6Value (rm : RM) (scale code : Nat) : Nat × Flags :=
  if scale = 255 ∨ code = 0x30 then (f32.nanBits, fNV)
  else if code = 0x10 then (0, 0)
  else
    let q := code % 32 / 4
    let i : Int := if q < 4 then q else (q : Int) - 8
    f32.round rm (code / 32 == 1) (ln6T (code % 4)) 1 (i - 23 + (scale : Int) - 127)

/-- Whether four registers from an operand byte on are vk names below REGBYTES (R163). -/
def Gang.quadOk (g : Gang) (o : Opnd) : Bool := o.toNat + 3 ≤ 223 && (g.place g.vbNow (4 * o.toNat) 16).isSome

/-- The bytes of the group J of a register (R163). -/
def Gang.group6 (g : Gang) (o : Opnd) (j : Nat) : Option (Bool × Nat) :=
  if o < 0xE0#8 then g.place g.vbNow (4 * o.toNat + 3 * j) 3 else none

/-- The trap that PKLN6's and UPLN6's operands give (R163, R257). -/
def Issue.ln6Check (c : Issue) (grp quad b : Opnd) (j : Nat) (readsQuad : Bool) : Option Trap :=
  match c.g.group6 grp j with
  | none => some illOpnd
  | some (u, off) =>
    if !c.g.quadOk quad || !c.g.useOk c.full (.src false) b then some illOpnd
    else
      let words : List (Bool × Nat) :=
        if readsQuad then (match c.g.place c.g.vbNow (4 * quad.toNat) 16 with
          | some (u, off) => (List.range 4).map fun m => (u, off / 4 + m)
          | none => [])
        else [(u, off / 4), (u, (off + 2) / 4)]
      let bad (w : Bool × Nat) := c.act.filter fun i => c.g.wordPoison (c.g.lane i) w.1 false w.2
      match words.filter fun w => bad w != [] with
      | w :: _ => some { code := cPOISON, arg := some (BitVec.ofNat 64 (4 * w.2)), lanes := some (maskOf (bad w)) }
      | [] => c.check [(.src false, b)]

/-- The four codes of a lane and their flags (R164). -/
def Gang.pack6 (g : Gang) (a b : Opnd) (k : Nat) : Nat × Flags :=
  let scale := (g.r32 b k).toNat % 256
  (List.range 4).foldl (fun (acc : Nat × Flags) m =>
    let r := ln6Code scale (f32.decode (g.vReg (g.lane k) (a.toNat + m)).toNat)
    (acc.1 + r.1 * 64 ^ m, acc.2 ||| r.2)) (0, 0)

/-- PKLN6 (R163, R164): the three bytes of the group are written, and the latch receives the 24 bits. -/
def execPkln6 (d a b : Opnd) (j : BitVec 3) (s : State) : Outcome :=
  gangWord (.pkln6 d a b j) s fun c =>
    match c.ln6Check d a b j.toNat true with
    | some t => .trap t
    | none => match c.fpTrap fun k => (c.g.pack6 a b k).2 with
      | some t => .trap t
      | none =>
        let put (k : Nat) (l : Lane) : Lane :=
          let v := (c.g.pack6 a b k).1
          match c.g.group6 d j.toNat with
          | some (u, off) => { c.g.writeBytes l u false off (leBytes 3 v) with latch := some (BitVec.ofNat 64 v) }
          | none => l
        .done (s.put c ((c.g.mapLanes c.act put).raiseFlags (orFlags c.act fun k => (c.g.pack6 a b k).2)))

/-- The four values of a lane's group and their flags (R165). -/
def Gang.unpack6 (g : Gang) (a b : Opnd) (j k : Nat) : List (Nat × Flags) :=
  match g.group6 a j with
  | none => []
  | some (u, off) =>
    let v := ofLeBytes (g.readBytes (g.lane k) u false off 3)
    (List.range 4).map fun m => ln6Value g.rm ((g.r32 b k).toNat % 256) (v / 64 ^ m % 64)

/-- UPLN6 (R163, R165): four registers from D on are written, and the latch receives D's value. -/
def execUpln6 (d a b : Opnd) (j : BitVec 3) (s : State) : Outcome :=
  gangWord (.upln6 d a b j) s fun c =>
    let flags (k : Nat) : Flags := (c.g.unpack6 a b j.toNat k).foldl (fun x r => x ||| r.2) 0
    match c.ln6Check a d b j.toNat false with
    | some t => .trap t
    | none => match c.fpTrap flags with
      | some t => .trap t
      | none =>
        let put (k : Nat) (l : Lane) : Lane :=
          let vs := (c.g.unpack6 a b j.toNat k).map fun r => BitVec.ofNat 32 r.1
          let l := (vs.zipIdx).foldl (fun l p => c.g.put32 (d + BitVec.ofNat 8 p.2) p.1 l) l
          { l with latch := some ((vs.headD 0).setWidth 64) }
        .done (s.put c ((c.g.mapLanes c.act put).raiseFlags (orFlags c.act flags)))

end Sys2Proof.Machine
end

