-- ==== Sys2Proof/Machine/MatrixMath.lean ====
section
/-!
DEFINITION. The matrix engine's arithmetic (R235 to R243, R246, R247): format words, elements, exact products and block sums, and
the one rounding into an accumulator.
-/
namespace Sys2Proof.Machine

/-! The format word (R239). -/
def fwAF (f : Word) : Nat := bits f 0 4
def fwBF (f : Word) : Nat := bits f 4 4
def fwACCF (f : Word) : Nat := bits f 8 2
def fwGEOM (f : Word) : Bool := bit f 10
def fwSPARSE (f : Word) : Bool := bit f 11
def fwRND (f : Word) : RM := field f 12 2
def fwSAL (f : Word) : Nat := bits f 16 8
def fwSAH (f : Word) : Nat := bits f 24 8

/-- Whether the agreed bits 15:0 are a format of R239 and a legal combination of R240. -/
def formatOk (f : Word) : Bool :=
  let af := fwAF f
  let accf := fwACCF f
  bits f 14 2 == 0 && fwBF f == af && decide (af ≤ 5)
    && (if af = 1 then decide (accf ≤ 2) else if af = 5 then accf == 1 else decide (accf ≤ 1))
    && (!fwGEOM f || (decide (af ≤ 3) && !(af == 1 && accf == 2)))

/-- Whether scales apply (R238). -/
def scaledFormat (f : Word) : Bool := decide (fwAF f ≤ 3) && !(fwAF f == 1 && fwACCF f == 2)

/-- K of one quarter operation (R241). -/
def opDepth (af : Nat) : Nat := if af = 4 then 16 else if af = 5 then 8 else 32
/-- Bytes of a row of 32 elements (R236, R241). -/
def rowBytes (af : Nat) : Nat :=
  match af with
  | 0 => 24
  | 1 => 32
  | 2 | 3 => 64
  | 4 => 128
  | _ => 256
/-- Bytes of the A row that a quarter operation reads (R241). -/
def aRowBytes (af : Nat) : Nat := min (rowBytes af) 64
/-- Tile registers of an A row (R260). -/
def aSpan (af : Nat) : Nat := match af with | 0 | 1 => 1 | 2 | 3 => 2 | _ => 4
/-- Bytes of a B tile object of a quarter operation (R241). -/
def objBytes (af : Nat) : Nat := 8 + opDepth af * rowBytes af
/-- Depth of a block (R238, R241). -/
def blockDepth (f : Word) : Nat := if fwGEOM f then 16 else opDepth (fwAF f)
/-- Bytes of an accumulator element, and how many a row has (R241). -/
def accBytes (accf : Nat) : Nat := if accf = 1 then 8 else 4
def accCols (accf : Nat) : Nat := if accf = 1 then 16 else 32

/-- Element j of a row (R236, R241). -/
def elemAt (af : Nat) (row : List Byte) (j : Nat) : Nat :=
  match af with
  | 0 => ofLeBytes row / 2 ^ (6 * j) % 64
  | 1 => fieldBytes row j 1
  | 2 | 3 => fieldBytes row (2 * j) 2
  | 4 => fieldBytes row (4 * j) 4
  | _ => fieldBytes row (8 * j) 8

/-- The code of zero, written in place of what SPARSE does not read (R247). -/
def zeroElem (af : Nat) : Nat := if af = 0 then 0x10 else 0

/-- Whether an element is a zero code (R265). -/
def isZeroElem (af e : Nat) : Bool :=
  match af with
  | 0 => e == 0x10
  | 1 => e == 0
  | 2 | 3 => e % 2 ^ 15 == 0
  | 4 => e % 2 ^ 31 == 0
  | _ => e % 2 ^ 63 == 0

/-- L of an LN6 code, in steps of 0.25 (R235). -/
def ln6Log (code : Nat) : Int := (BitVec.ofNat 5 code).toInt

/-- The product of two LN6 codes (R237, R242, R243). -/
def ln6Prod (a b : Nat) : FVal :=
  if b = 0x10 then .fin false 0 0
  else if b = 0x30 ∨ a = 0x30 then .nan false
  else if a = 0x10 then .fin false 0 0
  else
    let lp := ln6Log a + ln6Log b
    .fin (a / 32 != b / 32) (ln6T (lp % 4).toNat) (lp / 4 - 23)

/-- The number that an element of another format holds. -/
def elemVal (af e : Nat) : FVal :=
  match af with
  | 1 => let i := (BitVec.ofNat 8 e).toInt; .fin (i < 0) i.natAbs 0
  | 2 => bf16.decode e
  | 3 => f16.decode e
  | 4 => f32.decode e
  | _ => f64.decode e

/-- A product (R242, R243): a zero B element gives an exact zero whatever A is; ±0 times an infinity is NaN. -/
def elemProd (af a b : Nat) : FVal :=
  if af = 0 then ln6Prod a b
  else if isZeroElem af b then .fin false 0 0
  else ((elemVal af a).mul (elemVal af b)).getD (.nan false)

/-- The exact sum of a block's products (R242, R243). -/
def blockSum (ps : List FVal) : FVal :=
  if ps.any FVal.isNan then .nan false
  else
    let pos := ps.any fun v => v == .inf false
    let neg := ps.any fun v => v == .inf true
    if pos && neg then .nan false
    else if pos then .inf false
    else if neg then .inf true
    else
      let k := ps.foldl (fun k v => match v with | .fin _ _ e => min k e | _ => k) (0 : Int)
      let t := ps.foldl (fun t v => match v with | .fin n m e => t + signedAt n m e k | _ => t) (0 : Int)
      .fin (t < 0) t.natAbs k

/-- A block sum under its two scales; the NaN scale makes it NaN (R238, R243). -/
def scaleSum (s : FVal) (sa sb : Nat) : FVal :=
  if sa = 255 ∨ sb = 255 then .nan false
  else match s with
    | .fin n m e => .fin n m (e + sa - 127 + sb - 127)
    | v => v

/-- The accumulator format. -/
def accFmt (accf : Nat) : Fmt := if accf = 1 then f64 else f32

/-- An accumulator element with a block sum added (R242): INT32 wraps; an exact zero changes nothing; otherwise one rounding. -/
def accAdd (accf : Nat) (rnd : RM) (acc : Nat) (s : FVal) : Nat :=
  if accf = 2 then
    match s with
    | .fin n m e => (((acc : Int) + signedAt n m e 0) % 2 ^ 32).toNat
    | _ => acc
  else match s with
    | .fin n m e => if m = 0 then acc else ((accFmt accf).sum rnd [(accFmt accf).decode acc, .fin n m e]).1
    | v => ((accFmt accf).sum rnd [(accFmt accf).decode acc, v]).1

/-- B's element (k, n) of an object's bytes, zero where SPARSE does not read its block (R246, R247). -/
def bElem (f : Word) (obj : List Byte) (k n : Nat) : Nat :=
  let af := fwAF f
  let zmap := BitVec.ofNat 16 (fieldBytes obj 4 2)
  if fwSPARSE f && !bit zmap (4 * (k / 8) + n / 8) then zeroElem af
  else elemAt af ((obj.drop (8 + k * rowBytes af)).take (rowBytes af)) n

/-- B's scale of a block (R238). -/
def bScale (f : Word) (obj : List Byte) (k n : Nat) : Nat := fieldBytes obj (if fwGEOM f then 2 * (k / 16) + n / 16 else 0) 1

/-- The sum of the block that begins at depth k, for a row of A elements and column n of B, under its scales. -/
def blockOf (f : Word) (row : List Byte) (sa : Nat) (obj : List Byte) (k n : Nat) : FVal :=
  let af := fwAF f
  let s := blockSum ((List.range (blockDepth f)).map fun j => elemProd af (elemAt af row (k + j)) (bElem f obj (k + j) n))
  if scaledFormat f then scaleSum s sa (bScale f obj k n) else s

/-- An accumulator element after the blocks of a row of depth `depth` and a column, in ascending K (R242): `sa` gives the A scale at a
depth. -/
def accElem (f : Word) (depth : Nat) (acc : Nat) (row : List Byte) (sa : Nat → Nat) (obj : List Byte) (n : Nat) : Nat :=
  (List.range (depth / blockDepth f)).foldl (fun x h =>
    let k := h * blockDepth f
    accAdd (fwACCF f) (fwRND f) x (blockOf f row (sa k) obj k n)) acc

/-- The A scale of a lane's format word at a depth (R238). -/
def laneScale (f fw : Word) (k : Nat) : Nat := if fwGEOM f && decide (16 ≤ k) then fwSAH fw else fwSAL fw

/-- The zero-block map of the rows of an object (R246, R265). -/
def zmapOf (af : Nat) (obj : List Byte) : Nat :=
  ((List.range 16).filter fun b => (List.range 64).any fun i =>
    let k := 8 * (b / 4) + i / 8
    decide (k < opDepth af) && !isZeroElem af (elemAt af ((obj.drop (8 + k * rowBytes af)).take (rowBytes af)) (8 * (b % 4) + i % 8))
  ).foldl (fun m b => m + 2 ^ b) 0

/-- 32 elements packed in a row (R236, R241). -/
def packRow (af : Nat) (es : List Nat) : List Byte :=
  match af with
  | 0 => leBytes 24 (es.foldr (fun e n => e + 64 * n) 0)
  | 1 => es.flatMap (leBytes 1)
  | _ => es.flatMap (leBytes 2)

/-- The transpose of a B tile object (R264). -/
def transposeObj (af : Nat) (geom : Bool) (obj : List Byte) : List Byte :=
  let row (k : Nat) : List Byte := (obj.drop (8 + k * rowBytes af)).take (rowBytes af)
  let zmap := BitVec.ofNat 16 (fieldBytes obj 4 2)
  let z := ((List.range 16).filter fun b => bit zmap (4 * (b % 4) + b / 4)).foldl (fun m b => m + 2 ^ b) 0
  let sc := obj.take 4
  let sc := if geom then [sc.getD 0 0, sc.getD 2 0, sc.getD 1 0, sc.getD 3 0] else sc
  sc ++ leBytes 2 z ++ [0, 0]
    ++ (List.range 32).flatMap fun k => packRow af ((List.range 32).map fun n => elemAt af (row n) k)

end Sys2Proof.Machine
end

