-- ==== Sys2Proof/Machine/Matrix.lean ====
section
/-!
DEFINITION. The matrix-class words at their hand-off (R24, R258 to R274): their precise checks, and what the engine reads of the gang.
-/
namespace Sys2Proof.Machine

/-- The place of n bytes of tile registers from tk on (R109). -/
def Gang.tilePlace (g : Gang) (k n : Nat) : Option (Bool × Nat) := g.place g.tbNow (32 * k) n
/-- The place of acck (R109). -/
def Gang.accPlace (g : Gang) (k : Nat) : Option (Bool × Nat) := g.place g.abNow (128 * k) 128

/-- POISON of a gang read of n bytes of the register space (R257, R258). -/
def Issue.placePoison (c : Issue) (pl : Option (Bool × Nat)) (n : Nat) : Option Trap :=
  match pl with
  | none => some illOpnd
  | some (umbra, off) => (List.range ((n + 3) / 4)).findSome? fun j =>
    match c.act.filter fun i => c.g.wordPoison (c.g.lane i) umbra false (off / 4 + j) with
    | [] => none
    | ls => some { code := cPOISON, arg := some (BitVec.ofNat 64 (off + 4 * j)), lanes := some (maskOf ls) }

/-- The address in o[BSRC] of a lane (R259). -/
def Issue.addrAt (c : Issue) (bsrc : BitVec 4) (i : Nat) : Nat := (c.g.r32 (0xE0 + bsrc.setWidth 8) i).toNat

/-- MISALIGN and PERMFAULT of an address of each lane (R262, R263). -/
def Issue.addrChecks (c : Issue) (bsrc : BitVec 4) (n align limit : Nat) : Option Trap :=
  let va (i : Nat) := BitVec.ofNat 64 (c.addrAt bsrc i)
  firstTrap [c.bad cMISALIGN va fun i => c.addrAt bsrc i % align != 0,
    c.bad cPERMFAULT va fun i => decide (limit < c.addrAt bsrc i + n)]

/-- The vote on bits 15:0 of the format word (R240). [DEDUCED, log entry 17] -/
def Issue.voteTrap (c : Issue) (f : Opnd) : Option Trap :=
  match c.act.filter fun i => field (c.g.r32 f i) 0 16 != field (c.g.r32 f c.low) 0 16 with
  | [] => none
  | ls => some { code := cFMTDIV, arg := some (maskOf ls), lanes := some (maskOf ls) }

/-- ILLOPND unless a condition holds. -/
def needs (b : Bool) : Option Trap := if b then none else some illOpnd

/-- A stream of a die (R250). -/
def State.stream (s : State) (die n : Nat) : Option Stream := tget (s.die die).streams n

/-- The subscription that a handle of a team is bound to, with its number (R251). -/
def State.subAt (s : State) (tk h : Nat) : Option (Nat × Sub) :=
  match s.team tk with
  | none => none
  | some t => t.subs.find? fun (x : Nat × Sub) => x.2.handle == some h

/-- ILLOPND for a handle that is unbound or stands at the end of its stream (R251). -/
def State.handleTrap (s : State) (g : Gang) (h : Nat) : Option Trap :=
  match s.subAt g.teamKey h with
  | none => some illOpnd
  | some (_, x) => match s.stream g.die x.stream with
    | none => none
    | some st => needs (x.consumed != st.count)

/-- A subscription of a team put or changed. -/
def State.setSub (s : State) (tk k : Nat) (x : Sub) : State :=
  match s.team tk with
  | none => s
  | some t => s.setTeam tk { t with subs := tput t.subs k x }

/-- Whether a word in flight still reads a subscription. -/
def State.subRead (s : State) (tk k : Nat) : Bool :=
  s.flight.any fun (x : Nat × Flight) => match x.2.matrix, s.gang x.2.gang with
    | some m, some g => g.teamKey == tk && (m.tile.map (·.1)) == some k
    | _, _ => false

/-- A team's unbound subscriptions that no word reads any more are gone (R268). -/
def State.dropSubs (s : State) (tk : Nat) : State :=
  match s.team tk with
  | none => s
  | some t => s.setTeam tk { t with subs := t.subs.filter fun (x : Nat × Sub) => x.2.handle.isSome || s.subRead tk x.1 }

/-- Whether Prism may write the next tile of a subscription (R251): within the window, and its slot's earlier tile read by every word
handed off before the STRADV that passed it. -/
def State.tileAdmitted (s : State) (tk k : Nat) (x : Sub) : Bool :=
  x.active && x.failed.isNone && decide (x.arrived < x.consumed + x.window)
    && !s.flight.any fun (y : Nat × Flight) => match y.2.matrix, s.gang y.2.gang with
      | some m, some g => g.teamKey == tk && !m.isStream && match m.tile with
        | some (k', t) => k' == k && decide (t + x.window ≤ x.arrived)
        | none => false
      | _, _ => false

/-- Prism's next writes for a team follow where they may (R251). -/
def State.kickPrism (s : State) (tk : Nat) : State :=
  match s.team tk with
  | none => s
  | some t => t.subs.foldl (fun (s : State) (x : Nat × Sub) =>
      let more := match s.stream (coreDie t.core) x.2.stream with
        | some st => decide (x.2.arrived < st.count)
        | none => true
      if more && s.tileAdmitted tk x.1 x.2 then s.kick (.prismTileWrite tk x.1) else s) s

/-- The matrix words of a team in flight go on. -/
def State.kickMatrix (s : State) (tk : Nat) : State :=
  s.flight.foldl (fun (t : State) (x : Nat × Flight) => match x.2.matrix, t.gang x.2.gang with
    | some _, some g => if g.teamKey = tk then t.kick (.quarterOpComplete x.1) else t
    | _, _ => t) s

/-- The quarters of some lanes (R24, R244). -/
def quartersOf (ls : List Nat) : List Nat := (ls.map (· / 8)).eraseDups

/-- Whether an MSAVE of a gang is in flight (R272). -/
def State.savesNest (s : State) (key : Nat) : Bool := s.flight.any fun (x : Nat × Flight) => x.2.gang == key && match x.2.matrix with
  | some m => m.op == 18
  | none => false

/-- Whether a word's hand-off stalls: at a counter of 63 (R24), and an MSAVE behind an earlier one of its gang, which may release the program
(R272). [DEDUCED, log entry 16] -/
def State.stalls (s : State) (c : Issue) (i : Instr) (ctr : Nat) : Bool :=
  decide (63 ≤ c.g.outstanding ctr) || match i with
    | .msave _ _ _ => s.savesNest c.key
    | _ => false

/-- The hand-off of a matrix word (R24, R258): its precise checks, the stall, then the job in flight; `after` is what it changes at once. -/
def matrixWord (i : Instr) (ctr : BitVec 4) (checks : Issue → State → Option Trap) (mk : Issue → State → MJob)
    (after : Issue → State → State) (s : State) : Outcome :=
  gangWord i s fun c =>
    match checks c s with
    | some t => .trap t
    | none =>
      if s.stalls c i ctr.toNat then .wait (s.hold c .wait)
      else
        let n := c.g.outstanding ctr.toNat
        let op := s.nextOp
        let m := { mk c s with
          word := wordArg (encode i).2
          since := s.cycle c.g.core }
        let s := { s.put c (c.g.setCtr ctr.toNat (n + 1)) with
          nextOp := op + 1
          flight := tput s.flight op ⟨c.key, c.g.ctx, ctr.toNat, .matrix m⟩ }
        .done ((after c s).kick (.quarterOpComplete op))

/-- A row word's lanes: the operands that `f` reads of each. [DEDUCED, log entry 17] -/
def Issue.rows (c : Issue) (f : Nat → MLane) : List MLane := c.act.map f

/-- The checks of a B operand (R246, R251). -/
def State.bTrap (s : State) (c : Issue) (bsrc : BitVec 4) : Option Trap :=
  if bsrc < 8#4 then
    let a := c.addrAt bsrc c.low
    if a % 8 = 0 then none else some { code := cMISALIGN, arg := some (BitVec.ofNat 64 a) }
  else s.handleTrap c.g (bsrc.toNat - 8)

/-- The checks that TMMA and TGMMA share (R240, R241, R260). [DEDUCED, log entry 17] -/
def State.mmaTrap (s : State) (c : Issue) (acc bsrc : BitVec 4) (f : Opnd) (mode : BitVec 2) : Option Trap :=
  let fw := c.g.r32 f c.low
  firstTrap [c.check [(.src false, f)], c.voteTrap f, needs (formatOk fw),
    needs ((!bit mode 0 || decide (4 ≤ fwAF fw)) && (!bit mode 1 || fwACCF fw == 1)),
    needs (c.g.accPlace acc.toNat).isSome, s.bTrap c bsrc]

/-- The job of TMMA and TGMMA. -/
def State.mmaJob (s : State) (c : Issue) (op : Nat) (acc bsrc : BitVec 4) (f : Opnd) (mode : BitVec 2) (row : Nat → List Byte) : MJob :=
  let pl := (c.g.accPlace acc.toNat).getD (false, 0)
  { op := op
    mode := mode.toNat
    lanes := c.rows fun i => { lane := i, fw := c.g.r32 f i, row := row i }
    quarters := quartersOf c.act
    acc := acc.toNat
    umbra := pl.1
    off := pl.2
    fmt := c.g.r32 f c.low
    addr := if bsrc < 8#4 then c.addrAt bsrc c.low else 0
    tile := if bsrc < 8#4 then none else (s.subAt c.g.teamKey (bsrc.toNat - 8)).map fun (x : Nat × Sub) => (x.1, x.2.consumed) }

/-- n bytes of a lane's tile registers, from byte `skip` of tk on. -/
def Gang.tileBytes (g : Gang) (k skip n i : Nat) : List Byte :=
  match g.tilePlace k (skip + n) with
  | none => []
  | some (umbra, off) => g.readBytes (g.lane i) umbra false (off + skip) n

/-- TMMA (R260). -/
def execTmma (acc tile bsrc : BitVec 4) (f : Opnd) (ctr : BitVec 4) (mode : BitVec 2) (s : State) : Outcome :=
  let skip := if bit mode 0 then 64 else 0
  matrixWord (.tmma acc tile bsrc f ctr mode) ctr
    (fun c s =>
      let af := fwAF (c.g.r32 f c.low)
      let pl := c.g.tilePlace tile.toNat (32 * aSpan af)
      firstTrap [s.mmaTrap c acc bsrc f mode, needs (decide (tile.toNat + aSpan af ≤ 16)),
        c.placePoison (pl.map fun (x : Bool × Nat) => (x.1, x.2 + skip)) (aRowBytes af)])
    (fun c s => s.mmaJob c 1 acc bsrc f mode fun i => c.g.tileBytes tile.toNat skip (aRowBytes (fwAF (c.g.r32 f c.low))) i)
    (fun _ s => s) s

/-- TGMMA (R249, R260). -/
def execTgmma (acc tile bsrc : BitVec 4) (f : Opnd) (ctr : BitVec 4) (mode : BitVec 2) (s : State) : Outcome :=
  matrixWord (.tgmma acc tile bsrc f ctr mode) ctr
    (fun c s => firstTrap [s.mmaTrap c acc bsrc f mode, c.placePoison (c.g.tilePlace tile.toNat 16) 16,
      needs (c.act.all fun i => fieldBytes (c.g.tileBytes tile.toNat 0 16 i) 12 4 < 2)])
    (fun c s => s.mmaJob c 2 acc bsrc f mode fun i => c.g.tileBytes tile.toNat 0 16 i)
    (fun _ s => s) s

/-- The job of a word on accumulator rows. -/
def Issue.accJob (c : Issue) (op : Nat) (acc : BitVec 4) (mode : Nat) (addr : Nat → Nat) : MJob :=
  let pl := (c.g.accPlace acc.toNat).getD (false, 0)
  { op := op
    mode := mode
    lanes := c.rows fun i => { lane := i, addr := addr i }
    quarters := quartersOf c.act
    acc := acc.toNat
    umbra := pl.1
    off := pl.2
    addr := addr c.low }

/-- TZERO (R262). -/
def execTzero (acc ctr : BitVec 4) (s : State) : Outcome :=
  matrixWord (.tzero acc ctr) ctr (fun c _ => needs (c.g.accPlace acc.toNat).isSome) (fun c _ => c.accJob 3 acc 0 fun _ => 0)
    (fun _ s => s) s

/-- Bytes and tile registers of TLD and TST by MODE (R262). -/
def tileMove (mode : BitVec 2) : Nat × Nat := if mode = 0 then (32, 1) else if mode = 1 then (64, 2) else if mode = 2 then (128, 4) else (24, 1)

/-- The checks of TLD and TST (R262). -/
def State.tileTrap (s : State) (c : Issue) (tile bsrc : BitVec 4) (mode : BitVec 2) : Option Trap :=
  firstTrap [needs (decide (tile.toNat + (tileMove mode).2 ≤ 16)), needs (c.g.tilePlace tile.toNat (32 * (tileMove mode).2)).isSome,
    c.addrChecks bsrc (tileMove mode).1 8 (s.teamMem c.g).2]

/-- The job of TLD and TST. -/
def Issue.tileJob (c : Issue) (op : Nat) (tile bsrc : BitVec 4) (mode : BitVec 2) (row : Nat → List Byte) : MJob :=
  let pl := (c.g.tilePlace tile.toNat (32 * (tileMove mode).2)).getD (false, 0)
  { op := op
    mode := mode.toNat
    lanes := c.rows fun i => { lane := i, addr := c.addrAt bsrc i, row := row i }
    quarters := quartersOf c.act
    umbra := pl.1
    off := pl.2 }

/-- TLD (R262). -/
def execTld (tile bsrc ctr : BitVec 4) (mode : BitVec 2) (s : State) : Outcome :=
  matrixWord (.tld tile bsrc ctr mode) ctr (fun c s => s.tileTrap c tile bsrc mode) (fun c _ => c.tileJob 4 tile bsrc mode fun _ => [])
    (fun _ s => s) s

/-- TST (R262): tk is read at hand-off. -/
def execTst (tile bsrc ctr : BitVec 4) (mode : BitVec 2) (s : State) : Outcome :=
  matrixWord (.tst tile bsrc ctr mode) ctr
    (fun c s => firstTrap [s.tileTrap c tile bsrc mode, c.placePoison (c.g.tilePlace tile.toNat (tileMove mode).1) (tileMove mode).1])
    (fun c _ => c.tileJob 5 tile bsrc mode fun i => c.g.tileBytes tile.toNat 0 (tileMove mode).1 i)
    (fun _ s => s) s

/-- Bytes of memory of ACCLD and ACCST by MODE (R262). -/
def accMove (mode : Nat) : Nat := if mode = 0 then 128 else 64

/-- ACCST (R262). -/
def execAccst (acc bsrc ctr : BitVec 4) (mode : BitVec 2) (s : State) : Outcome :=
  matrixWord (.accst acc bsrc ctr mode) ctr
    (fun c s => firstTrap [needs (c.g.accPlace acc.toNat).isSome, c.addrChecks bsrc (accMove mode.toNat) 8 (s.teamMem c.g).2])
    (fun c _ => c.accJob 6 acc mode.toNat (c.addrAt bsrc)) (fun _ s => s) s

/-- ACCLD (R262). -/
def execAccld (acc bsrc ctr : BitVec 4) (mode : BitVec 2) (s : State) : Outcome :=
  matrixWord (.accld acc bsrc ctr mode) ctr
    (fun c s => firstTrap [needs (c.g.accPlace acc.toNat).isSome, c.addrChecks bsrc (accMove mode.toNat) 8 (s.teamMem c.g).2])
    (fun c _ => c.accJob 7 acc mode.toNat (c.addrAt bsrc)) (fun _ s => s) s

/-- TAMAX (R263). -/
def execTamax (acc bsrc ctr : BitVec 4) (mode : BitVec 2) (s : State) : Outcome :=
  let n := if mode = 0 then 4 else 8
  matrixWord (.tamax acc bsrc ctr mode) ctr
    (fun c s => firstTrap [needs (decide (mode < 2#2)), needs (c.g.accPlace acc.toNat).isSome,
      c.whole (c.one.addrChecks bsrc n n (s.teamMem c.g).2)])
    (fun c _ => c.accJob 8 acc mode.toNat (c.addrAt bsrc)) (fun _ s => s) s

/-- The job of a whole-word word: the lowest taking-part lane's quarter alone carries it (R258). -/
def Issue.wholeJob (c : Issue) (op : Nat) : MJob := { op := op, lanes := c.rows fun i => { lane := i }, quarters := [c.low / 8] }

/-- TTRANS (R264). [DEDUCED, log entry 17] -/
def execTtrans (bsrc : BitVec 4) (f : Opnd) (ctr : BitVec 4) (s : State) : Outcome :=
  matrixWord (.ttrans bsrc f ctr) ctr
    (fun c _ =>
      let fw := c.g.r32 f c.low
      let a := c.addrAt bsrc c.low
      let b := c.addrAt (bsrc + 1) c.low
      let n := 8 + 32 * rowBytes (fwAF fw)
      let mis (x : Nat) : Option Trap := if x % 8 = 0 then none else some { code := cMISALIGN, arg := some (BitVec.ofNat 64 x) }
      firstTrap [c.check [(.src false, f)], c.voteTrap f, needs (decide (fwAF fw ≤ 3)), mis a, mis b,
        needs (a == b || decide (a + n ≤ b) || decide (b + n ≤ a))])
    (fun c _ => { c.wholeJob 9 with fmt := c.g.r32 f c.low, addr := c.addrAt bsrc c.low, addr2 := c.addrAt (bsrc + 1) c.low })
    (fun _ s => s) s

/-- TBMAP (R265). [DEDUCED, log entry 17] -/
def execTbmap (bsrc : BitVec 4) (f : Opnd) (ctr : BitVec 4) (s : State) : Outcome :=
  matrixWord (.tbmap bsrc f ctr) ctr
    (fun c s => firstTrap [c.check [(.src false, f)], c.voteTrap f, needs (decide (fwAF (c.g.r32 f c.low) ≤ 5)), s.bTrap c bsrc])
    (fun c _ => { c.wholeJob 10 with fmt := c.g.r32 f c.low, addr := c.addrAt bsrc c.low })
    (fun _ s => s) s

/-- The registers of F in the lowest taking-part lane. -/
def Issue.quad (c : Issue) (f : Opnd) (n : Nat) : List Word := (List.range n).map fun j => c.g.r32 (f + BitVec.ofNat 8 j) c.low

/-- STRDEF (R266). -/
def execStrdef (f : Opnd) (ctr : BitVec 4) (s : State) : Outcome :=
  matrixWord (.strdef f ctr) ctr
    (fun c _ =>
      let q := c.quad f 4
      let hi := q.getD 3 0
      let n := (q.getD 2 0).toNat
      firstTrap [needs (f.toNat % 4 == 0 && c.g.quadOk f),
        (c.g.poisonAt [c.low] f 4).map fun (p : Nat × List Nat) =>
          { code := cPOISON, arg := some (BitVec.ofNat 64 p.1), lanes := some (maskOf p.2) },
        needs (bits hi 22 10 == 0 && bits hi 13 3 == 0 && decide (8 ≤ bits hi 0 13) && decide (bits hi 0 13 ≤ 4096)
          && bits hi 0 3 == 0 && decide (1 ≤ n) && decide (n ≤ 2 ^ 24) && bits (q.getD 0 0) 0 3 == 0)])
    (fun c _ => { c.wholeJob 11 with quad := c.quad f 4 }) (fun _ s => s) s

/-- STRSUB (R267): the handle is bound from hand-off on. -/
def execStrsub (bsrc : BitVec 4) (f : Opnd) (ctr : BitVec 4) (s : State) : Outcome :=
  let h := bsrc.toNat - 8
  matrixWord (.strsub bsrc f ctr) ctr
    (fun c s =>
      let q := c.quad f 2
      let lo := q.getD 0 0
      let buf := (q.getD 1 0).toNat
      firstTrap [c.one.check [(.named true, f)],
        needs (bits lo 12 20 == 0 && bits lo 6 2 == 0 && decide (1 ≤ bits lo 8 4) && decide (bits lo 8 4 ≤ 8)
          && (s.subAt c.g.teamKey h).isNone),
        if buf % 8 = 0 then none
        else some { code := cMISALIGN, arg := some (BitVec.ofNat 64 buf) }])
    (fun c s => { c.wholeJob 12 with quad := c.quad f 2, tile := some (s.nextOp, 0) })
    (fun c s =>
      let q := c.quad f 2
      s.setSub c.g.teamKey (s.nextOp - 1) {
        handle := some h
        stream := bits (q.getD 0 0) 0 6
        window := bits (q.getD 0 0) 8 4
        buf := (q.getD 1 0).toNat }) s

/-- The job of STRADV and STRUNSUB, with the subscription that the handle names (R267). -/
def State.handleJob (s : State) (c : Issue) (op : Nat) (bsrc : BitVec 4) : MJob :=
  { c.wholeJob op with tile := (s.subAt c.g.teamKey (bsrc.toNat - 8)).map fun (x : Nat × Sub) => (x.1, x.2.consumed) }

/-- STRADV (R251, R268): CONSUMED rises at once. -/
def execStradv (bsrc ctr : BitVec 4) (s : State) : Outcome :=
  matrixWord (.stradv bsrc ctr) ctr (fun c s => s.handleTrap c.g (bsrc.toNat - 8)) (fun c s => s.handleJob c 13 bsrc)
    (fun c s => match s.subAt c.g.teamKey (bsrc.toNat - 8) with
      | some (k, x) => (s.setSub c.g.teamKey k { x with consumed := x.consumed + 1 }).kickPrism c.g.teamKey
      | none => s) s

/-- STRUNSUB (R251, R268, R274): DEDUCED, a handle at the end of its stream raises ILLOPND here too. [DEDUCED, log entry 17] -/
def execStrunsub (bsrc ctr : BitVec 4) (s : State) : Outcome :=
  matrixWord (.strunsub bsrc ctr) ctr (fun c s => s.handleTrap c.g (bsrc.toNat - 8)) (fun c s => s.handleJob c 14 bsrc)
    (fun c s => match s.subAt c.g.teamKey (bsrc.toNat - 8) with
      | some (k, x) => (s.setSub c.g.teamKey k { x with handle := none }).dropSubs c.g.teamKey
      | none => s) s

/-- MLOOP (R258, R269): only a loop-nest program holds it; a gang that hands it off raises ILLOPND. -/
def execMloop (s : State) : Outcome := gangWord .mloop s fun _ => .trap illOpnd

/-- MEND (R258, R269): only a loop-nest program holds it; a gang that hands it off raises ILLOPND. -/
def execMend (s : State) : Outcome := gangWord .mend s fun _ => .trap illOpnd

/-- MISALIGN of an image's address (R272, R273). -/
def Issue.imageTrap (c : Issue) (f : Opnd) : Option Trap :=
  let va := c.g.r64 f c.low
  if field va 0 6 = 0 then none else some { code := cMISALIGN, arg := some va }

/-- MSAVE (R271, R272). -/
def execMsave (f : Opnd) (ctr : BitVec 4) (release : Bool) (s : State) : Outcome :=
  matrixWord (.msave f ctr release) ctr
    (fun c s => firstTrap [c.one.check [(.named true, f)],
      needs (match s.nestOf c.g with | some n => n.state == 3 || n.state == 4 | none => false), c.imageTrap f])
    (fun c _ => { c.wholeJob 18 with mode := release.toNat, quad := c.quad f 2 }) (fun _ s => s) s

/-- MRESUME (R273): it waits for the sequencer, and for an MSAVE of its gang; then the nest is re-entered from its image. [DEDUCED, log entry 16] -/
def execMresume (f : Opnd) (ctr : BitVec 4) (s : State) : Outcome :=
  gangWord (.mresume f ctr) s fun c =>
    match firstTrap [c.one.check [(.named true, f)],
      needs (match s.nestOf c.g with | some n => n.state != 1 | none => true), c.imageTrap f] with
    | some t => .trap t
    | none =>
      let k := ctr.toNat
      let core := s.core c.g.core
      let foreign := match core.nest with | some n => n.gang != c.g.id | none => false
      if 63 ≤ c.g.outstanding k || foreign || s.savesNest c.key then .wait (s.hold c .wait)
      else
        let nest : Nest := {
          gang := c.g.id
          ctr := k
          ppc := 0
          pblk := 0
          image := some (c.g.r64 f c.low)
          word := wordArg (encode (.mresume f ctr)).2
          order := s.nextOp
          since := s.cycle c.g.core
          stepOp := s.nextOp }
        let s := { s.setCore c.g.core { core with nest := some nest } with nextOp := s.nextOp + 1 }
        .done ((s.put c (c.g.setCtr k (c.g.outstanding k + 1))).kick (.tileStep c.g.core))

end Sys2Proof.Machine
end

