-- ==== Sys2Proof/Machine/MatrixRun.lean ====
section
/-!
DEFINITION. What the matrix engine and Prism do with the words handed off (R242 to R251, R256, R257, R262 to R268, R272).
-/
namespace Sys2Proof.Machine

/-- The first uncorrectable line among n bytes at a place. -/
def Mem.firstBad (m : Mem) (k n : Nat) : Option Nat :=
  ((List.range (n / 64 + 2)).map fun j => k / 64 * 64 + 64 * j).find? fun a => decide (a < k + n) && m.isBad a

/-- n bytes at an address of team memory or of a scratchpad window, read by an engine of a die: bytes, or a failure's code (its cause
above bit 7) and argument. `w` is the place and size of the space. -/
def State.engineRead (s : State) (die : Nat) (w : Nat × Nat) (a n : Nat) : State × Except (Nat × DWord) (List Byte) :=
  let k := (w.1 + a) % 2 ^ 44
  if w.2 < a + n then (s, .error (cPERMFAULT, BitVec.ofNat 64 a))
  else match s.mem.firstBad k n with
    | some line => (s.foundBad (16 + die) line, .error (cMEMUE + 256 * 5, BitVec.ofNat 64 a))
    | none => (s, .ok (s.mem.read k n))

/-- Bytes written there, or the failure: nothing where a word with a barrier tag is touched (R228); a scratchpad line takes the owner tag
(R91). -/
def State.engineWrite (s : State) (die ctx : Nat) (w : Nat × Nat) (a : Nat) (bs : List Byte) : State × Option (Nat × DWord) :=
  let k := (w.1 + a) % 2 ^ 44
  if w.2 < a + bs.length then (s, some (cPERMFAULT, BitVec.ofNat 64 a))
  else if s.mem.touchesTag k bs.length then (s, some (cBARCLOB, s.mem.tagAddr k bs.length (BitVec.ofNat 64 a)))
  else match s.mem.firstBad k bs.length with
    | some line => (s.foundBad (16 + die) line, some (cMEMUE + 256 * 5, BitVec.ofNat 64 a))
    | none =>
      let mem := s.mem.write k bs
      ({ s with mem := match apertureOf k with
        | .pad _ _ => (pieces k bs.length).foldl (fun (m : Mem) (p : Nat × Nat) => m.own p.1 (some ctx)) mem
        | _ => mem }, none)

/-- The failures of a word, one for each code, in the order of their lowest lanes (R80, R274). -/
def MJob.failures (m : MJob) (ctr : Nat) : List Failure :=
  ((m.bad.map (·.1)).eraseDups).map fun k =>
    let mine := m.bad.filter fun (x : Nat × DWord × Nat) => x.1 == k
    { ctr := ctr
      code := k % 256
      cause := k / 256
      arg := match mine with | x :: _ => x.2.1 | [] => 0
      mask := maskOf (mine.map fun (x : Nat × DWord × Nat) => x.2.2) }

/-- The whole word failed. -/
def MJob.fail (m : MJob) (e : Nat × DWord) : MJob :=
  { m with quarters := [], bad := m.bad ++ m.lanes.map fun (l : MLane) => (e.1, e.2, l.lane) }

/-- One lane of the word failed. -/
def MJob.failLane (m : MJob) (lane : Nat) (e : Nat × DWord) : MJob := { m with bad := m.bad ++ [(e.1, e.2, lane)] }

/-- POISON with the accumulator index (R257). -/
def MJob.poisonErr (m : MJob) : Nat × DWord := (cPOISON, BitVec.ofNat 64 m.acc)

/-- The lanes of the next quarter operation. -/
def MJob.quarterLanes (m : MJob) : List MLane := match m.quarters with
  | [] => []
  | q :: _ => m.lanes.filter fun (l : MLane) => l.lane / 8 == q

/-- Whether one of n bytes of a word's row in a lane is poisoned (R257). -/
def Gang.rowPoison (g : Gang) (m : MJob) (i off n : Nat) : Bool :=
  (List.range (n / 4)).any fun j => g.wordPoison (g.lane i) m.umbra true ((m.off + off) / 4 + j)

/-- The accumulator row of a lane after a quarter operation, and whether it held a poisoned word, which stays poisoned (R242, R257). -/
def Gang.mmaLane (g : Gang) (m : MJob) (obj : List Byte) (l : MLane) : Gang × Bool :=
  let accf := fwACCF m.fmt
  let es := accBytes accf
  let old := g.lane l.lane
  let step (x : Lane × Bool) (n : Nat) : Lane × Bool :=
    if g.rowPoison m l.lane (es * n) es then
      ((List.range (es / 4)).foldl (fun (y : Lane) j => g.poisonWord y ((m.off + es * n) / 4 + j)) x.1, true)
    else
      let acc := ofLeBytes (g.readBytes old m.umbra true (m.off + es * n) es)
      let col := n + if accf = 1 ∧ 2 ≤ m.mode then 16 else 0
      let new := accElem m.fmt (opDepth (fwAF m.fmt)) acc l.row (laneScale m.fmt l.fw) obj col
      (g.writeBytes x.1 m.umbra true (m.off + es * n) (leBytes es new), x.2)
  let r := (List.range (accCols accf)).foldl step (old, false)
  (g.mapLanes [l.lane] fun _ _ => r.1, r.2)

/-- The row address of a gather descriptor (R249). -/
def gatherAddr (m : MJob) (d : List Byte) : Nat := (fieldBytes d 0 4 + fieldBytes d 4 4 * fieldBytes d 8 4) % 2 ^ 32 + 64 * (m.mode % 2)

/-- TGMMA's rows gathered (R249), where they have not been: a failure fails the whole word. -/
def State.gather (s : State) (g : Gang) (m : MJob) : State × MJob :=
  if m.op ≠ 2 ∨ m.lanes.any (fun (l : MLane) => l.row.length != 16) then (s, m)
  else
    let r := m.lanes.foldl (fun (x : State × List MLane × Option (Nat × DWord)) (l : MLane) =>
      if x.2.2.isSome then x
      else
        let a := gatherAddr m l.row
        if a % 8 ≠ 0 then (x.1, x.2.1, some (cMISALIGN, BitVec.ofNat 64 a))
        else match x.1.engineRead g.die (if fieldBytes l.row 12 4 = 1 then s.padMem g else s.teamMem g) a (aRowBytes (fwAF m.fmt)) with
          | (s', .ok bs) => (s', x.2.1 ++ [{ l with row := bs }], none)
          | (s', .error e) => (s', x.2.1, some e)) (s, [], none)
    match r.2.2 with
    | some e => (r.1, m.fail e)
    | none => (r.1, { m with lanes := r.2.1 })

/-- The failure of a subscription as a word of its team delivers it: an ILLOPND with the word itself (R267, R402). -/
def MJob.subErr (m : MJob) (e : Nat × DWord) : Nat × DWord := if e.1 = cILLOPND then (e.1, m.word) else e

/-- The address of the B operand, or the failure of its subscription (R246, R251). -/
def State.bAddr (s : State) (g : Gang) (m : MJob) : Except (Nat × DWord) Nat :=
  match m.tile with
  | none => .ok m.addr
  | some (k, t) => match (s.team g.teamKey).bind fun x => tget x.subs k with
    | none => .error (cILLOPND, m.word)
    | some x => match x.failed with
      | some e => .error (m.subErr e)
      | none => match s.stream g.die x.stream with
        | none => .error (cILLOPND, m.word)
        | some st => .ok (x.buf + t % x.window * st.size)

/-- A quarter operation of TMMA or TGMMA (R242, R260): of a stream tile smaller than the format's B object the bytes that follow it are read on, the next
slot's first. [DESIGN CHOICE, log entry 17] -/
def State.mmaQuarter (s : State) (g : Gang) (m : MJob) : State × Gang × MJob :=
  match s.bAddr g m with
  | .error e => (s, g, m.fail e)
  | .ok a => match s.engineRead g.die (s.teamMem g) a (objBytes (fwAF m.fmt)) with
    | (s, .error e) => (s, g, m.fail e)
    | (s, .ok obj) =>
      let x := s.gather g m
      let r := x.2.quarterLanes.foldl (fun (y : Gang × MJob) (l : MLane) =>
        let z := y.1.mmaLane y.2 obj l
        (z.1, if z.2 then y.2.failLane l.lane y.2.poisonErr else y.2)) (g, x.2)
      (x.1, r.1, { r.2 with quarters := r.2.quarters.drop 1 })

/-- Two-byte floats widened to FP32 (R262). [DEDUCED, log entry 17] -/
def widenRow (mode : Nat) (bs : List Byte) : List Byte :=
  (List.range 32).flatMap fun j => leBytes 4 (f32.convert 0 ((if mode = 1 then bf16 else f16).decode (fieldBytes bs (2 * j) 2))).1

/-- FP32 values rounded to two-byte floats (R262). -/
def narrowRow (mode : Nat) (bs : List Byte) : List Byte :=
  (List.range 32).flatMap fun j => leBytes 2 ((if mode = 1 then bf16 else f16).convert 0 (f32.decode (fieldBytes bs (4 * j) 4))).1

/-- The rows that TST or ACCST has gathered, written in ascending lanes: they lie in lines that all of them become visible in together (R54). A row is
refused or fails by itself (R262). -/
def State.writeRows (s : State) (g : Gang) (m : MJob) : State × MJob :=
  m.rows.foldl (fun (x : State × MJob) r => match x.1.engineWrite g.die g.ctx (s.teamMem g) r.2.1 r.2.2 with
    | (s', none) => (s', x.2)
    | (s', some e) => (s', x.2.failLane r.1 e)) (s, { m with rows := [] })

/-- One lane of a row move (R262): what TST and ACCST store is kept until the word's last quarter operation. -/
def State.moveLane (s : State) (g : Gang) (m : MJob) (l : MLane) : State × Gang × MJob :=
  let mem := s.teamMem g
  let write (s : State) (bs : List Byte) : State × Gang × MJob := (s, g, { m with rows := m.rows ++ [(l.lane, l.addr, bs)] })
  let land (n : Nat) (f : List Byte → List Byte) : State × Gang × MJob := match s.engineRead g.die mem l.addr n with
    | (s', .ok bs) => (s', g.mapLanes [l.lane] fun _ x => g.writeBytes x m.umbra true m.off (f bs), m)
    | (s', .error e) => (s', g, m.failLane l.lane e)
  match m.op with
  | 3 => (s, g.mapLanes [l.lane] fun _ x => g.writeBytes x m.umbra true m.off (List.replicate 128 0), m)
  | 4 => land (if m.mode = 3 then 24 else 32 * 2 ^ m.mode) id
  | 5 => write s l.row
  | 7 => land (accMove m.mode) (if m.mode = 1 ∨ m.mode = 2 then widenRow m.mode else id)
  | _ =>
    let n := if m.mode = 3 then 64 else 128
    if g.rowPoison m l.lane 0 n then (s, g, m.failLane l.lane m.poisonErr)
    else
      let bs := g.readBytes (g.lane l.lane) m.umbra true m.off n
      write s (if m.mode = 1 ∨ m.mode = 2 then narrowRow m.mode bs else bs)

/-- A quarter operation of a row move. -/
def State.moveQuarter (s : State) (g : Gang) (m : MJob) : State × Gang × MJob :=
  let r := m.quarterLanes.foldl (fun (x : State × Gang × MJob) (l : MLane) => x.1.moveLane x.2.1 x.2.2 l) (s, g, m)
  let m : MJob := { r.2.2 with quarters := r.2.2.quarters.drop 1 }
  if m.quarters ≠ [] then (r.1, r.2.1, m)
  else
    let w := r.1.writeRows r.2.1 m
    (w.1, r.2.1, w.2)

/-- The absolute maximum over the rows of the taking-part lanes (R263). -/
def Gang.absMax (g : Gang) (m : MJob) : Nat :=
  let f := if m.mode = 1 then f64 else f32
  let es := accBytes m.mode
  let vals := m.lanes.flatMap fun (l : MLane) =>
    (List.range (128 / es)).map fun n => ofLeBytes (g.readBytes (g.lane l.lane) m.umbra true (m.off + es * n) es) % 2 ^ (8 * es - 1)
  match vals.filter fun v => !(f.decode v).isNan with
  | [] => f.nanBits
  | v :: vs => vs.foldl max v

/-- The end of a whole-word word's write. -/
def writeOr (g : Gang) (m : MJob) (r : State × Option (Nat × DWord)) : State × Gang × MJob :=
  match r with
  | (s', none) => (s', g, { m with quarters := [] })
  | (s', some e) => (s', g, m.fail e)

/-- TAMAX's effect, once its last quarter is reached (R263). -/
def State.amaxQuarter (s : State) (g : Gang) (m : MJob) : State × Gang × MJob :=
  if 1 < m.quarters.length then (s, g, { m with quarters := m.quarters.drop 1 })
  else
    let bad := m.lanes.filter fun (l : MLane) => g.rowPoison m l.lane 0 128
    if bad != [] then
      (s, g, { m with quarters := [], bad := m.bad ++ bad.map fun (l : MLane) => (m.poisonErr.1, m.poisonErr.2, l.lane) })
    else writeOr g m (s.engineWrite g.die g.ctx (s.teamMem g) m.addr (leBytes (accBytes m.mode) (g.absMax m)))

/-- The lines of the object that TTRANS writes, the one with the header last (R274): offset and length. -/
def MJob.objLines (m : MJob) : List (Nat × Nat) :=
  let ls := (pieces m.addr2 m.obj.length).map fun p => (p.1 - m.addr2, p.2)
  ls.drop 1 ++ ls.take 1

/-- TTRANS (R264, R274): the object is read, and what it becomes is written line by line; a write that would fail does not begin. -/
def State.transWord (s : State) (g : Gang) (m : MJob) : State × Gang × MJob :=
  let af := fwAF m.fmt
  let mem := s.teamMem g
  if m.obj = [] then match s.engineRead g.die mem m.addr (8 + 32 * rowBytes af) with
    | (s, .error e) => (s, g, m.fail e)
    | (s, .ok obj) =>
      let new := transposeObj af (fwGEOM m.fmt) obj
      match s.engineWrite g.die g.ctx mem m.addr2 new with
      | (s', some e) => (s', g, m.fail e)
      | (_, none) => (s, g, { m with obj := new })
  else match m.objLines[m.written]? with
    | none => (s, g, { m with quarters := [] })
    | some (off, n) => match s.engineWrite g.die g.ctx mem (m.addr2 + off) ((m.obj.drop off).take n) with
      | (s', some e) => (s', g, m.fail e)
      | (s', none) =>
        let m := { m with written := m.written + 1 }
        (s', g, if m.written = m.objLines.length then { m with quarters := [] } else m)

/-- TBMAP (R265). -/
def State.bmapWord (s : State) (g : Gang) (m : MJob) : State × Gang × MJob :=
  let af := fwAF m.fmt
  let mem := s.teamMem g
  match s.engineRead g.die mem m.addr (objBytes af) with
  | (s, .error e) => (s, g, m.fail e)
  | (s, .ok obj) => writeOr g m (s.engineWrite g.die g.ctx mem (m.addr + 4) (leBytes 2 (zmapOf af obj)))

/-- Whether a stream of a die has a subscriber (R250). [DEDUCED, log entry 17] -/
def State.subscribed (s : State) (die n : Nat) : Bool :=
  s.teams.any fun (t : Nat × Team) => coreDie t.2.core == die && t.2.subs.any fun (x : Nat × Sub) => x.2.active && x.2.stream == n

/-- Prism's decision on a STRDEF (R266): PERMFAULT with the stream's BASE, ILLOPND with the word (R78, R402). [DEDUCED, log entry 17] -/
def State.defineStream (s : State) (g : Gang) (m : MJob) : State × Gang × MJob :=
  let q := fun k => m.quad.getD k 0
  let n := bits (q 3) 16 6
  let d := s.die g.die
  match s.stream g.die n with
  | some st =>
    if st.ctx ≠ g.ctx then (s, g, m.fail (cPERMFAULT, q 1 ++ q 0))
    else if s.subscribed g.die n then (s, g, m.fail (cILLOPND, m.word))
    else define d n q
  | none => define d n q
where
  /-- the new definition taken whole -/
  define (d : Die) (n : Nat) (q : Nat → Word) : State × Gang × MJob :=
    (s.setDie g.die { d with
      streams := tput d.streams n { ctx := g.ctx, base := q 1 ++ q 0, count := (q 2).toNat, size := bits (q 3) 0 13 } }, g,
      { m with quarters := [] })

/-- Prism's decision on a STRSUB (R267): a failed one unbinds its handle, and fails every word that names it, PERMFAULT with BUF, ILLOPND with the word
(R78, R402). [DEDUCED, log entry 17] -/
def State.takeSub (s : State) (g : Gang) (m : MJob) : State × Gang × MJob :=
  let k := (m.tile.map (·.1)).getD 0
  match (s.team g.teamKey).bind fun t => tget t.subs k with
  | none => (s, g, { m with quarters := [] })
  | some x =>
    let code := match s.stream g.die x.stream with
      | none => some cILLOPND
      | some st =>
        if st.ctx ≠ g.ctx then some cPERMFAULT else if (s.teamMem g).2 < x.buf + x.window * st.size then some cPERMFAULT else none
    match code with
    | some c =>
      let e := (c, BitVec.ofNat 64 x.buf)
      (s.setSub g.teamKey k { x with handle := none, failed := some e }, g, m.fail (m.subErr e))
    | none => (s.setSub g.teamKey k { x with active := true }, g, { m with quarters := [] })

/-- The end of a STRADV or a STRUNSUB: it fails with the code of the STRSUB that it names where that has failed (R267). -/
def State.handleWord (s : State) (g : Gang) (m : MJob) : State × Gang × MJob :=
  let sub := m.tile.bind fun t => (s.team g.teamKey).bind fun u => tget u.subs t.1
  match sub.bind fun x => if x.active then none else x.failed with
  | some e => (s, g, m.fail (m.subErr e))
  | none => (s, g, { m with quarters := [] })

/-- The bytes of MACC and C0 in an image (R271): `es` the size of an element of MACC. A program that TILEFAIL has ended has no MACC (R256, R272). -/
def Nest.body (n : Nest) (exact : Bool) (es : Nat) : List Byte :=
  let a := n.macc.flatMap fun v => leBytes es v.toNat
  let b := if exact then n.c0.flatMap fun v => leBytes 8 v.toNat else []
  (a ++ List.replicate (4096 - a.length) 0) ++ (b ++ List.replicate (4096 - b.length) 0)

/-- EXACTK of a parameter block (R252, R255), and the size of an element of MACC (R271). -/
def Nest.exact (n : Nest) : Bool := bit (BitVec.ofNat 16 (fieldBytes n.params 30 2)) 4
def Nest.fw (n : Nest) : Word := BitVec.ofNat 32 (fieldBytes n.params 32 4 % 2 ^ 16)
def Nest.maccSize (n : Nest) : Nat := if n.exact || fwACCF n.fw == 1 then 8 else 4

/-- The image that MSAVE writes (R271). -/
def Nest.imageBytes (n : Nest) : List Byte :=
  leBytes 4 1 ++ leBytes 8 0 ++ leBytes 4 n.ctr ++ leBytes 4 n.mstat.toNat ++ leBytes 4 n.mrow ++ leBytes 4 n.mcol ++ leBytes 4 n.mdep
    ++ leBytes 4 n.pblk ++ leBytes 8 n.ppc.toNat ++ List.replicate 20 0 ++ n.body n.exact n.maccSize

/-- MSAVE's image written, and the program released (R272). [DESIGN CHOICE, log entry 18] -/
def State.saveNest (s : State) (g : Gang) (m : MJob) : State × Gang × MJob :=
  let va := m.quad.getD 1 0 ++ m.quad.getD 0 0
  match s.nestOf g with
  | none => (s, g, { m with quarters := [] })
  | some n => match s.vwrite g.die g.ctx va n.imageBytes with
    | .error e => (s.failedAt g.die g.ctx va 8256 e, g, m.fail (e.1 + 256 * e.2, s.failPlace g.die g.ctx va 8256 true))
    | .ok s' =>
      let s' := s'.countRange g.die g.ctx va 8256
      if m.mode = 0 then (s', g, { m with quarters := [] })
      else (s'.setCore g.core { s'.core g.core with nest := none }, { g with mrow := 0, mcol := 0, mdep := 0, mstat := 0 },
        { m with quarters := [] })

/-- The next step of a matrix word. -/
def State.runMatrix (s : State) (g : Gang) (m : MJob) : State × Gang × MJob :=
  match m.op with
  | 1 | 2 => s.mmaQuarter g m
  | 8 => s.amaxQuarter g m
  | 9 => s.transWord g m
  | 10 => s.bmapWord g m
  | 11 => s.defineStream g m
  | 12 => s.takeSub g m
  | 13 | 14 => s.handleWord g m
  | 18 => s.saveNest g m
  | _ => s.moveQuarter g m

/-- The bytes of the register space that a word reads or writes when it executes (R245, R258): an accumulator row, or the tile registers of TLD, which may
be the same bytes (R109). -/
def MJob.regBytes (m : MJob) : Nat := if [1, 2, 3, 6, 7, 8].contains m.op then 128 else if m.op = 4 then (if m.mode = 3 then 24 else 32 * 2 ^ m.mode) else 0
/-- Whether a word reads team memory, or writes it (R258). -/
def MJob.readsMem (m : MJob) : Bool := [1, 2, 4, 7, 9, 10].contains m.op
def MJob.writesMem (m : MJob) : Bool := [5, 6, 8, 9, 10].contains m.op

/-- Whether two words of a gang take effect in hand-off order (R245, R258). [DEDUCED, log entry 17] -/
def MJob.conflicts (a b : MJob) : Bool :=
  (a.umbra == b.umbra && decide (a.off < b.off + b.regBytes) && decide (b.off < a.off + a.regBytes))
    || (a.writesMem && (b.readsMem || b.writesMem)) || (a.readsMem && b.writesMem) || (a.isStream && b.isStream)

/-- Whether a word has to wait: for an earlier word of its gang, for an MRESUME handed off before it to read its parameter block, or for its stream
tile (R245, R251, R258). -/
def State.matrixBlocked (s : State) (op : Nat) (f : Flight) (g : Gang) (m : MJob) : Bool :=
  (s.flight.any fun (x : Nat × Flight) => decide (x.1 < op) && x.2.gang == f.gang && match x.2.matrix with
    | some a => a.conflicts m
    | none => false)
  || (m.writesMem && match s.nestOf g with
    | some n => n.fresh && n.image.isSome && decide (n.order < op)
    | none => false)
  || match m.tile, s.team g.teamKey with
    | some (k, t), some tm => !m.isStream && match tget tm.subs k with
      | some x => x.failed.isNone && decide (x.arrived ≤ t)
      | none => false
    | _, _ => false

/-- A matrix word gone from flight, with its failures (R258): what waited for it goes on. -/
def State.endMatrix (s : State) (op : Nat) (f : Flight) (g : Gang) (m : MJob) : State :=
  let tk := g.teamKey
  let old := workKey (s.oldestWork g.core)
  let s := ((((s.finish op f g (m.failures f.ctr)).touchOldest g.core old).dropSubs tk).kickMatrix tk).kickPrism tk
  match s.nestOf g with
  | some n => if n.fresh then s.kick (.tileStep g.core) else s
  | none => s

/-- A word after a step: with a quarter operation completed the next one begins to count towards the hang limit, with lines of TTRANS only it goes on (R256). -/
def MJob.stepped (m old : MJob) (now : DWord) : MJob := if m.quarters.length = old.quarters.length then m else { m with since := now }

/-- QUARTER_OP_COMPLETE (R242, R244, R258): the next quarter operation of a matrix word takes effect; with the last one the word's counter
falls. -/
def execQuarterOpComplete (op : Nat) (s : State) : Outcome :=
  match tget s.flight op with
  | none => .next s
  | some f => match f.matrix, s.gang f.gang with
    | some m, some g =>
      if s.matrixBlocked op f g m then .next s
      else
        let r := s.runMatrix g m
        if (tget r.1.flight op).isNone then .next r.1
        else if r.2.2.quarters = [] then .next (r.1.endMatrix op f r.2.1 r.2.2)
        else .next (({ r.1.setGang f.gang r.2.1 with
          flight := tput r.1.flight op { f with job := .matrix (r.2.2.stepped m (s.cycle g.core)) } }).kick (.quarterOpComplete op))
    | _, _ => .next s

/-- A tile of a subscription written into its slot, or the failure (R78, R251, R266). -/
def State.writeTile (s : State) (t : Team) (x : Sub) (st : Stream) (bytes : Except (Nat × DWord) (List Byte)) :
    State × Sub :=
  match bytes with
  | .error e => (s, { x with failed := some e })
  | .ok bs =>
    let a := x.buf + x.arrived % x.window * st.size
    let k := (s.ownAddr (teamBase t.core + t.base) + a) % 2 ^ 44
    let r := s.mem.writeSkip k bs
    if r.2 = bs.length then ({ s with mem := r.1 }, { x with arrived := x.arrived + 1 })
    else ({ s with mem := r.1 }, { x with failed := some (cBARCLOB, s.mem.tagAddr k bs.length (BitVec.ofNat 64 a)) })

/-- PRISM_TILE_WRITE (R251): one read of a tile serves every subscriber of the stream whose window admits it now. -/
def execPrismTileWrite (team handle : Nat) (s : State) : Outcome :=
  match s.team team with
  | none => .next s
  | some t => match tget t.subs handle with
    | none => .next s
    | some x =>
      let die := coreDie t.core
      match s.stream die x.stream with
      | none => .next s
      | some st =>
        if !s.tileAdmitted team handle x || decide (st.count ≤ x.arrived) then .next s
        else
          let va := st.base + BitVec.ofNat 64 (x.arrived * st.size)
          let s := (pieces va.toNat st.size).foldl (fun (s : State) (p : Nat × Nat) => s.fillTlb die st.ctx (BitVec.ofNat 64 p.1)) s
          let r := s.vread die st.ctx va st.size
          let s := match r with
            | .error e => s.failedAt die st.ctx va st.size e
            | .ok _ => s.countRange die st.ctx va st.size
          let bytes : Except (Nat × DWord) (List Byte) := match r with
            | .error e => .error (e.1 + 256 * e.2, s.failPlace die st.ctx va st.size false)
            | .ok bs => .ok bs
          let go (s : State) (tk k : Nat) (y : Sub) : State :=
            match s.team tk with
            | none => s
            | some u =>
              if coreDie u.core == die && y.stream == x.stream && y.arrived == x.arrived && s.tileAdmitted tk k y then
                let r := s.writeTile u y st bytes
                ((r.1.setSub tk k r.2).kickMatrix tk).kickPrism tk
              else s
          .next (s.teams.foldl (fun (s : State) (u : Nat × Team) =>
            u.2.subs.foldl (fun (s : State) (y : Nat × Sub) => go s u.1 y.1 y.2) s) s)

/-- The accumulator words that the rest of a word would have written poisoned (R256); words of the Umbra carry no poison bits. [DESIGN CHOICE, log
entry 17] -/
def Gang.poisonRows (g : Gang) (m : MJob) : Gang :=
  if !([1, 2, 3, 7].contains m.op) || m.umbra then g
  else
    let n := if m.op = 7 ∧ m.mode = 3 then 16 else 32
    g.mapLanes ((m.lanes.filter fun (l : MLane) => m.quarters.contains (l.lane / 8)).map (·.lane)) fun _ l =>
      (List.range n).foldl (fun (l : Lane) j => g.poisonWord l (m.off / 4 + j)) l

/-- A forked program failed with a code (R179, R253, R256): STATE 3, its counter falls, and the failure waits for the first wait on it. [DEDUCED, log entries 16 and 17] -/
def State.failNest (s : State) (core : Nat) (n : Nest) (code cause : Nat) (arg : DWord) : State :=
  let n' := { n with state := 3, code := code, cause := cause, arg := arg, freeze := false, fresh := false,
                     macc := if code = cTILEFAIL then [] else n.macc }
  match s.gang (gangKey core n.gang) with
  | none => s
  | some g => (s.setCore core { s.core core with nest := some n' }).setGang g.key { g.lower n.ctr with
      failures := g.failures ++ [{ ctr := n.ctr, code := code, cause := cause, arg := arg, mask := g.live }] }

end Sys2Proof.Machine
end

