-- ==== Sys2Proof/Machine/Nest.lean ====
section
/-!
DEFINITION. The loop-nest sequencer (R252 to R255, R269, R270, R273): the parameter block, the program's fetch, the image of a resumed
nest, and the tile step.
-/
namespace Sys2Proof.Machine

/-! The parameter block (R252). -/
def Nest.p (n : Nest) (off k : Nat) : Nat := fieldBytes n.params off k
def Nest.flag (n : Nest) (k : Nat) : Bool := bit (BitVec.ofNat 16 (n.p 30 2)) k
def Nest.mt (n : Nest) : Nat := n.p 24 2
def Nest.nt (n : Nest) : Nat := n.p 26 2
def Nest.kt (n : Nest) : Nat := n.p 28 2
/-- NC, and the size of a C element (R252). -/
def Nest.nc (n : Nest) : Nat := if fwACCF n.fw = 1 || n.exact then 16 else 32
def Nest.esize (n : Nest) : Nat := accBytes (fwACCF n.fw)
def Nest.nb (n : Nest) : Nat := if n.nc = 16 then (n.nt + 1) / 2 else n.nt
/-- The B tile column and the column half of the current output tile. -/
def Nest.bcol (n : Nest) : Nat := if n.nc = 16 then n.mcol / 2 else n.mcol
def Nest.half (n : Nest) : Nat := if n.nc = 16 then n.mcol % 2 else 0
def Nest.tileBytes (n : Nest) : Nat := 8 + 32 * rowBytes (fwAF n.fw)
def Nest.aAddr (n : Nest) (kt : Nat) : Nat := n.p 0 4 + (n.mrow * n.kt + kt) * n.p 12 4
def Nest.bAddr (n : Nest) (kt : Nat) : Nat := n.p 4 4 + (kt * n.nb + n.bcol) * n.p 16 4
/-- The address of row r of the current output tile. -/
def Nest.cAddr (n : Nest) (r : Nat) : Nat := n.p 8 4 + (32 * n.mrow + r) * n.p 20 4 + n.nc * n.mcol * n.esize

/-- The code and argument with which a parameter block fails its program (R252, R255): ILLOPND names the word that started it (R402). -/
def Nest.paramErr (n : Nest) : Option (Nat × DWord) :=
  let fw := n.fw
  if zeroBytes n.params 36 28 && bits (BitVec.ofNat 16 (n.p 30 2)) 5 11 == 0 && n.mt != 0 && n.nt != 0 && n.kt != 0 && formatOk fw
      && (!n.exact || (fwAF fw == 0 && !fwGEOM fw && decide (n.kt * 32 ≤ 2 ^ 24))) then
    if n.p 8 4 % n.esize ≠ 0 ∨ n.p 20 4 % n.esize ≠ 0 then some (cMISALIGN, BitVec.ofNat 64 (n.p 8 4)) else none
  else some (cILLOPND, n.word)

/-- What an engine step of the nest comes to: the machine, and the nest or a code (its cause above bit 7) and argument. -/
abbrev NestR := State × Except (Nat × DWord) Nest

/-- The program's one clause fetched (R269): its words from the k-th on, each with what it has to be and the code of any other. [DEDUCED, log entry 16] -/
def State.fetchWords (s : State) (g : Gang) (n : Nest) : Nat → List (Word × Nat) → NestR
  | _, [] => (s, .ok n)
  | k, (want, code) :: t =>
    let va := n.ppc + BitVec.ofNat 64 (4 * k)
    match s.fetch g.die g.ctx va with
    | .error e => (s.failedAt g.die g.ctx va 4 e, .error (e.1 + 256 * e.2, va))
    | .ok w => if w = want then State.fetchWords s g n (k + 1) t else (s, .error (code, w.setWidth 64))

/-- The program fetched (R269): its header, MLOOP and MEND. [DEDUCED, log entry 16] -/
def State.fetchNest (s : State) (g : Gang) (n : Nest) : NestR :=
  s.fetchWords g n 0 [(0x22000000#32, cILLCLAUSE), (0x3C000000#32, cILLOPND), (0x40000000#32, cILLOPND)]

/-- The parameter block read and checked (R179, R252). -/
def State.readParams (s : State) (g : Gang) (n : Nest) : NestR :=
  if n.pblk % 64 ≠ 0 then (s, .error (cMISALIGN, BitVec.ofNat 64 n.pblk))
  else match s.engineRead g.die (s.teamMem g) n.pblk 64 with
    | (s', .error e) => (s', .error e)
    | (s', .ok bs) =>
      let n := { n with params := bs }
      match n.paramErr with
      | some e => (s', .error e)
      | none => (s', .ok n)

/-- A list of n numbers of `es` bytes. -/
def dwordsOf (es n : Nat) (bs : List Byte) : List DWord := (List.range n).map fun i => BitVec.ofNat 64 (fieldBytes bs (es * i) es)

/-- Whether an image's progress registers are those of a tile step still to be made (R273), or those of a freeze at the last one, which has nothing left to
do (R253, R277). [DEDUCED, log entry 16] -/
def Nest.progressOk (n : Nest) (st mrow mcol mdep : Nat) : Bool :=
  (decide (mrow < n.mt) && decide (mcol < n.nt) && decide (mdep < n.kt)) || (st == 4 && mrow == n.mt && mcol == 0 && mdep == 0)

/-- The nest of an image whose parameter block has been read: R273's checks. A PPC that is no word address fails them too, and the TRAPARG of a BARCLOB
that goes on is 0, as the image does not hold it. [DESIGN CHOICE, log entry 16] -/
def Nest.restore (n : Nest) (img : List Byte) : Option Nest :=
  let f := fieldBytes img
  let st := f 16 4 % 8
  let code := f 17 1
  if f 0 4 = 1 ∧ zeroBytes img 4 8 ∧ f 12 4 < 16 ∧ zeroBytes img 44 20 ∧ (st = 3 ∨ st = 4) ∧ (code ≠ cTILEFAIL ∨ f 28 4 = 0)
      ∧ n.progressOk st (f 20 4) (f 24 4) (f 28 4) ∧ n.ppc.toNat % 4 = 0 then
    some { n with
      mrow := f 20 4
      mcol := f 24 4
      mdep := f 28 4
      macc := dwordsOf n.maccSize (32 * n.nc) (img.drop 64)
      c0 := if n.exact then dwordsOf 8 512 (img.drop 4160) else []
      code := if code = cBARCLOB then code else 0 }
  else none

/-- The start of a program (R179, R269), or the re-entry of a saved one (R273): the machine, what of the image the sequencer then holds, and the failure,
whose ILLOPND names the word that started the program (R402). [DEDUCED, log entry 16] -/
def State.bootNest (s : State) (g : Gang) (n : Nest) : State × Nest × Option (Nat × DWord) :=
  match n.image with
  | none => match s.fetchNest g n with
    | (s', .error e) => (s', n, some e)
    | (s', .ok n) => match s'.readParams g n with
      | (s', .error e) => (s', n, some e)
      | (s', .ok n) => (s', { n with fresh := false }, none)
  | some va => match s.vread g.die g.ctx va 8256 with
    | .error e => (s.failedAt g.die g.ctx va 8256 e, n, some (e.1 + 256 * e.2, s.failPlace g.die g.ctx va 8256 false))
    | .ok img =>
      let s := s.countRange g.die g.ctx va 8256
      let n := { n with ppc := BitVec.ofNat 64 (fieldBytes img 36 8), pblk := fieldBytes img 32 4 }
      match s.readParams g n with
      | (s', .error e) => (s', n, some (if e.1 % 256 = cMEMUE then e else (cILLOPND, n.word)))
      | (s', .ok n) => match n.restore img with
        | none => (s', n, some (cILLOPND, n.word))
        | some n => match s'.fetchNest g n with
          | (s', .error e) => (s', n, some e)
          | (s', .ok n) => (s', { n with fresh := false, image := none }, none)

/-- The place and size of the memory of A, B or C: flags 0, 1 and 2 (R252). -/
def State.nestSpace (s : State) (g : Gang) (n : Nest) (k : Nat) : Nat × Nat := if n.flag k then s.padMem g else s.teamMem g

/-- A tile read. -/
def State.readTile (s : State) (g : Gang) (n : Nest) (k a : Nat) : State × Except (Nat × DWord) (List Byte) :=
  if a % 8 ≠ 0 then (s, .error (cMISALIGN, BitVec.ofNat 64 a)) else s.engineRead g.die (s.nestSpace g n k) a n.tileBytes

/-- EXACTK's demand that a row of A tiles, and a column of B tiles, carry one scale (R255). -/
def State.scalesAgree (s : State) (g : Gang) (n : Nest) (a b : List Byte) : Bool :=
  let at0 (k addr : Nat) : Byte := s.mem.byte (((s.nestSpace g n k).1 + addr) % 2 ^ 44)
  !n.exact || (a.headD 0 == at0 0 (n.aAddr 0) && b.headD 0 == at0 1 (n.bAddr 0))

/-- The C tile's elements, row by row, as the output tile's first step finds them (R253, R255). -/
def State.readC (s : State) (g : Gang) (n : Nest) : Nat → State × Except (Nat × DWord) (List DWord)
  | 0 => (s, .ok [])
  | r + 1 => match s.readC g n r with
    | (s, .error e) => (s, .error e)
    | (s, .ok vs) => match s.engineRead g.die (s.nestSpace g n 2) (n.cAddr r) (n.nc * n.esize) with
      | (s, .error e) => (s, .error e)
      | (s, .ok bs) => (s, .ok (vs ++ dwordsOf n.esize n.nc bs))

/-- The mark in MACC of an EXACTK element whose products gave NaN: a value that no sum of 2^24 products reaches. DESIGN CHOICE. [DESIGN CHOICE, log entry 18] -/
def exactNaN : DWord := 0x8000000000000000

/-- An element of MACC after a tile step (R242, R253, R255). [DESIGN CHOICE, log entry 18] -/
def Nest.elem (n : Nest) (a b : List Byte) (i : Nat) : DWord :=
  let fw := n.fw
  let r := i / n.nc
  let col := i % n.nc + 16 * n.half
  let row := (a.drop (8 + r * rowBytes (fwAF fw))).take (rowBytes (fwAF fw))
  let old := n.macc.getD i 0
  if n.exact then
    match blockSum ((List.range 32).map fun k => ln6Prod (elemAt 0 row k) (bElem fw b k col)) with
    | .fin s m e => if old = exactNaN then old else old + BitVec.ofInt 64 (signedAt s m e (-31))
    | _ => exactNaN
  else
    BitVec.ofNat 64 (accElem fw 32 old.toNat row
      (fun k => fieldBytes a (if fwGEOM fw then 2 * (k / 16) + r / 16 else 0) 1) b col)

/-- The value that a finished element of MACC gives its C element (R253, R255). [DESIGN CHOICE, log entry 18] -/
def Nest.result (n : Nest) (sa sb i : Nat) : Nat :=
  let v := n.macc.getD i 0
  if n.exact then
    let x : FVal := if v = exactNaN then .nan false else .fin (v.toInt < 0) v.toInt.natAbs (-31)
    accAdd (fwACCF n.fw) (fwRND n.fw) (n.c0.getD i 0).toNat (scaleSum x sa sb)
  else v.toNat

/-- A row of C written: the elements within a tagged word are skipped (R253). -/
def State.writeCRow (s : State) (g : Gang) (n : Nest) (r : Nat) (vals : List Nat) : NestR :=
  let w := s.nestSpace g n 2
  let a := n.cAddr r
  let len := n.nc * n.esize
  if w.2 < a + len then (s, .error (cPERMFAULT, BitVec.ofNat 64 a))
  else match s.mem.firstBad ((w.1 + a) % 2 ^ 44) len with
    | some line => (s.foundBad (16 + g.die) line, .error (cMEMUE + 256 * 5, BitVec.ofNat 64 a))
    | none =>
      let x := vals.zipIdx.foldl (fun (x : State × Nest) (v : Nat × Nat) =>
        match x.1.engineWrite g.die g.ctx w (a + v.2 * n.esize) (leBytes n.esize v.1) with
        | (s', none) => (s', x.2)
        | (s', some e) => (s', if x.2.code = 0 then { x.2 with code := cBARCLOB, arg := e.2 } else x.2)) (s, n)
      (x.1, .ok x.2)

/-- The C tile written (R253). -/
def State.writeC (s : State) (g : Gang) (n : Nest) (sa sb : Nat) : Nat → NestR
  | 0 => (s, .ok n)
  | r + 1 => match s.writeC g n sa sb r with
    | (s, .error e) => (s, .error e)
    | (s, .ok n) => s.writeCRow g n r ((List.range n.nc).map fun c => n.result sa sb (r * n.nc + c))

/-- The progress registers after a tile step (R253). -/
def Nest.forward (n : Nest) : Nest :=
  if n.mdep + 1 < n.kt then { n with mdep := n.mdep + 1 }
  else if n.mcol + 1 < n.nt then { n with mdep := 0, mcol := n.mcol + 1 }
  else { n with mdep := 0, mcol := 0, mrow := n.mrow + 1 }

/-- One tile step (R253). [DEDUCED, log entry 16] -/
def State.stepNest (s : State) (g : Gang) (n : Nest) : NestR :=
  match s.readTile g n 0 (n.aAddr n.mdep) with
  | (s, .error e) => (s, .error e)
  | (s, .ok a) => match s.readTile g n 1 (n.bAddr n.mdep) with
    | (s, .error e) => (s, .error e)
    | (s, .ok b) =>
      if !s.scalesAgree g n a b then (s, .error (cILLOPND, n.word))
      else
        let c : State × Except (Nat × DWord) (List DWord) :=
          if n.mdep ≠ 0 then (s, .ok []) else if n.flag 3 then (s, .ok (List.replicate (32 * n.nc) 0)) else s.readC g n 32
        match c with
        | (s, .error e) => (s, .error e)
        | (s, .ok c0) =>
          let n := if n.mdep ≠ 0 then n
            else if n.exact then { n with macc := List.replicate (32 * n.nc) 0, c0 := c0 }
            else { n with macc := c0 }
          let n := { n with macc := (List.range (32 * n.nc)).map (n.elem a b) }
          if n.mdep + 1 < n.kt then (s, .ok n.forward)
          else match s.writeC g n (a.headD 0).toNat (b.headD 0).toNat 32 with
            | (s, .error e) => (s, .error e)
            | (s, .ok n) => (s, .ok n.forward)

/-- A program at the end of a tile step (R253, R269, R270): frozen, ended, ended as failed, or going on. [DEDUCED, log entry 16] -/
def State.afterStep (s : State) (core : Nat) (g : Gang) (n : Nest) : State :=
  if n.freeze then
    (s.setCore core { s.core core with nest := some { n with state := 4, freeze := false } }).setGang g.key (g.lower n.ctr)
  else if n.mrow < n.mt then
    (s.setCore core { s.core core with nest := some { n with since := s.cycle core, stepOp := s.nextOp } }).kick (.tileStep core)
  else if n.code ≠ 0 then s.failNest core n n.code 0 n.arg
  else
    (s.setCore core { s.core core with nest := none }).setGang g.key { g.lower n.ctr with
      mrow := BitVec.ofNat 32 n.mrow
      mcol := 0
      mdep := 0
      mstat := 2 }

/-- Whether an MRESUME's program still waits for the earlier words of its gang that write team memory, before its parameter block is read (R258). -/
def State.bootBlocked (s : State) (key : Nat) (n : Nest) : Bool :=
  n.fresh && n.image.isSome && s.flight.any fun (x : Nat × Flight) => decide (x.1 < n.order) && x.2.gang == key && match x.2.matrix with
    | some m => m.writesMem
    | none => false

/-- A program's start or re-entry, after which its first tile step follows (R269, R273). -/
def State.startNest (s : State) (core : Nat) (g : Gang) (n : Nest) : State :=
  match s.bootNest g n with
  | (s, n, some e) => s.failNest core n (e.1 % 256) (e.1 / 256) e.2
  | (s, n, none) => (s.setCore core { s.core core with nest := some n }).kick (.tileStep core)

/-- The next tile step of a running program, where one is left (R253). -/
def State.runNest (s : State) (core : Nat) (g : Gang) (n : Nest) : State :=
  match if n.mrow < n.mt then s.stepNest g n else (s, .ok n) with
  | (s, .error e) => s.failNest core n (e.1 % 256) (e.1 / 256) e.2
  | (s, .ok n) => s.afterStep core g n

/-- TILE_STEP (R253, R269, R273): the sequencer fetches a new program, or completes a tile step. [DEDUCED, log entry 16] -/
def execTileStep (core : Nat) (s : State) : Outcome :=
  match (s.core core).nest with
  | none => .next s
  | some n => match s.gang (gangKey core n.gang) with
    | none => .next s
    | some g =>
      if n.state ≠ 1 ∨ s.bootBlocked g.key n then .next s
      else
        let old := workKey (s.oldestWork core)
        let t := if n.fresh then s.startNest core g n else s.runNest core g n
        .next ((t.touchOldest core old).kickMatrix g.teamKey)

/-- A running program as a reset of its engine finds it: of one that MRESUME re-enters, what its image gives is held (R271, R273). [DEDUCED, log entry 16] -/
def State.heldNest (s : State) (core : Nat) (n : Nest) : State × Nest :=
  match n.image, s.gang (gangKey core n.gang) with
  | some _, some g =>
    let r := s.bootNest g n
    if r.1.asks ≠ s.asks then (s, n) else (r.1, r.2.1)
  | _, _ => (s, n)

/-- A matrix-engine reset of a core (R256): its row words, TTRANS and TBMAP in flight fail with TILEFAIL, and a running program with them. The rows of
quarter operations that have completed are written. -/
def State.resetEngine (s : State) (core : Nat) : State :=
  let s := s.flight.foldl (fun (s : State) (x : Nat × Flight) => match x.2.matrix, s.gang x.2.gang with
    | some m, some g =>
      if x.2.gang / 64 ≠ core ∨ !m.resettable then s
      else
        let left := m.lanes.filter fun (l : MLane) => m.op == 9 || m.op == 10 || m.quarters.contains (l.lane / 8)
        let w := s.writeRows g m
        w.1.endMatrix x.1 x.2 (g.poisonRows m) ({ w.2 with lanes := left }.fail (cTILEFAIL, BitVec.ofNat 64 m.acc))
    | _, _ => s) s
  match (s.core core).nest with
  | some n =>
    if n.state ≠ 1 then s
    else
      let r := s.heldNest core n
      r.1.failNest core r.2 cTILEFAIL 0 0
  | none => s

/-- Whether the oldest work of a core's engine has not completed within 2^24 engine cycles of becoming that (R256). -/
def State.hung (s : State) (core : Nat) : Bool :=
  let since := match s.oldestWork core with
    | some (.inl k) => ((tget s.flight k).bind Flight.matrix).map (·.since)
    | some (.inr n) => some n.since
    | none => none
  match since with
  | some t => decide (2 ^ 24 ≤ (s.cycle core - t).toNat)
  | none => false

/-- MATRIX_HANG (R256): a hang is reported to the die's management kernel, which resets the engine. -/
def execMatrixHang (core : Nat) (s : State) : Outcome := .next (if s.hung core then s.resetEngine core else s)

end Sys2Proof.Machine
end

