-- ==== Sys2Proof/Machine/Queue.lean ====
section
/-!
DEFINITION. The registers of the front end as the host and agents write them (R365 to R368, R378, R384, R386): doorbells, queue and
context records, launch-graph nodes and the replay register.
-/
namespace Sys2Proof.Machine

/-- What DOORBELL does (R368). [DESIGN CHOICE, log entry 30] -/
def State.doorbell (s : State) (die queue : Nat) (w : DWord) : State :=
  let x := s.queue die queue
  let n := w.toNat
  if x.state = 3 then s
  else if n < x.write then (s.queueError die queue 2)
  else if x.read + 2 ^ x.logsize < n then (s.queueError die queue 1)
  else if n = x.write then s
  else
    let s := s.setQueue die queue { x with write := n }
    (if x.enable && x.state == 0 then s.readyQueue die queue else s)

/-- DOORBELL (R368). -/
def execDoorbell (die queue : Nat) (w : DWord) (s : State) : Outcome := .next (s.doorbell die queue w)

/-- Whether a queue record may be enabled (R366). -/
def State.queueOk (s : State) (die : Nat) (x : Queue) : Bool :=
  (s.ctxRec die x.ctx).valid && decide (6 ≤ x.logsize) && decide (x.logsize ≤ 20) && decide (1 ≤ x.tickets)
    && x.base.toNat % (64 * 2 ^ x.logsize) == 0

/-- What QUEUE_ENABLE does (R366, R367): a queue of a context that drains or ends stays STOPPED. -/
def State.enableQueue (s : State) (die queue : Nat) : State :=
  let x := s.queue die queue
  if (x.enable && x.state != 4) || !s.queueOk die x then s
  else
    let idle : Queue := { x with
      enable := true
      errinfo := 0
      state := if s.stopped x.ctx die then 4 else 0 }
    let s := s.setQueue die queue idle
    (if idle.state = 0 ∧ x.read ≠ x.write then s.readyQueue die queue else s)

/-- QUEUE_ENABLE (R366, R367). -/
def execQueueEnable (die queue : Nat) (s : State) : Outcome := .next (s.enableQueue die queue)

/-- What QUEUE_DISABLE does (R366, R367). -/
def State.disableQueue (s : State) (die queue : Nat) : State :=
  let x := s.queue die queue
  (s.setQueue die queue { x with
    enable := false
    state := 4
    waitFrom := none
    lendsTo := none })

/-- QUEUE_DISABLE (R366, R367). -/
def execQueueDisable (die queue : Nat) (s : State) : Outcome := .next (s.disableQueue die queue)

/-- Whether bytes stored at an offset touch one of the bytes lo to hi of a record. -/
def touches (off n lo hi : Nat) : Bool := decide (off ≤ hi) && decide (lo < off + n)

/-- A queue record with the accepted part of a write to its fields (R366): PRIV only through function 0, TICKETS always, the other writable
fields while ENABLE is 0. -/
def Queue.store (x : Queue) (off fn : Nat) (bytes : List Byte) : Queue :=
  let img := patchBytes x.image off bytes
  let n := bytes.length
  let x := if fn = 0 && touches off n 37 37 then { x with priv := bit (BitVec.ofNat 8 (fieldBytes img 37 1)) 1 } else x
  let x := { x with tickets := fieldBytes img 32 2 }
  if x.enable then x
  else
    let x : Queue := { x with
      base := BitVec.ofNat 64 (fieldBytes img 0 8)
      logsize := fieldBytes img 34 1
      ctx := fieldBytes img 35 1
      errsig := BitVec.ofNat 64 (fieldBytes img 48 8)
      errinfo := BitVec.ofNat 64 (fieldBytes img 56 8) }
    if touches off n 16 23 then { x with read := fieldBytes img 16 8, write := fieldBytes img 16 8 } else x

/-- What QUEUE_RECORD_WRITE does (R366): fields first, then a change of ENABLE. -/
def State.writeQueue (s : State) (die queue off fn : Nat) (bytes : List Byte) : State :=
  let x := s.queue die queue
  let flags := BitVec.ofNat 8 (fieldBytes (patchBytes x.image off bytes) 37 1)
  let s := s.setQueue die queue (x.store off fn bytes)
  if !touches off bytes.length 37 37 then s
  else if bit flags 0 then s.enableQueue die queue
  else if x.enable then s.disableQueue die queue
  else s

/-- QUEUE_RECORD_WRITE (R366). -/
def execQueueRecordWrite (die queue off fn : Nat) (bytes : List Byte) (s : State) : Outcome := .next (s.writeQueue die queue off fn bytes)

/-- The context of a record's image (R384). -/
def ctxOfImage (img : List Byte) (old : Ctx) : Ctx :=
  let w (off n : Nat) : Nat := fieldBytes img off n
  { old with
    ctxid := BitVec.ofNat 32 (w 24 4)
    partid := BitVec.ofNat 12 (w 22 2)
    root := w 32 8
    spillBase := BitVec.ofNat 64 (w 40 8)
    spBase := BitVec.ofNat 64 (w 104 8)
    spLim := BitVec.ofNat 32 (w 116 4)
    pvec := BitVec.ofNat 64 (w 96 8)
    drainLim := BitVec.ofNat 32 (w 28 4)
    peerTab := BitVec.ofNat 64 (w 56 8)
    peerN := w 20 2
    saveMap := BitVec.ofNat 64 (w 88 8)
    immSave := bit (BitVec.ofNat 16 (w 16 2)) 1 }

/-- The fields of a record that belong to the context (R384). -/
def ctxFields (img : List Byte) : List Nat :=
  [fieldBytes img 24 4, fieldBytes img 22 2, fieldBytes img 32 8, fieldBytes img 40 8, fieldBytes img 104 8, fieldBytes img 116 4,
    fieldBytes img 96 8, fieldBytes img 28 4, fieldBytes img 56 8, fieldBytes img 20 2, fieldBytes img 88 8, fieldBytes img 16 1 / 2 % 2]

/-- Whether VALID may be set in a record (R384). -/
def State.recordOk (s : State) (die c : Nat) : Bool :=
  let img := (s.ctxRec die c).image
  fieldBytes img 96 8 % 4 == 0 && fieldBytes img 104 8 % 64 == 0 && decide (fieldBytes img 104 8 + fieldBytes img 116 4 ≤ padSize)
    && fieldBytes img 40 8 % 2 ^ 22 == 0
    && (List.range 8).all fun k => k == die || !(s.ctxRec k c).valid || ctxFields (s.ctxRec k c).image == ctxFields img

/-- A record with VALID as given in its FLAGS. -/
def CtxRec.setValid (r : CtxRec) (on : Bool) : CtxRec :=
  let img := r.image
  { r with
    valid := on
    bytes := patchBytes img 16 [setBit (BitVec.ofNat 8 (fieldBytes img 16 1)) 0 on] }

/-- What CONTEXT_VALID_SET does (R384): refused, with VALID still 0, or the context takes the record's values. -/
def State.setContext (s : State) (die ctx : Nat) : State :=
  let r := s.ctxRec die ctx
  if r.valid then s
  else if !s.recordOk die ctx then (s.setCtxRec die ctx (r.setValid false))
  else ((s.setCtx ctx (ctxOfImage r.image (s.ctx ctx))).setCtxRec die ctx (r.setValid true))

/-- CONTEXT_VALID_SET (R384). -/
def execContextValidSet (die ctx : Nat) (s : State) : Outcome := .next (s.setContext die ctx)

/-- What CONTEXT_VALID_CLEAR does (R384, R388): open launches complete as drained. -/
def State.clearContext (s : State) (die ctx : Nat) : State :=
  if (s.ctxRec die ctx).valid then (s.endContext ctx 4 0) else s

/-- CONTEXT_VALID_CLEAR (R384, R388). [DEDUCED, log entry 32] -/
def execContextValidClear (die ctx : Nat) (s : State) : Outcome := .next (s.clearContext die ctx)

/-- COMPRD written (R384, R385): records that waited for room are written, and the queues that waited for the ring are tried again. -/
def State.setCompRd (s : State) (die c n : Nat) : State :=
  let r := s.ctxRec die c
  let s := s.setCtxRec die c { r with compRd := n }
  let s := if r.retrying then s else State.drainCompletions (r.waiting.length + 2) s die c
  (s.leaveContext c).kick (.packetProcessorStep die)

/-- What CONTEXT_RECORD_WRITE does (R384): in a valid record only COMPRD and a clearing of VALID are accepted. -/
def State.writeContext (s : State) (die ctx off : Nat) (bytes : List Byte) : State :=
  let r := s.ctxRec die ctx
  let n := bytes.length
  let view := patchBytes r.view off bytes
  let s := if touches off n 80 87 then s.setCompRd die ctx (fieldBytes view 80 8) else s
  let on := bit (BitVec.ofNat 8 (fieldBytes view 16 1)) 0
  if r.valid then
    if touches off n 16 16 && !on then s.clearContext die ctx else s
  else
    let r := s.ctxRec die ctx
    let s := s.setCtxRec die ctx { r with bytes := contextOf (patchBytes r.image off bytes) }
    if on then s.setContext die ctx else s

/-- CONTEXT_RECORD_WRITE (R384). -/
def execContextRecordWrite (die ctx off : Nat) (bytes : List Byte) (s : State) : Outcome := .next (s.writeContext die ctx off bytes)

/-- A launch-graph node written (R378): ignored while a GRAPH runs on its range; COUNTER and STATUS are read-only. -/
def State.writeNode (s : State) (die i off : Nat) (bytes : List Byte) : State :=
  let d := s.die die
  if d.graphs.any fun g => decide (g.first ≤ i) && decide (i < g.first + g.count) then s
  else
    let x := tgetD d.nodes i {}
    s.setDie die { d with nodes := tput d.nodes i { x with bytes := patchBytes x.written off bytes } }

/-- A part held under a sequence number. -/
def Part.heldBy (p : Part) (seq : Nat) : Bool := match p.st with | .held _ q _ => q == seq | _ => false

/-- A held part failed as Cancel fails it (R216). -/
def Part.cancel (p : Part) (seq : Nat) : Part :=
  match p.st with
  | .held cause q _ => if q = seq then { p with st := .failed (cancelCode cause) 0 p.va } else p
  | _ => p

/-- The held accesses of an operation performed again from translation (R216). -/
def State.replayFlight (s : State) (die seq op : Nat) : State :=
  match tget s.flight op with
  | none => s
  | some f => match s.gang f.gang with
    | none => s
    | some g =>
      if g.die ≠ die || !f.job.parts.any (·.heldBy seq) then s
      else match f.job with
        | .access a =>
          let r := s.translateParts g a.kind (a.parts.filter (·.heldBy seq))
          ({ r.1 with flight := tput r.1.flight op (f.setParts a (replaceParts a.parts r.2)) }).sendReady op
        | .token d lanes ex p st =>
          let r := s.translatePlain g p
          (r.1.setJob op f (.token d lanes ex r.2 st)).askToken op
        | .coll d lanes sock entry p res =>
          let r := s.translateParts g .load [p]
          (r.1.setJob op f (.coll d lanes sock entry (r.2.headD p) res)).enterStart op
        | _ => s

/-- The held accesses of an operation cancelled (R216). -/
def State.cancelFlight (s : State) (die seq op : Nat) : State :=
  match tget s.flight op with
  | none => s
  | some f => match s.gang f.gang with
    | none => s
    | some g =>
      if g.die ≠ die || !f.job.parts.any (·.heldBy seq) then s
      else match f.job with
        | .access a =>
          (({ s with flight := tput s.flight op (f.setParts a (a.parts.map fun (p : Part) => p.cancel seq)) }).settle op).sendAll g.core
        | .token d lanes ex p st => (s.setJob op f (.token d lanes ex (p.cancel seq) st)).settle op
        | .coll d lanes sock entry p res => (s.setJob op f (.coll d lanes sock entry (p.cancel seq) res)).settle op
        | _ => s

/-- Whether a split is held at SIGNAL under a sequence number. -/
def Split.heldAt (sp : Split) (seq : Nat) : Bool := match sp.hold with | .fault q _ _ => q.toNat == seq | _ => false

/-- A split that SIGNAL held executes the word again. -/
def Split.release (seq : Nat) (sp : Split) : Split := if sp.heldAt seq then { sp with hold := .run } else sp

/-- The splits of a die's gangs that SIGNAL holds under a sequence number released, those of interrupted tables included. -/
def State.releaseSignals (s : State) (die seq : Nat) : State :=
  { s with gangs := s.gangs.map fun (x : Nat × Gang) =>
      if x.2.die ≠ die then x
      else (x.1, { x.2 with
        splits := x.2.splits.map (Option.map (Split.release seq))
        handler := x.2.handler.map fun h => { h with splits := h.splits.map (Option.map (Split.release seq)) } }) }

/-- A split held at SIGNAL under a sequence number of which the fault has been cancelled. -/
def Split.cancelled (seq : Nat) (sp : Split) : Split :=
  match sp.hold with
  | .fault q cause va => if q.toNat = seq then { sp with hold := .cancelled (cancelCode cause) va } else sp
  | _ => sp

/-- The splits of a die's gangs that SIGNAL holds under a sequence number, with its fault cancelled, those of interrupted tables included (R216, R224): as
the word has no counter wait, the failure is delivered at the word when its split next issues. [DESIGN CHOICE, log entry 49] -/
def State.failSignals (s : State) (die seq : Nat) : State :=
  { s with gangs := s.gangs.map fun (x : Nat × Gang) =>
      if x.2.die ≠ die then x
      else (x.1, { x.2 with
        splits := x.2.splits.map (Option.map (Split.cancelled seq))
        handler := x.2.handler.map fun h => { h with splits := h.splits.map (Option.map (Split.cancelled seq)) } }) }

/-- What FAULT_REPLAY does (R216, R386). -/
def State.replayFault (s : State) (die seq : Nat) : State :=
  let s' := s.flight.foldl (fun t x => t.replayFlight die seq x.1) s
  ((s'.releaseSignals die seq).replayCopies die seq)

/-- FAULT_REPLAY (R216, R386). -/
def execFaultReplay (die seq : Nat) (s : State) : Outcome := .next (s.replayFault die seq)

/-- What FAULT_CANCEL does (R216, R386). -/
def State.cancelFault (s : State) (die seq : Nat) : State :=
  let s' := s.flight.foldl (fun t x => t.cancelFlight die seq x.1) s
  ((s'.failSignals die seq).cancelCopies die seq)

/-- FAULT_CANCEL (R216, R386). -/
def execFaultCancel (die seq : Nat) (s : State) : Outcome := .next (s.cancelFault die seq)

end Sys2Proof.Machine
end

