-- ==== Sys2Proof/Machine/Mmio.lean ====
section
/-!
DEFINITION. Writes to the registers of the MMIO windows and of the mailbox (R13, R329, R365, R389).
-/
namespace Sys2Proof.Machine

/-- Bytes at an offset cut at the records of a size: record, offset within it, bytes. -/
def cutRecords (size : Nat) : Nat → Nat → List Byte → List (Nat × Nat × List Byte)
  | 0, _, _ => []
  | f + 1, off, bs =>
    if bs = [] then []
    else
      let n := min bs.length (size - off % size)
      (off / size, off % size, bs.take n) :: cutRecords size f (off + n) (bs.drop n)

/-- Bytes stored in a base die's program memory (R329). -/
def Base.storeProgram (b : Base) (off : Nat) (bytes : List Byte) : Base :=
  (cutRecords 4 (bytes.length + 1) off bytes).foldl (fun (b : Base) x =>
    let old := leBytes 4 (tgetD b.prog x.1 0).toNat
    { b with prog := tput b.prog x.1 (BitVec.ofNat 32 (ofLeBytes (patchBytes old x.2.1 x.2.2))) }) b

/-- The replay register written (R386). -/
def State.writeReplay (s : State) (die : Nat) (v : DWord) : State :=
  let seq := bits v 0 32
  if field v 32 2 == 1 then s.replayFault die seq else if field v 32 2 == 2 then s.cancelFault die seq else s

/-- Bytes stored at a defined offset of a compute die's window (R365): a doorbell store of another size or at another offset is ignored (R368),
and so are a store to the slot table and one of another size to the replay register. [DESIGN CHOICE, log entry 30] -/
def State.writeWindow (s : State) (die off fn : Nat) (bytes : List Byte) : State :=
  let n := bytes.length
  let cut (size base : Nat) := cutRecords size (n + 1) (off - base) bytes
  if off < 0x8000000 then
    if n = 8 ∧ off % 0x10000 = 0 then s.doorbell die (off / 0x10000) (BitVec.ofNat 64 (ofLeBytes bytes)) else s
  else if off < 0x8020000 then (cut 64 0x8000000).foldl (fun (s : State) x => s.writeQueue die x.1 x.2.1 fn x.2.2) s
  else if off < 0x8030000 then (cut 256 0x8020000).foldl (fun (s : State) x => s.writeContext die x.1 x.2.1 x.2.2) s
  else if off < 0x8040000 then if n = 8 then s.writeReplay die (BitVec.ofNat 64 (ofLeBytes bytes)) else s
  else if off < 0x8080000 then s
  else (cut 64 0x8080000).foldl (fun (s : State) x => s.writeNode die x.1 x.2.1 x.2.2) s

/-- Bytes stored at an offset of a socket's window, or `none` for an addressing error. -/
def State.regWrite (s : State) (sock off fn : Nat) (bytes : List Byte) : Option State :=
  if (s.regRead sock off bytes.length fn).isNone then none
  else if sock < 16 then
    if off < 0x10000 then some (s.setBase sock ((s.base sock).storeProgram off bytes)) else some s
  else some (s.writeWindow (sock - 16) off fn bytes)

/-- The bytes of the mailbox registers (R389). -/
def Pkg.mailbox (p : Pkg) : List Byte :=
  leBytes 8 p.mbase ++ leBytes 8 p.mlog ++ leBytes 8 p.mdoor ++ leBytes 8 p.mdone

/-- The message in a slot of the ring, with its endpoint and op (R389). [DEDUCED, log entry 35] -/
def State.message (s : State) (slot : Nat) : Nat × Nat × Mail :=
  let bs := s.mem.read (hostKey (s.pkg.mbase + 64 * (slot % 2 ^ s.pkg.mlog))) 64
  (fieldBytes bs 0 1, fieldBytes bs 1 1,
    ⟨slot, BitVec.ofNat 32 (fieldBytes bs 4 4), fieldBytes bs 2 1, (leWords 8 7 (bs.drop 8)).map (BitVec.ofNat 64)⟩)

/-- MDOOR written (R389): the root reads every message that it passes; a ring holds no more than its size. [DESIGN CHOICE, log entry 30; DEDUCED, log entry 35] -/
def State.ringMail (s : State) (v : Nat) : State :=
  let first := s.pkg.mdoor
  let n := min (v - first) (2 ^ s.pkg.mlog)
  let s := { s with pkg := { s.pkg with mdoor := max v first } }
  s.push ((List.range n).map fun i => let m := s.message (first + i); .mail m.1 m.2.1 m.2.2)

/-- The mailbox registers written (R389); MDONE is read-only. -/
def State.writeMailbox (s : State) (off : Nat) (bytes : List Byte) : State :=
  let img := patchBytes s.pkg.mailbox off bytes
  let n := bytes.length
  let s := if touches off n 0 7 then { s with pkg := { s.pkg with mbase := fieldBytes img 0 8 } } else s
  let s := if touches off n 8 8 then { s with pkg := { s.pkg with mlog := fieldBytes img 8 1 } } else s
  if touches off n 16 23 then s.ringMail (fieldBytes img 16 8) else s

/-- The address at which the model holds BAR 0 of function 0, beside the package's local addresses. [DEDUCED, log entry 35] -/
def barZero : Nat := 2 ^ 44

/-- An access through a PCIe function that is an addressing error (R16): an Unsupported Request completion and an ERRLOG record
of the base die at which the address is reached. [DESIGN CHOICE, log entry 29] -/
def State.unsupported (s : State) (addr : Nat) : State :=
  let r := s.upRouter (s.entryStack addr)
  (s.errlog r 24 1 4 cPERMFAULT 0 addr).emit (.pcie none)

/-- MMIO_REGISTER_WRITE (R365, R389): socket 24 names function 0's mailbox registers, which alone answer in ROM recovery (R398). -/
def execMmioRegisterWrite (sock off fn : Nat) (bytes : List Byte) (s : State) : Outcome :=
  if sock = 24 ∧ fn = 0 ∧ off + bytes.length ≤ 0x20 then .next (s.writeMailbox off bytes)
  else if s.pkg.recovery then .next (s.emit (.pcie none))
  else match s.regWrite sock off fn bytes with
    | some s' => .next s'
    | none => .next (s.unsupported (mmioBase sock + off))

end Sys2Proof.Machine
end

