-- ==== Sys2Proof/Machine/MemUnit.lean ====
section
/-!
DEFINITION. The units at which requests are performed (R52 to R56, R71 to R75, R90, R91, R218, R228, R290, R313, R325): memory-side caches,
the arrays and registers of compute dies, and host memory.
-/
namespace Sys2Proof.Machine

/-- A response on its way (R10, R305): from a compute die's array to its own die and from host memory straight to the requester, otherwise
into the fabric where the unit is attached; a unit that asks for none gets none. -/
def State.respond (s : State) (sock : Nat) (q r : Packet) : State :=
  let mine : Bool := r.dpkg.toNat == s.pkg.id
  if mine && decide (24 ≤ r.dsock.toNat) then s
  else if mine && decide (16 ≤ sock) && (r.dsock.toNat == sock || sock == 24) then s.deliverReply r
  else if sock < 16 then s.push [.routerPacketArrive sock 9 r]
  else
    let k := sock % 8
    s.push [.routerPacketArrive (s.attachFor k (s.entryStack (q.addr.toNat % 2 ^ 44))) (clientPort k) r]

/-- A response without data. -/
def State.ack (s : State) (sock : Nat) (q : Packet) : State := s.respond sock q (responseTo q s.pkg.id sock)

/-- A failed response (R16, R218, R228): a mask in SIDE names the bytes concerned, none all of them. -/
def State.refuse (s : State) (sock : Nat) (q : Packet) (code cause : Nat) (mask : BitVec 64) : State :=
  (s.dropLock q).respond sock q { responseTo q s.pkg.id sock with
    side := mask
    payload := if q.kind = 3 then 0 :: q.payload else []
    fail := some (code, cause) }

/-- The masked bytes of a line that lie in an element with a tagged word (R228). [DEDUCED, log entry 48] -/
def Mem.clobbered (m : Mem) (line n : Nat) (mask : BitVec 64) : BitVec 64 :=
  (List.range 64).foldl (fun (r : BitVec 64) i =>
    let lo := i / n * n
    let hit := (List.range n).any fun j => mask.getLsbD (lo + j) && m.tagged (line + lo + j)
    if mask.getLsbD i && hit then setBit r i true else r) 0

/-- The plaintext of the line at a place, under the key of a sealed page, or why it cannot be had (R218). -/
def State.lineText (s : State) (k pa : Nat) (key : Option (BitVec 8)) : Except (Nat × Nat) (List Byte) :=
  let raw := s.mem.read k 64
  match key with
  | none => .ok raw
  | some id => match s.keyFor id.toNat pa with
    | none => .error (cPAGEFAULT, 0)
    | some slot =>
      if s.mem.read (physKey s.pkg.id (slot.tagAddr pa)) 8 = slot.tag pa raw then .ok (openLine slot.dataKey slot.tweakKey pa raw)
      else .error (cMEMUE, 2)

/-- Memory with the line at a place replaced, sealed with its tag on a sealed page (R324, R325). -/
def State.putLine (s : State) (k pa : Nat) (key : Option (BitVec 8)) (line : List Byte) : State :=
  match key.bind fun id => s.keyFor id.toNat pa with
  | none => { s with mem := s.mem.write k line }
  | some slot =>
    let c := sealLine slot.dataKey slot.tweakKey pa line
    { s with mem := (s.mem.write k c).write (physKey s.pkg.id (slot.tagAddr pa)) (slot.tag pa c) }

/-- What a performed write leaves beside the bytes: the owner tag of a scratchpad line (R91), and the dirty mark of a cached peer line. -/
def State.afterWrite (s : State) (k pa : Nat) (ctx : Option (BitVec 8)) : State :=
  match apertureOf k with
  | .pad _ _ => { s with mem := s.mem.own k (ctx.map (·.toNat)) }
  | _ => if (tget s.mem.cached (pa / 64)).isSome then
      { s with mem := { s.mem with cached := tput s.mem.cached (pa / 64) true } } else s

/-- What a read or a write that has been performed does to the lock of a sealed line (R325): SIDE 1 takes it, under the number that is the request's tag,
and 3 + 4n, the write of the tag, ends lock n. [DEDUCED, log entry 28] -/
def State.lockStep (s : State) (p : Packet) : State :=
  if p.side.toNat % 4 = 1 then { s with mem := { s.mem with locks := (p.addr.toNat / 64, p.spkg.toNat, p.tag.toNat) :: s.mem.locks } }
  else if p.side.toNat % 4 = 3 then s.dropLock p
  else s

/-- Whether a lock of the line keeps a request waiting (R325): every one but the holder's own next step. -/
def State.lockedOut (s : State) (p : Packet) : Bool :=
  s.mem.locks.any fun l => l.1 == p.addr.toNat / 64
    && !((p.kind == 1 || p.kind == 2) && p.side.toNat % 4 == 2 && l.2 == (p.spkg.toNat, p.side.toNat / 4))

/-- A read performed (R53). -/
def State.performRead (s : State) (sock : Nat) (p : Packet) (k : Nat) : State :=
  match s.lineText k (p.addr.toNat / 64 * 64) p.key with
  | .error e => s.refuse sock p e.1 e.2 0
  | .ok line => (s.lockStep p).respond sock p { responseTo p s.pkg.id sock with payload := (leWords 8 8 line).map (BitVec.ofNat 64) }

/-- A write performed (R54, R228, R325): a whole sealed line needs no read. -/
def State.performWrite (s : State) (sock : Nat) (p : Packet) (k : Nat) : State :=
  let pa := p.addr.toNat / 64 * 64
  let clob := s.mem.clobbered k (sizeBytes p.size.toNat) p.opnd
  let mask := p.opnd &&& ~~~clob
  let data := dwordBytes (p.payload.take 8)
  let old := if mask = BitVec.allOnes 64 then .ok data else s.lineText k pa p.key
  match old with
  | .error e => s.refuse sock p e.1 e.2 0
  | .ok line =>
    let new := (List.range 64).map fun i => if mask.getLsbD i then data.getD i 0 else line.getD i 0
    let s := (((s.putLine k pa p.key new).afterWrite k pa p.ctx)).lockStep p
    if clob = 0 then s.ack sock p else s.refuse sock p cBARCLOB 0 clob

/-- A value stored in a line of plaintext, and whether a barrier tag refuses it. -/
def State.atomicAt (s : State) (k pa : Nat) (p : Packet) (n : Nat) (f : Nat → Nat) : Except (Nat × Nat) State :=
  let off := pa % 64
  let base := k / 64 * 64
  if s.mem.touchesTag k n then .error (cBARCLOB, 0)
  else match s.lineText base (pa / 64 * 64) p.key with
    | .error e => .error e
    | .ok line =>
      let s := s.putLine base (pa / 64 * 64) p.key (patchBytes line off (leBytes n (f (fieldBytes line off n))))
      .ok (s.afterWrite base (pa / 64 * 64) p.ctx)

/-- The value of an element before an operation. -/
def State.elemAt (s : State) (k pa : Nat) (p : Packet) (n : Nat) : Nat :=
  match s.lineText (k / 64 * 64) (pa / 64 * 64) p.key with
  | .ok line => fieldBytes line (pa % 64) n
  | .error _ => 0

/-- FADDG performed (R71, R313): the reply carries the value before it and the leaves. -/
def State.performFadd (s : State) (sock : Nat) (p : Packet) (k : Nat) : State :=
  let n := 2 ^ p.size.toNat
  let pa := p.addr.toNat
  let old := s.elemAt k pa p n
  match s.atomicAt k pa p n fun v => (v + p.opnd.toNat) % 2 ^ (8 * n) with
  | .error e => s.refuse sock p e.1 e.2 0
  | .ok s => s.respond sock p { responseTo p s.pkg.id sock with payload := BitVec.ofNat 64 old :: p.payload }

/-- Whether two packets belong to one atomic group (R313). -/
def sameGroup (p q : Packet) : Bool :=
  p.spkg == q.spkg && p.ssock == q.ssock && p.tag == q.tag && p.addr == q.addr && p.aop == q.aop

/-- The operand i of a packet of an atomic, and the compare value of CASG (R206, R211, R313). -/
def groupOperand (p : Packet) (n i : Nat) : Nat × Nat :=
  let bs := dwordBytes p.payload
  if p.aop = 10 then (fieldBytes bs (2 * n * i + n) n, fieldBytes bs (2 * n * i) n) else (fieldBytes bs (n * i) n, 0)

/-- The operands of a packet applied in ascending lane order: the values before each, and the last one. -/
def applyOperands (p : Packet) (n : Nat) (v : Nat) : List Nat × Nat :=
  (List.range p.nopnd.toNat).foldl (fun (r : List Nat × Nat) i =>
    let o := groupOperand p n i
    (r.1 ++ [r.2], atomicOp n (field p.side 0 2) p.aop.toNat r.2 o.1 o.2)) ([], v)

/-- The packets of a complete group in GIDX order, each with the values before its operands, and the last value (R73). -/
def applyGroup (n : Nat) : List Packet → Nat → List (Packet × List Nat) × Nat
  | [], v => ([], v)
  | p :: t, v =>
    let r := applyOperands p n v
    let rest := applyGroup n t r.2
    ((p, r.1) :: rest.1, rest.2)

/-- The packets of a group in GIDX order. -/
def groupOrder (ps : List Packet) : List Packet := (List.range 16).flatMap fun i => ps.filter fun p => p.gidx.toNat == i

/-- ATOMG and CASG performed once their group is complete (R73, R313). -/
def State.performAtomic (s : State) (sock : Nat) (p : Packet) (k : Nat) : State :=
  let b := s.base (sock % 16)
  let mine := b.groups.filter (sameGroup p)
  let all := mine ++ [p]
  if all.length < p.gcnt.toNat then s.setBase (sock % 16) { b with groups := b.groups ++ [p] }
  else
    let s := s.setBase (sock % 16) { b with groups := b.groups.filter fun q => !sameGroup p q }
    let n := 2 ^ p.size.toNat
    let pa := p.addr.toNat
    let r := applyGroup n (groupOrder all) (s.elemAt k pa p n)
    match s.atomicAt k pa p n fun _ => r.2 with
    | .error e => all.foldl (fun (s : State) q => s.refuse sock q e.1 e.2 0) s
    | .ok s => r.1.foldl (fun (s : State) x =>
        let bytes := x.2.flatMap (leBytes n)
        s.respond sock x.1 { responseTo x.1 s.pkg.id sock with
          payload := (leWords 8 ((bytes.length + 7) / 8) bytes).map (BitVec.ofNat 64) }) s

/-- Whether the rest of an atomic group is awaited on a packet's line (R313). -/
def State.lineLocked (s : State) (sock : Nat) (p : Packet) : Bool :=
  (s.base (sock % 16)).groups.any fun q => !(p.kind == 4 && sameGroup p q) && q.addr.toNat / 64 == p.addr.toNat / 64

/-- A request performed at a place of the memory list, by its kind (R313). -/
def State.performAt (s : State) (sock : Nat) (p : Packet) (k : Nat) : State :=
  if s.lineLocked sock p || s.lockedOut p then s.push [.memoryRequest sock p]
  else if p.kind = 1 then s.performRead sock p (k / 64 * 64)
  else if p.kind = 2 then s.performWrite sock p (k / 64 * 64)
  else if p.kind = 3 then s.performFadd sock p k
  else s.performAtomic sock p k

/-- The bytes of a masked line cut into the elements of a size that are whole: offset and bytes. -/
def maskedElems (size : Nat) (mask : BitVec 64) (data : List Byte) : List (Nat × List Byte) :=
  (List.range (64 / size)).filterMap fun i =>
    if (List.range size).all fun j => mask.getLsbD (i * size + j) then some (i * size, (data.drop (i * size)).take size) else none

/-- A request for registers (R13, R329, R365): a read returns them, a write stores each of its elements as one access; an atomic or an undefined
offset is an addressing error, which names the bytes that it concerns. -/
def State.performReg (s : State) (sock off : Nat) (p : Packet) : State :=
  let line := off / 64 * 64
  let n := sizeBytes p.size.toNat
  let err (s : State) (mask : BitVec 64) : State :=
    let s := s.errlog (s.upRouter (s.entryStack (p.addr.toNat % 2 ^ 44))) p.ssock.toNat 1 4 cPERMFAULT 0 p.addr.toNat
    s.refuse sock p cPERMFAULT 0 mask
  if p.kind = 1 then
    let got := (List.range (64 / n)).map fun i => s.regRead sock (line + i * n) n 9
    let bad := (List.range 64).foldl (fun (m : BitVec 64) i => if (got.getD (i / n) none).isNone then setBit m i true else m) 0
    let bytes := got.flatMap fun o => o.getD (List.replicate n 0)
    let r := { responseTo p s.pkg.id sock with payload := (leWords 8 8 bytes).map (BitVec.ofNat 64) }
    if bad = 0 then s.respond sock p r
    else
      let s := s.errlog (s.upRouter (s.entryStack (p.addr.toNat % 2 ^ 44))) p.ssock.toNat 1 4 cPERMFAULT 0 p.addr.toNat
      s.respond sock p { r with
        side := bad
        fail := some (cPERMFAULT, 0) }
  else if p.kind = 2 then
    let r := (maskedElems n p.opnd (dwordBytes (p.payload.take 8))).foldl (fun (r : State × BitVec 64) x =>
      match r.1.regWrite sock (line + x.1) 9 x.2 with
      | some s' => (s', r.2)
      | none => (r.1, (List.range n).foldl (fun m j => setBit m (x.1 + j) true) r.2)) (s, 0)
    if r.2 = 0 then r.1.ack sock p else err r.1 r.2
  else err s 0

/-- The holders that stand in the way of a request at home (R74). -/
def State.tokenBlocks (s : State) (pa : Nat) (pkg : Nat) : List Nat :=
  match tget (s.base (homeOf (regionOf pa))).dir (regionOf pa) with
  | none => []
  | some e => e.blockers pkg false false

/-- A request for HBM of this package (R74): it waits at the home directory for the recall of another exclusive holder; a write waits for the
invalidation of the other holders' copies, and every other request of the region behind it; else it is performed. -/
def State.homeRequest (s : State) (sock : Nat) (p : Packet) (k : Nat) : State :=
  let region := regionOf p.addr.toNat
  let home := homeOf region
  let pkg := p.spkg.toNat
  match tget (s.base home).dir region with
  | none => s.performAt sock p k
  | some e =>
    if e.writer = some (some p) ∧ e.stale = [] then (s.endWriter home region).performAt sock p k
    else if e.writer ≠ none then s.holdRequest home region e pkg false p []
    else
      let blocks := e.blockers pkg false false
      let others := if p.kind = 1 then [] else e.holders.filter (· != pkg)
      if blocks ≠ [] then s.holdRequest home region e pkg false p (if e.pending = [] then blocks else [])
      else if others = [] then s.performAt sock p k
      else if e.pending ≠ [] then s.holdRequest home region e pkg false p []
      else s.askCopies home region e (some p) others

/-- MEMORY_REQUEST (R52, R74, R90, R91, R218). -/
def execMemoryRequest (sock : Nat) (p : Packet) (s : State) : Outcome :=
  let pa := p.addr.toNat
  let k := pa % 2 ^ 44
  if sock = 24 then .next (s.performAt sock p (hostKey pa))
  else if pa / 2 ^ 44 ≠ s.pkg.id then
    if s.peerLine pa then .next (s.performAt sock p (peerKey pa))
    else .next (s.push [.routerPacketArrive sock 9 { p with dpkg := BitVec.ofNat 12 (pa / 2 ^ 44) }])
  else match apertureOf k with
    | .mmio w off => .next (s.performReg w off p)
    | .none =>
      let s := s.errlog (if sock < 16 then sock else s.upRouter 0) p.ssock.toNat 1 4 cPERMFAULT 0 pa
      .next (s.refuse sock p cPERMFAULT 0 0)
    | _ => match s.lineErr k with
      | some (code, cause) =>
        .next ((if cause = 5 then s.foundBad (sockOf k) k else s).refuse sock p code cause 0)
      | none => .next (if sock < 16 then s.homeRequest sock p k else s.performAt sock p k)

/-- Why a host access cannot be performed at a local address (R15, R16, R20): the line cannot be served, or no stack by which its die is entered is up. -/
def State.hostErr (s : State) (a : Nat) : Option (Nat × Nat) :=
  let shut : Bool := match apertureOf a with
    | .pad k _ => !s.portUp k (s.entryStack a)
    | .team c _ => !s.portUp (c / 64) (s.entryStack a)
    | _ => false
  if shut then some (cMEMUE, 3) else s.lineErr a

/-- An uncorrectable line of an on-chip array that an access of the host finds (R91). -/
def State.hostFound (s : State) (a : Nat) : State :=
  match apertureOf a with
  | .pad _ _ | .team _ _ => if s.hostErr a = some (cMEMUE, 5) then s.foundBad (sockOf a) a else s
  | _ => s

/-- Whether a PCIe function reaches a local address (R365, R389): functions 1 to 8 map only the window of their own die; the package's memory is reached
through function 0. [DESIGN CHOICE, log entry 29] -/
def hostMaps (fn a : Nat) : Bool :=
  fn == 0 || match apertureOf a with
    | .mmio sock _ => sock == fn + 15
    | _ => false

/-- One piece of a host write performed (R75, R91, R228), or the packages whose recall it waits for (R74). -/
def State.hostPiece (s : State) (fn a : Nat) (bs : List Byte) : Except (List Nat) State :=
  if !hostMaps fn a then .ok (s.unsupported a)
  else match apertureOf a with
  | .mmio sock off => match s.regWrite sock off fn bs with
    | some s' => .ok s'
    | none => .ok (s.unsupported a)
  | .none => .ok (s.unsupported a)
  | .hbm _ =>
    let b := s.tokenBlocks (s.ownAddr a) s.pkg.id
    if b ≠ [] then .error b
    else if (s.lineErr a).isSome then .ok s
    else .ok { s with mem := s.mem.write a bs }
  | .pad _ _ =>
    if (s.hostErr a).isSome then .ok (s.hostFound a)
    else .ok { s with mem := (s.mem.writeSkip a bs).1.own a none }
  | .team _ _ => if (s.hostErr a).isSome then .ok (s.hostFound a) else .ok { s with mem := (s.mem.writeSkip a bs).1 }

/-- One piece of a host read: its bytes, `none` for an unsupported request, or the packages whose recall it waits for. -/
def State.hostFetch (s : State) (fn a n : Nat) : Except (List Nat) (Option (List Byte)) :=
  if !hostMaps fn a then .ok none
  else match apertureOf a with
  | .mmio sock off => .ok (s.regRead sock off n fn)
  | .none => .ok none
  | .hbm _ =>
    let b := s.tokenBlocks (s.ownAddr a) s.pkg.id
    if b ≠ [] then .error b else if (s.lineErr a).isSome then .ok none else .ok (some (s.mem.read a n))
  | _ => if (s.hostErr a).isSome then .ok none else .ok (some (s.mem.read a n))

/-- The pieces of a host access: whole where it meets registers, otherwise cut at lines. -/
def hostPieces (a n : Nat) : List (Nat × Nat) :=
  match apertureOf a with
  | .mmio _ _ => [(a, n)]
  | _ => pieces a n

/-- The packages that stand in the way of a host access (R74). -/
def State.hostBlocks (s : State) (r : HostReq) : List Nat :=
  (((hostPieces r.addr r.len).filter fun x => hostMaps r.fn x.1).flatMap fun x => match apertureOf x.1 with
    | .hbm _ => s.tokenBlocks (s.ownAddr x.1) s.pkg.id
    | _ => []).eraseDups

/-- A host access that nothing stands in the way of performed (R75): a read of an address without data, or one that fails, completes as an
Unsupported Request (R16), as does every one but the mailbox's in ROM recovery (R398). [DESIGN CHOICE, log entry 29] -/
def State.hostPerform (s : State) (r : HostReq) : State :=
  if barZero ≤ r.addr then
    let off := r.addr - barZero
    if r.fn ≠ 0 ∨ 0x20 < off + r.len then s.unsupported r.addr
    else match r.bytes with
      | some bs => s.writeMailbox off bs
      | none => s.emit (.pcie (some ((s.pkg.mailbox.drop off).take r.len)))
  else if s.pkg.recovery then s.emit (.pcie none)
  else match r.bytes with
    | some bs =>
      ((hostPieces r.addr r.len).foldl (fun (x : State × List Byte) p =>
        match x.1.hostPiece r.fn p.1 (x.2.take p.2) with
        | .ok s' => (s', x.2.drop p.2)
        | .error _ => (x.1, x.2.drop p.2)) (s, bs)).1
    | none =>
      let got := (hostPieces r.addr r.len).foldl (fun (acc : Option (List Byte)) p =>
        match acc, s.hostFetch r.fn p.1 p.2 with
        | some bs, .ok (some more) => some (bs ++ more)
        | _, _ => none) (some [])
      let s := (hostPieces r.addr r.len).foldl (fun (s : State) p => if hostMaps r.fn p.1 then s.hostFound p.1 else s) s
      match got with
      | some bs => s.emit (.pcie (some bs))
      | none => s.unsupported r.addr

/-- Recalls sent to the packages in the way of a host access that have not been asked yet (R74). -/
def State.hostRecall (s : State) (r : HostReq) (blocks : List Nat) : State :=
  let region := (hostPieces r.addr r.len).findSome? fun x =>
    let pa := s.ownAddr x.1
    match apertureOf x.1 with
    | .hbm _ => if s.tokenBlocks pa s.pkg.id = [] then none else some (regionOf pa)
    | _ => none
  match region with
  | none => s
  | some g => (blocks.filter fun b => !r.recalled.contains b).foldl (fun (s : State) b => s.sendRecall (homeOf g) g 0 0 b) s

/-- The regions of a host write of which other packages hold copies, or for which the write has asked them to be invalidated (R74). -/
def State.hostRegions (s : State) (r : HostReq) : List Nat :=
  if r.bytes.isNone || r.fn != 0 then []
  else ((hostPieces r.addr r.len).filterMap fun x => match apertureOf x.1 with
    | .hbm _ =>
      let g := regionOf (s.ownAddr x.1)
      match tget (s.base (homeOf g)).dir g with
      | none => none
      | some e => if e.holders.filter (· != s.pkg.id) = [] ∧ e.writer = none then none else some g
    | _ => none).eraseDups

/-- What a host write waits for in a region: the writer there, and the invalidations that are not acknowledged. -/
def State.writerAt (s : State) (g : Nat) : Option (Option Packet) × List Nat :=
  match tget (s.base (homeOf g)).dir g with
  | none => (none, [])
  | some e => (e.writer, e.stale)

/-- The copies of a region of a host write asked to be invalidated, unless a writer is there already (R74). [DEDUCED, log entry 43] -/
def State.hostAsk (s : State) (g : Nat) : State :=
  match tget (s.base (homeOf g)).dir g with
  | none => s
  | some e => if e.writer ≠ none then s else s.askCopies (homeOf g) g e none (e.holders.filter (· != s.pkg.id))

/-- Whether a line of a host access is locked by the read-modify-write of a sealed page (R325). -/
def State.hostLocked (s : State) (r : HostReq) : Bool :=
  (hostPieces r.addr r.len).any fun x => match apertureOf x.1 with
    | .mmio _ _ | .none => false
    | _ => s.mem.locks.any fun l => l.1 == s.ownAddr x.1 / 64

/-- The host's accesses performed in the order they were issued, up to the first that has to wait for a recall, an invalidation or a lock (R74,
R75, R325). [DESIGN CHOICE, log entry 29] -/
def State.runHost : Nat → State → State
  | 0, s => s
  | n + 1, s =>
    match s.pkg.hostq with
    | [] => s
    | r :: t =>
      if s.hostLocked r then s else
      let blocks := s.hostBlocks r
      let mine := s.hostRegions r
      if blocks ≠ [] then
        let s := s.hostRecall r blocks
        { s with pkg := { s.pkg with hostq := { r with recalled := blocks } :: t } }
      else if mine.all fun g => s.writerAt g == (some none, []) then
        let s := { s with pkg := { s.pkg with hostq := t } }.hostPerform r
        State.runHost n (mine.foldl (fun (s : State) g => s.endWriter (homeOf g) g) s)
      else mine.foldl State.hostAsk s

/-- A host access taken up behind those that wait (R75). -/
def State.hostAccess (s : State) (r : HostReq) : State :=
  let s := { s with pkg := { s.pkg with hostq := s.pkg.hostq ++ [r] } }
  State.runHost s.pkg.hostq.length s

/-- HOST_WRITE (R75, R91). [DESIGN CHOICE, log entry 29] -/
def execHostWrite (fn addr : Nat) (bytes : List Byte) (s : State) : Outcome :=
  .next (s.hostAccess { fn := fn, addr := addr, len := bytes.length, bytes := some bytes })

/-- HOST_READ (R75). [DESIGN CHOICE, log entry 29] -/
def execHostRead (fn addr len : Nat) (s : State) : Outcome :=
  .next (s.hostAccess { fn := fn, addr := addr, len := len, bytes := none })

/-- A line of an on-chip array scrubbed (R91, R394). [DEDUCED, log entry 28] -/
def State.scrubLine (s : State) (sock line : Nat) : State := s.foundBad sock (line * 64)

/-- The socket of the die whose on-chip array holds a line of the memory list: a team memory, a scratchpad, or the memory-side cache that holds a peer's line. -/
def arraySock (line : Nat) : Option Nat :=
  if peerKey 0 ≤ line * 64 then some (stackOf ((line * 64 - peerKey 0) % 2 ^ 44))
  else match apertureOf (line * 64) with
    | .pad k _ => some (16 + k)
    | .team c _ => some (16 + c / 64)
    | _ => none

/-- Lines with an error that a scrub read corrects, written back corrected, each with its record of SEV 0 (R394): no value changes. [DEDUCED, log entry 28] -/
def State.correct (s : State) (sock : Nat) (mine : Nat → Bool) : State :=
  let found := s.mem.weak.filter mine
  let s := { s with mem := { s.mem with weak := s.mem.weak.filter fun l => !mine l } }
  found.foldl (fun (s : State) l => s.errlog sock 0xFF 0 8 0 0 (l * 64 % 2 ^ 64)) s

/-- SCRUB_ARRAYS (R394): the arrays of a die, which are a compute die's team memories and scratchpad, and a base die's memory-side cache and combining table.
Uncorrectable lines of a compute die's memories are found as a read finds them; an uncorrectable line of a cache, or echo record, is logged. [DEDUCED, log
entry 28] -/
def execScrubArrays (sock : Nat) (s : State) : Outcome :=
  let mine (l : Nat) : Bool := arraySock l == some sock
  let s := s.correct sock mine
  let s := (s.mem.bad.filter mine).foldl (fun (s : State) l =>
    if sock < 16 then s.errlog sock 0xFF 1 8 (cMEMUE + 256) 0 (l * 64 % 2 ^ 64) else s.scrubLine sock l) s
  .next (if sock < 16 then (s.base sock).echoBad.foldl (fun (s : State) i => s.errlog sock 0xFF 1 4 cATOMLOST 0 i) s else s)

/-- SCRUB_DRAM (R394): corrected words are written back, and every uncorrectable line of the stack is logged; it stays marked, so that a read raises MEMUE. -/
def execScrubDram (sock : Nat) (s : State) : Outcome :=
  let mine (l : Nat) : Bool := apertureOf (l * 64) == .hbm sock
  let s := s.correct sock mine
  .next ((s.mem.bad.filter mine).foldl (fun (s : State) l => s.errlog sock 0xFF 1 8 (cMEMUE + 256) 0 (l * 64)) s)

end Sys2Proof.Machine
end

