-- ==== Sys2Proof/Machine/Width.lean ====
section
/-!
DEFINITION. CONVERGE, SPLIT and FUSE (R115 to R121).
-/
namespace Sys2Proof.Machine

/-- Whether two splits stand at one word (R115, R117). -/
def Split.sameWord (a b : Split) : Bool := a.incl == b.incl && a.pc == b.pc && a.mvalid == b.mvalid && a.midx == b.midx

/-- Every split of the gang's table waits at the issuing split's word, and the overflow area is empty (R115, R117); a handler has no
overflow area (R127). -/
def Issue.gathered (c : Issue) : Bool :=
  (c.g.ovf == 0 || c.g.inHandler) && (List.range 4).all fun i => i == c.idx || match c.g.split i with
    | none => true
    | some o => o.sameWord c.sp && o.hold == .converge

/-- The taking-part lanes of every split of the table. -/
def Gang.allActive (g : Gang) : List Nat :=
  (List.range g.width).filter fun i => (g.lane i).live && (g.lane i).takes && g.splits.any fun o => match o with
    | some sp => sp.mask.getLsbD i
    | none => false

/-- The lanes of every split of the table. -/
def Gang.allMask (g : Gang) : BitVec 64 := g.splits.foldl (fun m o => match o with | some sp => m ||| sp.mask | none => m) 0

/-- CONVERGE (R115): one split of all, in the lowest entry; inside a microprogram it goes on with the position and the parameters of the split that issues
last. [DESIGN CHOICE, log entry 13] -/
def execConverge (s : State) : Outcome :=
  gangWord .converge s fun c =>
    if !c.gathered then .wait (s.hold c .converge)
    else
      let first := ((List.range 4).find? fun i => (c.g.split i).isSome).getD c.idx
      let sp := { c.sp with mask := c.g.allMask, hold := .run }
      let g := { c.g with splits := (List.replicate 4 none).set first (some sp) }
      .went ((s.put c (g.dropLatch c.g.allActive)).advance c.key first 1)

/-- The lowest free gang identifiers of a core (R117, R405). -/
def State.freeIds (s : State) (core : Nat) : List Nat := (List.range 64).filter fun i => (s.gang (gangKey core i)).isNone

/-- Part j of a gang divided to width w, with the identifier it takes (R117): `sp` is the position after SPLIT. Failures that no wait has delivered stay
with part 0, with the lane numbers they had, and every part's counters start at 0 (R120); so does what an ended program left in MROW, MCOL, MDEP and MSTAT. [DESIGN CHOICE, log entries 14 and 16] -/
def Gang.part (g : Gang) (sp : Split) (w j id : Nat) : Gang :=
  let g := g.settled
  let lanes := (g.lanes.drop (j * w)).take w
  let live := maskOf ((List.range w).filter fun i => (lanes.getD i {}).live)
  { g with
    id := id
    width := w
    slice := g.slice + j * (w / 4)
    lanes := lanes
    splits := [if live = 0 then none else some { sp with mask := live }, none, none, none]
    accn := if j = 0 then g.accn else 0
    propn := if j = 0 then g.propn else 0
    arv := if j = 0 then g.arv else []
    failures := if j = 0 then g.failures else []
    ctrs := if j = 0 then g.ctrs else []
    mrow := if j = 0 then g.mrow else 0
    mcol := if j = 0 then g.mcol else 0
    mdep := if j = 0 then g.mdep else 0
    mstat := if j = 0 then g.mstat else 0 }

/-- The parts of a gang placed on its core (R117): the slice contexts of a part without a live lane stay with the team, those of part 0 after its end too. -/
def State.placeParts (s : State) (g : Gang) (sp : Split) (w : Nat) : State :=
  let n := g.width / w
  let hasLive (j : Nat) : Bool := ((g.lanes.drop (j * w)).take w).any (·.live)
  let ids := s.freeIds g.core
  let js := (List.range n).filter fun j => j != 0 && hasLive j
  let s := s.setGang g.key (g.part sp w 0 g.id)
  let s := (js.zip ids).foldl (fun s (x : Nat × Nat) => s.setGang (gangKey g.core x.2) (g.part sp w x.1 x.2)) s
  let lost := ((List.range n).filter fun j => !hasLive j).flatMap fun j =>
    (List.range (w / 4)).map fun k => (g.level, g.slice + j * (w / 4) + k)
  match s.team g.teamKey with
  | none => s
  | some t => s.setTeam g.teamKey { t with orphans := t.orphans ++ lost }

/-- SPLIT (R117). -/
def execSplit (d : Opnd) (w : BitVec 8) (s : State) : Outcome :=
  gangWord (.split d w) s fun c =>
    match c.check [(.dst false, d)] with
    | some t => .trap t
    | none =>
      let w := w.toNat
      if c.g.inHandler || c.g.width ≤ w then .trap illOpnd
      else if c.g.proposal.isSome then .trap shadowErr
      else if !c.gathered || !c.g.drained then .wait (s.hold c .converge)
      else
        let all := c.g.allActive
        let needed := ((List.range (c.g.width / w)).filter fun j =>
          j != 0 && ((c.g.lanes.drop (j * w)).take w).any (·.live)).length
        if (s.freeIds c.g.core).length < needed then
          let g := c.g.mapLanes all fun _ => c.g.res32 d 1
          .went ((List.range 4).foldl (fun s i => if (c.g.split i).isSome then s.advance c.key i 1 else s) (s.put c g))
        else .went (s.placeParts (c.g.mapLanes all fun _ => c.g.res32 d 0) (c.sp.next 1) w)

/-- Whether a slice context of the gang's buddy range belongs to another team (R118). -/
def State.buddyForeign (s : State) (g : Gang) : Bool :=
  let lo := g.buddySlice
  let n := g.width / 4
  s.gangs.any (fun x => x.2.onSlices g.core g.level lo n && x.2.teamKey != g.teamKey)
    || s.teams.any fun t => t.1 != g.teamKey && t.2.core == g.core
      && t.2.orphans.any fun o => o.1 == g.level && decide (lo ≤ o.2) && decide (o.2 < lo + n)

/-- Whether a FUSE has waited FUSETMO cycles for its buddy (R118). -/
def Hold.overdue (tmo : Word) (now : DWord) : Hold → Bool
  | .fuse t _ => decide (tmo.toNat ≤ (now - t).toNat)
  | _ => false

/-- The gang of the same width in the buddy range that waits in FUSE, with its D (R118). -/
def State.buddy (s : State) (g : Gang) : Option (Nat × Gang × Nat × Split × Opnd) :=
  s.gangs.findSome? fun x =>
    let o := x.2
    if o.core = g.core ∧ o.level = g.level ∧ o.slice = g.buddySlice ∧ o.width = g.width ∧ o.teamKey = g.teamKey ∧ !o.frozen then
      (List.range 4).findSome? fun i => match o.split i with
        | some sp => match sp.hold with
          | .fuse _ d => if sp.hold.overdue o.fuseTmo (s.cycle o.core) then none else some (x.1, o, i, sp, d)
          | _ => none
        | none => none
    else none

/-- The status of FUSE's own checks, in their order (R118). -/
def State.fuseCheck (s : State) (g : Gang) : Option Word :=
  if g.width = 64 then some 4
  else if 1 < g.splitCount || 0 < g.ovf then some 2
  else if g.proposal.isSome then some 7
  else if s.buddyForeign g then some 5
  else if !s.buddyLive g then some 1
  else none

/-- The status of the checks that follow a pairing (R118). -/
def pairCheck (a b : Gang) : Option Word :=
  if 1 < a.splitCount || 0 < a.ovf || 1 < b.splitCount || 0 < b.ovf then some 2
  else if a.vb != b.vb || a.tb != b.tb || a.ab != b.ab || a.regBytes != b.regBytes then some 3
  else if a.proposal.isSome || b.proposal.isSome then some 7
  else none

/-- A gang whose taking-part lanes receive a FUSE status. -/
def Gang.fuseStatus (g : Gang) (sp : Split) (d : Opnd) (v : Word) : Gang := g.mapLanes (g.active sp) fun _ => g.res32 d v

/-- Whether two splits stand at one position, the parameters of a microprogram included (R119, R403). -/
def Split.samePlace (a b : Split) : Bool := a.sameWord b && a.widx == b.widx && (!a.mvalid || a.mparams == b.mparams)

/-- The two splits of a fused gang (R119): equal clause positions are one entry. -/
def fuseSplits (lo hi : Option Split) (w : Nat) : List (Option Split) :=
  let hi := hi.map fun sp => { sp with mask := sp.mask <<< w }
  match lo, hi with
  | some a, some b =>
    if a.samePlace b && a.incl then [some { a with mask := a.mask ||| b.mask }, none, none, none]
    else [lo, hi, none, none]
  | some _, none => [lo, none, none, none]
  | none, _ => [hi, none, none, none]

/-- The fused gang (R119, R120): `a` lies on the lower slices, and the counters of both have drained to 0. Failures that no wait has delivered go on, the upper gang's under its lanes' new numbers, and
MROW, MCOL, MDEP and MSTAT of an ended program are the lower gang's. [DESIGN CHOICE, log entries 14 and 16] -/
def fuseGangs (a b : Gang) (sa sb : Option Split) : Gang :=
  let a := a.settled
  let b := b.settled
  { a with
    width := 2 * a.width
    lanes := a.lanes ++ b.lanes
    splits := fuseSplits sa sb a.width
    fpflags := a.fpflags ||| b.fpflags
    accn := a.accn + b.accn
    propn := a.propn + b.propn
    batch := if a.batch < b.batch then b.batch else a.batch
    wbatch := if a.wbatch < b.wbatch then b.wbatch else a.wbatch
    waited := a.waited ++ b.waited.filter fun n => !a.waited.contains n
    ctrs := b.ctrs.foldl (fun t x => tput t x.1 (tgetD t x.1 0 + x.2)) a.ctrs
    failures := a.failures ++ b.failures.map fun f => { f with mask := f.mask <<< a.width }
    service := a.service || b.service }

/-- The machine with two gangs joined (R119). -/
def State.joinGangs (s : State) (a b : Gang) (sa sb : Option Split) : State :=
  let core := s.core a.core
  let s := match core.nest with
    | some n => if n.gang = b.id then s.setCore a.core { core with nest := some { n with gang := a.id } } else s
    | none => s
  let s := { s with gangs := tdel s.gangs b.key }
  let s := s.setGang a.key (fuseGangs a b sa sb)
  let s := match sa with
    | some sp => if sp.incl then s else s.arrive a.key 0
    | none => s
  match sb with
  | some sp => if sp.incl then s else s.arrive a.key 1
  | none => s

/-- FUSE (R118). -/
def execFuse (d : Opnd) (s : State) : Outcome :=
  gangWord (.fuse d) s fun c =>
    match c.check [(.dst false, d)] with
    | some t => .trap t
    | none =>
      let status (v : Word) : Fate := .done (s.put c (c.g.fuseStatus c.sp d v))
      if c.g.inHandler then .trap illOpnd
      else match c.sp.hold with
        | .fuseTmo => status 6
        | .fuseGone => status 1
        | h =>
          if h.overdue c.g.fuseTmo (s.cycle c.g.core) then status 6
          else match s.fuseCheck c.g with
          | some v => status v
          | none =>
            if !c.g.drained then .wait (s.hold c .wait)
            else match s.buddy c.g with
              | none =>
                if c.g.fuseTmo = 0 then status 6
                else match c.sp.hold with
                  | .fuse _ _ => .wait s
                  | _ => .wait (s.hold c (.fuse (s.cycle c.g.core) d))
              | some (bkey, b, bi, bsp, bd) =>
                match pairCheck c.g b with
                | some v => .done ((((s.put c (c.g.fuseStatus c.sp d v)).setGang bkey (b.fuseStatus bsp bd v))).advance bkey bi 1)
                | none =>
                  let a := c.g.fuseStatus c.sp d 0
                  let b := b.fuseStatus bsp bd 0
                  let sa := some (c.sp.next 1)
                  let sb := some (bsp.next 1)
                  .went (if a.slice < b.slice then s.joinGangs a b sa sb else s.joinGangs b a sb sa)

/-- FUSETMO_EXPIRY (R118): a FUSE has waited FUSETMO cycles for its buddy. -/
def execFusetmoExpiry (gang entry : Nat) (s : State) : Outcome :=
  match s.gang gang with
  | none => .next s
  | some g =>
    match g.split entry with
    | none => .next s
    | some sp =>
      .next (if sp.hold.overdue g.fuseTmo (s.cycle g.core) && !g.frozen
        then s.setGang gang (g.setSplit entry (some { sp with hold := .fuseTmo })) else s)

end Sys2Proof.Machine
end

