-- ==== Sys2Proof/Machine/Launch.lean ====
section
/-!
DEFINITION. Launches (R99 to R106, R128, R129, R370, R378 to R383, R388, R405): kernel descriptors, bind records, the placement of teams,
completion, and launch graphs.
-/
namespace Sys2Proof.Machine

/-- The fields of a kernel descriptor (R380). -/
def kernelOf (b : List Byte) : Kernel :=
  let f (off n : Nat) : Nat := fieldBytes b off n
  { csimg := BitVec.ofNat 64 (f 88 8)
    tvec := BitVec.ofNat 64 (f 80 8)
    code := BitVec.ofNat 64 (f 72 8)
    spBytes := f 68 4
    shared := f 64 4
    regBytes := f 62 2
    vb := BitVec.ofNat 32 (f 60 2)
    tb := BitVec.ofNat 32 (f 58 2)
    ab := BitVec.ofNat 32 (f 56 2)
    width := f 55 1
    gangs := f 54 1
    teams := f 53 1
    logW := f 52 1 % 4
    logH := f 52 1 / 4 % 4
    csfirst := f 51 1
    cscount := f 50 1
    coop := f 49 1 % 2 = 1
    service := f 49 1 / 2 % 2 = 1 }

/-- The entries that a control-store image holds (R380). -/
def Kernel.entries (k : Kernel) : Nat := if k.csimg ≠ 0 ∧ k.cscount = 0 then 256 else k.cscount

/-- An occupied run of slice contexts of a core: level, first slice, slices, register bytes per lane (R104, R105). -/
structure Taken where
  level : Nat
  slice : Nat
  n : Nat
  regs : Nat
  deriving DecidableEq, Repr

/-- Whether a run of slices at a level is free (R104). -/
def runFree (occ : List Taken) (level lo n : Nat) : Bool :=
  occ.all fun t => t.level != level || decide (t.slice + t.n ≤ lo) || decide (lo + n ≤ t.slice)

/-- The register bytes left to a lane of a slice (R105). -/
def regsLeft (occ : List Taken) (slice : Nat) : Nat :=
  3840 - ((occ.filter fun t => decide (t.slice ≤ slice) && decide (slice < t.slice + t.n)).map (·.regs)).sum

/-- The first slice of the lowest aligned run at a level that is free and has the register bytes (R104, R405). [DEDUCED, log entry 31] -/
def findRun (occ : List Taken) (level n regs : Nat) : Option Nat :=
  ((List.range 32).filter fun lo => lo % n == 0).find? fun lo =>
    runFree occ level lo n && (List.range n).all fun j => decide (regs ≤ regsLeft occ (lo + j))

/-- The level and first slice that a gang takes (R405). -/
def findPlace (occ : List Taken) (n regs : Nat) : Option (Nat × Nat) :=
  (List.range 8).findSome? fun v => (findRun occ v n regs).map fun lo => (v, lo)

/-- The places of a team's gangs, of the given widths, one after another: identifier, level, slice (R405). -/
def placeGangs (regs : Nat) : List Nat → List Taken → List Nat → Option (List (Nat × Nat × Nat) × List Taken × List Nat)
  | [], occ, ids => some ([], occ, ids)
  | w :: ws, occ, ids =>
    match ids with
    | [] => none
    | id :: ids => match findPlace occ (w / 4) regs with
      | none => none
      | some (v, lo) => match placeGangs regs ws (⟨v, lo, w / 4, regs⟩ :: occ) ids with
        | none => none
        | some (ps, occ', ids') => some ((id, v, lo) :: ps, occ', ids')

/-- Whether a number of teams fit on an empty core (R105, R129, R405). -/
def teamsFit (k : Kernel) : Nat → List Taken → List Nat → Bool
  | 0, _, _ => true
  | t + 1, occ, ids =>
    match placeGangs k.regBytes (List.replicate k.gangs k.width) occ ids with
    | none => false
    | some (_, occ', ids') => teamsFit k t occ' ids'

/-- Whether a descriptor keeps the limits of R380 and R381. [DEDUCED, log entry 31] -/
def kernelOk (b : List Byte) (kdesc : DWord) : Bool :=
  let k := kernelOf b
  kdesc.toNat % 128 == 0 && zeroBytes b 0 49 && zeroBytes b 96 32 && decide (fieldBytes b 49 1 < 4) && decide (fieldBytes b 52 1 < 16)
    && k.tvec.toNat % 4 == 0 && k.code.toNat % 4 == 0 && k.csimg.toNat % 4 == 0
    && decide (128 ≤ k.spBytes) && decide (k.spBytes ≤ 2 ^ 20) && k.spBytes % 64 == 0
    && k.shared % 64 == 0 && decide (k.shared ≤ teamSize)
    && decide (64 ≤ k.regBytes) && decide (k.regBytes ≤ 1024) && k.regBytes % 64 == 0
    && viewOk false 0 (k.vb.setWidth 16) && viewOk false 1 (k.tb.setWidth 16) && viewOk false 2 (k.ab.setWidth 16)
    && [4, 8, 16, 32, 64].contains k.width && decide (1 ≤ k.gangs) && decide (k.gangs ≤ 64) && decide (1 ≤ k.teams) && decide (k.teams ≤ 8)
    && decide (k.teams * k.gangs ≤ 64) && decide (k.teams * k.gangs * (k.width / 4) ≤ 256) && decide (k.teams * k.shared ≤ teamSize)
    && decide (k.csfirst + k.entries ≤ 256) && teamsFit k 1 [] (List.range 64)

/-- Whether a rectangle lies within the package and on the cluster's grid (R101, R102, R381). -/
def rectOk (k : Kernel) (x0 y0 w h : Nat) : Bool :=
  decide (1 ≤ w) && decide (1 ≤ h) && decide (x0 + w ≤ 32) && decide (y0 + h ≤ 16)
    && [x0, w].all (fun v => v % 2 ^ k.logW == 0) && [y0, h].all fun v => v % 2 ^ k.logH == 0

/-- What is occupied on a core: its gangs, and the contexts that a SPLIT left without a gang (R104, R117). -/
def State.taken (s : State) (core : Nat) : List Taken :=
  (s.gangs.filterMap fun x => if x.2.core = core then some ⟨x.2.level, x.2.slice, x.2.width / 4, x.2.regBytes⟩ else none)
    ++ s.teams.flatMap fun t =>
      if t.2.core = core then
        let regs := match tget s.launches t.2.launch.toNat with | some l => l.k.regBytes | none => 0
        t.2.orphans.map fun o => ⟨o.1, o.2, 1, regs⟩
      else []

/-- The lowest free run of a core's team memory of the given size. -/
def State.freeTeamMem (s : State) (core size : Nat) : Option Nat :=
  let used := s.teams.filterMap fun t => if t.2.core = core then some (t.2.base, t.2.base + t.2.shared) else none
  let fits (a : Nat) : Bool := decide (a + size ≤ teamSize) && used.all fun u => decide (u.2 ≤ a) || decide (a + size ≤ u.1)
  let starts := (0 :: used.map (·.2)).filter fits
  match starts with
  | [] => none
  | a :: t => some (t.foldl min a)

/-- Where a team goes on a core: slot, team-memory offset, places of its gangs (R128, R405). [DEDUCED, log entry 31] -/
def State.fitTeam (s : State) (core : Nat) (k : Kernel) (widths : List Nat) : Option (Nat × Nat × List (Nat × Nat × Nat)) :=
  if (s.core core).inReset || (s.die (coreDie core)).inReset || (s.die (coreDie core)).down then none
  else match (List.range 8).find? fun i => (s.team (teamKey core i)).isNone, s.freeTeamMem core k.shared,
      placeGangs k.regBytes widths (s.taken core) (s.freeIds core) with
    | some slot, some base, some (ps, _, _) => some (slot, base, ps)
    | _, _, _ => none

/-- A gang as the front end starts it (R103, R106, R188): everything zero, one split of every lane at the kernel's first clause. -/
def newGang (core slot ctx : Nat) (launch : Word) (k : Kernel) (args : DWord) (w : Nat) (p : Nat × Nat × Nat) : Gang :=
  let g : Gang := {
    core := core
    id := p.1
    team := slot
    ctx := ctx
    launch := launch
    width := w
    slice := p.2.2
    level := p.2.1
    regBytes := k.regBytes
    spBytes := k.spBytes
    vb := k.vb
    tb := k.tb
    ab := k.ab
    tvec := k.tvec
    argBase := args
    service := k.service
    splits := []
    lanes := List.replicate w {} }
  { g with splits := [some (headerAt k.code (maskOf (List.range w))), none, none, none] }

/-- A gang that a restore enters at PVEC (R88, R383): its interrupted table is empty until XRSTR fills it. [DEDUCED, log entry 19] -/
def Gang.restored (g : Gang) (pvec : DWord) : Gang :=
  let g := { g with splits := [none, none, none, none] }
  { (g.enter pvec (some 3) none) with
    trapCode := BitVec.ofNat 32 cPREEMPT
    trapPc := 0
    trapMask := maskOf (List.range g.width)
    trapArg := 3
    trapSplit := 0 }

/-- The launch's control-store image loaded into a core before the kernel's first team starts there, and before the first gang of a restore resumes on a
core that holds no team of the launch (R380, R198). -/
def State.loadControl (s : State) (id core : Nat) (restore : Bool) : State :=
  match tget s.launches id with
  | none => s
  | some l =>
    let here := s.teams.any fun t => t.2.core == core && t.2.launch.toNat == id
    if l.loaded.contains core && (here || !restore) then s
    else
      let c := s.core core
      let store := l.image.zipIdx.foldl (fun t (x : List Word × Nat) => tput t (l.k.csfirst + x.2) x.1) c.control
      { (s.setCore core { c with control := store }) with
        launches := tput s.launches id { l with loaded := core :: l.loaded.filter (· != core) } }

/-- The team memory of a new team zeroed, its barrier tags cleared, its lines tagged with the context (R91, R106). -/
def State.claimTeamMem (s : State) (core base size ctx : Nat) : State :=
  let lo := teamBase core + base
  let m := s.mem.wipe lo (lo + size)
  { s with mem := (List.range (size / 64)).foldl (fun (m : Mem) i => m.own (lo + 64 * i) (some ctx)) m }

/-- A team started on a core (R103, R106, R128): as the kernel starts it, or restored with the gangs of the given widths, each entering at PVEC (R98). No
line of the core's L1 outlives the start: the kernel sees what its packet's WAITSIG has acquired (R373). [DEDUCED, log entries 24 and 31] -/
def State.startTeam (s : State) (id : Nat) (l : Launch) (core tslot : Nat) (widths : List Nat) (restore : Bool)
    (place : Nat × Nat × List (Nat × Nat × Nat)) : State :=
  let (slot, base, ps) := place
  let t : Team := {
    core := core
    slot := slot
    tslot := tslot
    ctx := l.ctx
    launch := BitVec.ofNat 32 id
    base := base
    shared := l.k.shared
    dx := (coreX core + 256 - l.x0) % 256
    dy := (coreY core + 256 - l.y0) % 256
    logW := l.k.logW
    logH := l.k.logH }
  let s := (s.loadControl id core restore).claimTeamMem core base l.k.shared l.ctx
  let s := (s.dropL1 core).setTeam (teamKey core slot) t
  let pvec := (s.ctx l.ctx).pvec
  (widths.zip ps).foldl (fun (s : State) (x : Nat × Nat × Nat × Nat) =>
    let g := newGang core slot l.ctx (BitVec.ofNat 32 id) l.k l.args x.1 x.2
    if restore then
      let g := g.restored pvec
      ((s.setGang g.key g).trapTrace g).preemptTrace l.ctx g.die 0 (coreNum core) 2 (BitVec.ofNat 32 id)
    else s.setGang g.key g) s

/-- The core and the slot of record-local team index i of a record (R382). [DEDUCED, log entry 19] -/
def recTeam (r : BindRec) (i : Nat) : Nat × Nat :=
  let c := i / r.tpc
  (coreAt (r.x + c % r.w) (r.y + c / r.w), i % r.tpc)

/-- An entry of a context's table at SAVEMAP: 32 bytes, entry k at SAVEMAP + 32 × k, up to the first one whose byte 0 is zero. Byte 0 is 3 in a removed team's
bind record, as R382 lays it out, and 4 in a saved gang's entry, with GANGID in byte 1, its width in byte 2, TEAMID in bytes 7:4 and LAUNCHID in
bytes 15:12. The entries below `n`, the address of the first free one, and the access that failed. [DESIGN CHOICE, log entry 19] -/
def State.saveTable (s : State) (die c : Nat) : Nat → DWord → List (List Byte) × DWord × Option (Nat × Nat)
  | 0, a => ([], a, none)
  | n + 1, a => match s.vread die c a 32 with
    | .error e => ([], a, some e)
    | .ok b =>
      if fieldBytes b 0 1 = 0 then ([], a, none)
      else
        let r := s.saveTable die c n (a + 32)
        (b :: r.1, r.2)

/-- A context's table at SAVEMAP as a die reads it; no table where SAVEMAP is 0. [DESIGN CHOICE, log entry 19] -/
def State.saved (s : State) (die c : Nat) : List (List Byte) × DWord × Option (Nat × Nat) :=
  let a := (s.ctx c).saveMap
  if a = 0 then ([], 0, none) else s.saveTable die c 65536 a

/-- The saved gangs that entries of a table name: launch, team identity, gang identifier, width (R193). [DESIGN CHOICE, log entry 19] -/
def savedGangsOf (es : List (List Byte)) : List (Word × Nat × Nat × Nat) :=
  (es.filter fun b => fieldBytes b 0 1 == 4).map fun b =>
    (BitVec.ofNat 32 (fieldBytes b 12 4), fieldBytes b 4 4, fieldBytes b 1 1, fieldBytes b 2 1)

/-- The saved gangs of a team that a restore record places (R193): their identity and their widths by gang identifier. The driver's table names them, or,
where it names none of the launch, what the machine has saved; where neither does, the gangs are the kernel's. [DEDUCED, log entry 19] -/
def State.savedTeam (s : State) (die ctx : Nat) (launch : Word) (ident : Nat) : Option Nat × List Nat :=
  let ofLaunch (l : List (Word × Nat × Nat × Nat)) := l.filter fun (x : Word × Nat × Nat × Nat) => x.1 == launch
  let listed := ofLaunch (savedGangsOf (s.saved die ctx).1)
  let mine := if listed = [] then ofLaunch (s.ctx ctx).savedGangs else listed
  let ids := mine.map fun (x : Word × Nat × Nat × Nat) => x.2.1
  match (if ids.contains ident then some ident else ids.head?) with
  | none => (none, [])
  | some i => (some i, (List.range 64).filterMap fun id =>
      (mine.find? fun (x : Word × Nat × Nat × Nat) => x.2.1 == i && x.2.2.1 == id).map fun (x : Word × Nat × Nat × Nat) => x.2.2.2)

/-- The saved gangs of a team struck from what the machine has saved. -/
def State.dropSaved (s : State) (ctx : Nat) (launch : Word) (ident : Option Nat) : State :=
  match ident with
  | none => s
  | some i =>
    let x := s.ctx ctx
    s.setCtx ctx { x with savedGangs := x.savedGangs.filter fun (y : Word × Nat × Nat × Nat) => !(y.1 == launch && y.2.1 == i) }

/-- A slot's record free again, its last team started (R383). -/
def Die.freeRecord (d : Die) (slot : Nat) (r : BindRec) : Die := { d with
  started := tdel d.started slot
  slots := tput d.slots slot { r with state := 0 } }

/-- The next team of a slot's record started where it fits (R383): the record is free when its last team has started, and at once where it covers no
team [DESIGN CHOICE, log entry 31]. A restore waits for the table at SAVEMAP, and with a PVEC of 0 it ends the context (R384). -/
def State.serveRecord (s : State) (die slot : Nat) (r : BindRec) : Option State :=
  match tget s.launches r.launch.toNat with
  | none => none
  | some l =>
    let d := s.die die
    let n := tgetD d.started slot 0
    let (core, tslot) := recTeam r (r.tfirst + n)
    let restore := r.state == 2
    let saved := if restore then
        s.savedTeam die l.ctx r.launch ((coreX core + 256 - l.x0) % 256 + 256 * ((coreY core + 256 - l.y0) % 256) + 65536 * tslot) else (none, [])
    let widths := if saved.2 = [] then List.replicate l.k.gangs l.k.width else saved.2
    if r.tcount = 0 then some (s.setDie die (d.freeRecord slot r))
    else if restore && (s.saved die l.ctx).2.2.any (fun e => e.1 == cWAIT) then none
    else match s.fitTeam core l.k widths with
    | none => none
    | some place =>
      let busy := (widths.zip place.2.2).any fun (x : Nat × Nat × Nat × Nat) =>
        s.umbraTaken (newGang core place.1 l.ctx r.launch l.k l.args x.1 x.2)
      if restore && busy then none
      else if restore && (s.ctx l.ctx).pvec == 0 then some (s.drainFailure l.ctx)
      else
      let s := (s.startTeam r.launch.toNat l core tslot widths restore place).dropSaved l.ctx r.launch saved.1
      let d := s.die die
      some (s.setDie die (if r.tcount ≤ n + 1 then d.freeRecord slot r else { d with started := tput d.started slot (n + 1) }))

/-- The records of a PRIO that dispatch serves, in ascending slot (R383). -/
def Die.servedAt (d : Die) (prio : Nat) : List (Nat × BindRec) := d.slots.filter fun x => x.2.prio % 8 == prio && (x.2.state == 1 || x.2.state == 2)

/-- The records that dispatch serves, in descending PRIO and ascending slot (R383). -/
def Die.served (d : Die) : List (Nat × BindRec) := (List.range 8).flatMap fun p => d.servedAt (7 - p)

/-- A bind record in the lowest free slot of a die's table from a slot on, or `none` where the table is full (R365, R382). -/
def Die.freeSlot (d : Die) (slot : Nat) : Option Nat :=
  let free (k : Nat) : Bool := match tget d.slots k with
    | none => true
    | some r => r.state == 0 || r.state == 3
  if slot < 512 && free slot then some slot else (List.range 512).find? free

/-- A bind record written into a slot (R382). [DEDUCED, log entry 31] -/
def State.putRecord (s : State) (die slot : Nat) (r : BindRec) : State :=
  let d := s.die die
  s.setDie die { d with
    slots := tput d.slots slot r
    started := tdel d.started slot }

/-- BIND_RECORD_WRITE (R382): into the slot, or the lowest free one where that is taken; a full table makes it wait; a record of a context
that drains or ends is withdrawn at once (R387), and a co-operative launch of which no team is left started is admitted anew (R129, R388).
[DEDUCED, log entry 31] -/
def execBindRecordWrite (die slot : Nat) (r : BindRec) (s : State) : Outcome :=
  match (s.die die).freeSlot slot with
  | none => .next (s.push [.bindRecordWrite die slot r])
  | some k =>
    match tget s.launches r.launch.toNat with
    | none => .next (s.putRecord die k r)
    | some l =>
      if s.stopped l.ctx die then .next ((s.putRecord die k { r with state := 3 }).removeTeams l.ctx [(die, { r with state := 3 })])
      else if l.k.coop && r.state == 1 && l.left == l.w * l.h * l.k.teams && !(s.teams.any fun t => t.2.launch == r.launch) then
        .next ({ s with launches := tput s.launches r.launch.toNat { l with waiting := true } }.kick (.teamDispatch (r.launch.toNat / 2 ^ 29)))
      else .next ((s.putRecord die k r).kick (.teamDispatch die))

/-- The teams of a slot's bound record started one after another, or `none` where one does not fit. -/
def State.serveWhole (s : State) (die slot : Nat) : Nat → Option State
  | 0 => some s
  | n + 1 => match tget (s.die die).slots slot with
    | some r => if r.state = 1 then (s.serveRecord die slot r).bind fun t => t.serveWhole die slot n else some s
    | none => none

/-- A launch's record of a die written and its teams started from it at once, or `none` where the table is full or one does not fit (R129, R382). -/
def State.admitRecord (s : State) (x : Nat × BindRec) : Option State :=
  ((s.die x.1).freeSlot 0).bind fun slot => (s.putRecord x.1 slot x.2).serveWhole x.1 slot (x.2.tcount + 1)

/-- A co-operative launch admitted where all its teams fit at once (R129, R382): the covered dies' records are written, and the dispatch serves them before
anything else takes their place. [DEDUCED, log entry 31] -/
def State.admitLaunch (s : State) (id : Nat) (l : Launch) : Option State :=
  (launchRecords id l).foldl (fun (acc : Option State) x => acc.bind fun t => t.admitRecord x)
    (some { s with launches := tput s.launches id { l with waiting := false } })

/-- Whether a die has a record of at least a PRIO whose next team could start now (R383). -/
def State.canServe (s : State) (die prio : Nat) : Bool :=
  (s.die die).served.any fun x => decide (prio ≤ x.2.prio % 8) && (s.serveRecord die x.1 x.2).isSome

/-- The co-operative launches of a PRIO that wait at a receiving die and may be admitted: no covered die's context is stopped, and no other covered die has a
record of that PRIO or a higher one whose team could start first (R129, R382, R383). [DEDUCED, log entry 31] -/
def State.admissible (s : State) (die prio : Nat) : List (Nat × Launch) :=
  s.launches.filter fun x => x.2.waiting && x.1 / 2 ^ 29 == die && x.2.prio % 8 == prio
    && !(coveredDies x.2.x0 x.2.y0 x.2.w x.2.h).any fun k => s.stopped x.2.ctx k || (k != die && s.canServe k prio)

/-- One team started from a record of a PRIO, where one fits, or else a co-operative launch of that PRIO admitted (R383). -/
def State.dispatchAt (s : State) (die prio : Nat) : Option State :=
  match ((s.die die).servedAt prio).findSome? fun x => s.serveRecord die x.1 x.2 with
  | some t => some t
  | none => (s.admissible die prio).findSome? fun x => s.admitLaunch x.1 x.2

/-- What a die's dispatch starts next, in descending PRIO (R383). -/
def State.dispatchOne (s : State) (die : Nat) : Option State := (List.range 8).findSome? fun p => s.dispatchAt die (7 - p)

/-- The removed teams of a context that a die's placement core has still to list, written to the table at SAVEMAP (R384, R387): a line that has to be asked
for is waited for, and a table that cannot be read or written is given up. [DESIGN CHOICE, log entry 19] -/
def State.listRemoved (s : State) (die c : Nat) : State :=
  let x := s.ctx c
  match x.unlisted.find? fun y => y.1 == die with
  | none => s
  | some y =>
    let (_, a, e) := s.saved die c
    let done := { x with unlisted := x.unlisted.erase y }
    let failed (e : Nat × Nat) : State :=
      let t := s.failedAt die c a 32 e
      if e.1 = cWAIT then t else t.setCtx c { done with unlisted := done.unlisted.filter fun z => z.1 != die }
    match e with
    | some e => failed e
    | none => match s.vwrite die c a (bindImage y.2) with
      | .error e => failed e
      | .ok t => ((t.countRange die c a 32).setCtx c done).kick (.teamDispatch die)

/-- What a die's placement core does at SAVEMAP: it lists removed teams, and asks for the table that a restore record needs (R193, R384). -/
def State.readMaps (s : State) (die : Nat) : State :=
  let s := s.ctxs.foldl (fun (s : State) x => s.listRemoved die x.1) s
  (s.die die).served.foldl (fun (s : State) x => match tget s.launches x.2.launch.toNat with
    | some l => match s.saved die l.ctx with
      | (_, a, some e) => if x.2.state = 2 then s.failedAt die l.ctx a 32 e else s
      | _ => s
    | none => s) s

/-- TEAM_DISPATCH (R383): one team at a time; the hardware goes on while teams fit. -/
def execTeamDispatch (die : Nat) (s : State) : Outcome :=
  let s := s.readMaps die
  match s.dispatchOne die with
  | none => .next s
  | some s' => .next (s'.kick (.teamDispatch die))

/-- What a launch comes to when it is decided (R381). -/
inductive Decided where
  | open (l : Launch)
  /-- complete at once as failed, with a code -/
  | failed (code : Nat)
  /-- the descriptor, or the control-store image, cannot be read: where, how many bytes, and why -/
  | unread (va : DWord) (n : Nat) (err : Nat × Nat)
  deriving DecidableEq, Repr

/-- A launch checked (R380, R381). -/
def State.decideLaunch (s : State) (die ctx : Nat) (priv : Bool) (l : Launch) : Decided :=
  match s.vread die ctx l.kdesc 128 with
  | .error e => .unread l.kdesc 128 e
  | .ok b =>
    let k := kernelOf b
    if k.service && !priv then .failed cPRIV
    else if !kernelOk b l.kdesc then .failed cILLOPND
    else if !rectOk k l.x0 l.y0 l.w l.h || (coveredDies l.x0 l.y0 l.w l.h).any (fun d => !(s.ctxRec d ctx).valid) then .failed cPERMFAULT
    else
      let image := if k.csimg = 0 then .ok [] else s.vread die ctx k.csimg (132 * k.entries)
      match image with
      | .error e => .unread k.csimg (132 * k.entries) e
      | .ok img =>
        if k.csimg ≠ 0 ∧ !entriesOk img k.entries then .failed cILLOPND
        else if k.coop && !teamsFit k k.teams [] (List.range 64) then .failed cILLCLAUSE
        else .open { l with
          k := k
          image := if k.csimg = 0 then [] else (List.range k.entries).map (imageEntry img)
          left := l.w * l.h * k.teams
          waiting := k.coop }

/-- The counts of a launch's reads of its descriptor and its control-store image (R290). -/
def State.countLaunch (s : State) (die ctx : Nat) (l : Launch) : State :=
  let s := s.countRange die ctx l.kdesc 128
  if l.k.csimg = 0 then s else s.countRange die ctx l.k.csimg (132 * l.k.entries)

/-- A launch number of a die (R382). [DESIGN CHOICE, log entry 8] -/
def State.nextLaunch (s : State) (die : Nat) : State × Nat :=
  let d := s.die die
  (s.setDie die { d with launchCount := (d.launchCount + 1) % 2 ^ 29 }, die * 2 ^ 29 + d.launchCount)

/-- A checked launch handed to placement (R129, R382). -/
def State.openLaunch (s : State) (id : Nat) (l : Launch) : State :=
  let s := { s with launches := tput s.launches id l }
  if l.waiting then s.kick (.teamDispatch (id / 2 ^ 29))
  else s.push ((launchRecords id l).map fun x => .bindRecordWrite x.1 0 x.2)

/-- The fields of a launch before its descriptor is read. -/
def launchOf (origin : Origin) (ctx : Nat) (tag : Word) (crec : Bool) (sig kdesc args : DWord) (x0 y0 w h prio : Nat) : Launch :=
  { origin := origin
    ctx := ctx
    tag := tag
    crec := crec
    donesig := sig
    kdesc := kdesc
    args := args
    k := kernelOf []
    x0 := x0
    y0 := y0
    w := w
    h := h
    prio := prio
    left := 0 }

/-- The successors of a node (R378). -/
def Node.succs (n : Node) : List Nat := (leWords 2 8 (n.written.drop 48)).filter fun i => i != 0xFFFF

/-- The nodes reachable from some nodes over successors. -/
def Die.reachable (d : Die) : Nat → List Nat → List Nat
  | 0, ns => ns
  | f + 1, ns =>
    let more := ((ns.flatMap fun i => (tgetD d.nodes i {}).succs).eraseDups).filter fun i => !ns.contains i
    if more = [] then ns else Die.reachable d f (ns ++ more)

/-- A node's status and counter set. -/
def State.setNode (s : State) (die i : Nat) (f : Node → Node) : State :=
  let d := s.die die
  s.setDie die { d with nodes := tput d.nodes i (f (tgetD d.nodes i {})) }

/-- Nodes that are not launched: STATUS 4, with their completion records (R379, R385). [DEDUCED, log entry 31] -/
def State.skipNodes (s : State) (die : Nat) (g : Graph) (ns : List Nat) : State :=
  ns.foldl (fun (s : State) i =>
    if (tgetD (s.die die).nodes i {}).status = 0 then s.nodeRecord die g.ctx g.queue i 2 0 0 else s) s

/-- A graph's end once every node of its range has completed or been skipped (R370, R379). -/
def State.endGraph (s : State) (die : Nat) (g : Graph) : State :=
  let d := s.die die
  let nodes := (List.range g.count).map fun i => (tgetD d.nodes (g.first + i) {}).status
  if nodes.any fun v => v == 0 || v == 1 then s
  else
    let failed := nodes.any (· == 3)
    (s.setDie die { d with graphs := d.graphs.erase g }).packetDone die g.queue g.index g.ctx g.tag g.crec g.donesig
      (if failed then 1 else 0) 0 0

/-- A node's launch (R378, R381); a launch that fails at once fails its node, and a SERVICE kernel of an unprivileged queue puts the queue in
ERROR. -/
def State.launchNode (s : State) (die : Nat) (g : Graph) (i : Nat) : State × Bool :=
  let b := (tgetD (s.die die).nodes i {}).written
  let f (off n : Nat) : Nat := fieldBytes b off n
  let (s, id) := s.nextLaunch die
  let l := launchOf (.node die i g.queue g.index) g.ctx 0 false 0 (BitVec.ofNat 64 (f 0 8)) (BitVec.ofNat 64 (f 16 8))
    (f 32 1) (f 33 1) (f 34 1) (f 35 1) (f 36 1)
  let failed (s : State) (code : Nat) : State := s.nodeRecord die g.ctx g.queue i 1 code (BitVec.ofNat 32 id)
  match s.decideLaunch die g.ctx (s.queue die g.queue).priv l with
  | .open l =>
    let s := s.countLaunch die g.ctx l
    (((s.setNode die i fun n => { n with status := 1 }).nodeTrace die g.ctx i 1 (BitVec.ofNat 32 id)).openLaunch id l, true)
  | .failed code =>
    let s := failed s code
    (if code = cPRIV then s.queueError die g.queue 3 else s, false)
  | .unread va n e =>
    let s := s.failedAt die g.ctx va n e
    (if e.1 = cWAIT then s else failed s cPERMFAULT, false)

/-- Nodes launched in order; those that fail at once, and what depends on them, do not run (R379). -/
def State.launchNodes (s : State) (die : Nat) (g : Graph) (ns : List Nat) : State :=
  ns.foldl (fun (s : State) i =>
    if (tgetD (s.die die).nodes i {}).status ≠ 0 then s
    else
      let r := s.launchNode die g i
      if r.2 then r.1
      else
        let d := r.1.die die
        r.1.skipNodes die g ((d.reachable 4096 [i]).filter (· != i))) s

/-- A node's completion in its graph (R378, R379): successors' counters fall, and those at 0 are launched; after a failure everything
reachable is skipped. [DEDUCED, log entry 31] -/
def State.nodeDone (s : State) (die i : Nat) (failed : Bool) : State :=
  let d := s.die die
  match d.graphs.find? fun g => decide (g.first ≤ i) && decide (i < g.first + g.count) with
  | none => s
  | some g =>
    if failed then (s.skipNodes die g ((d.reachable 4096 [i]).filter (· != i))).endGraph die g
    else
      let succs := (tgetD d.nodes i {}).succs
      let s := succs.foldl (fun (s : State) j => s.setNode die j fun n => { n with counter := n.counter - 1 }) s
      let ready := (succs.eraseDups).filter fun j => (tgetD (s.die die).nodes j {}).counter == 0
      (s.launchNodes die g ready).endGraph die g

/-- LAUNCH_COMPLETE (R370, R378, R385): every team has ended. -/
def execLaunchComplete (die launch : Nat) (s : State) : Outcome :=
  match tget s.launches launch with
  | none => .next s
  | some l =>
    if l.left ≠ 0 || launch / 2 ^ 29 != die then .next s
    else
      let s := { s with launches := tdel s.launches launch }
      match l.origin with
      | .packet d q index => .next (s.packetDone d q index l.ctx l.tag l.crec l.donesig l.status l.code (BitVec.ofNat 32 launch))
      | .node d i q _ => .next ((s.nodeRecord d l.ctx q i l.status l.code (BitVec.ofNat 32 launch)).nodeDone d i (l.status != 0))

end Sys2Proof.Machine
end

