-- ==== Sys2Proof/Machine/Front.lean ====
section
/-!
DEFINITION. The packet processor (R369 to R377): packets and their checks, lending, selection, and the groups of a step.
-/
namespace Sys2Proof.Machine

/-- Whether a packet keeps the limits of R369 and R370. -/
def packetOk (b : List Byte) : Bool :=
  let f (off n : Nat) : Nat := fieldBytes b off n
  let type := f 0 1
  decide (type < 8) && decide (f 1 1 < 4) && f 2 2 == 0 && f 8 8 % 16 == 0 &&
    (if type = 0 then zeroBytes b 16 48
    else if type = 1 then f 16 8 % 128 == 0 && decide (f 36 1 < 8) && zeroBytes b 37 27
    else if type = 2 then decide (1 ≤ f 18 2) && decide (f 18 2 ≤ 4096) && decide (f 16 2 + f 18 2 ≤ 4096) && zeroBytes b 20 44
    else if type = 3 then f 16 8 % 16 == 0 && decide (f 32 1 < 4) && zeroBytes b 33 7 && zeroBytes b 48 16
    else if type = 4 then f 16 8 % 16 == 0 && decide (f 32 1 < 3) && zeroBytes b 33 31
    else if type = 5 then zeroBytes b 24 40
    else if type = 6 then f 16 8 % 8 == 0 && zeroBytes b 24 40
    else decide (1 ≤ f 16 1) && decide (f 16 1 ≤ 3) && zeroBytes b 17 47)

/-- The order in which the groups of a step run (R374). -/
def groupTypes : List Nat := [4, 3, 7, 6, 5, 2, 1, 0]

/-- Where the packet at READ of a queue lies (R366). -/
def Queue.place (x : Queue) : DWord := x.base + BitVec.ofNat 64 (64 * (x.read % 2 ^ x.logsize))

/-- The packet at READ of a queue (R366). -/
def State.packetAt (s : State) (die : Nat) (x : Queue) : Except (Nat × Nat) (List Byte) := s.vread die x.ctx x.place 64

/-- A fault of a queue's own access, with what it leaves: cause FAULT (R368, R371). -/
def State.queueFault (s : State) (die q : Nat) (e : Nat × Nat) : State := if e.1 = cWAIT then s else s.queueError die q 4

/-- Whether the context's ring holds back a LAUNCH, GRAPH or COPY (R385). -/
def State.ringFull (s : State) (die ctx : Nat) : Bool :=
  let r := s.ctxRec die ctx
  r.retrying || r.compFull || r.waiting != []

/-- The condition of a WAITSIG on the object's value (R370). -/
def sigHolds (cond : Nat) (v cmp : DWord) : Bool :=
  if cond = 0 then v == cmp else if cond = 1 then v != cmp else if cond = 2 then v.slt cmp else !v.slt cmp

/-- The value of the signal object of a packet (R372). -/
def State.sigValue (s : State) (die ctx : Nat) (b : List Byte) : Except (Nat × Nat) DWord :=
  match s.vread die ctx (BitVec.ofNat 64 (fieldBytes b 16 8)) 8 with
  | .error e => .error e
  | .ok bs => .ok (BitVec.ofNat 64 (ofLeBytes bs))

/-- The queue to which a WAITSIG lends (R372, R377). -/
def State.lender (s : State) (die ctx : Nat) (b : List Byte) : Option Nat :=
  match s.vread die ctx (BitVec.ofNat 64 (fieldBytes b 16 8 + 8)) 8 with
  | .error _ => none
  | .ok bs =>
    let v := BitVec.ofNat 64 (ofLeBytes bs)
    if bit v 63 && bits v 11 3 == die then some (bits v 0 11) else none

/-- Whether a running GRAPH overlaps a packet's range (R378). -/
def Die.graphBusy (d : Die) (b : List Byte) : Bool :=
  let first := fieldBytes b 16 2
  let n := fieldBytes b 18 2
  d.graphs.any fun g => decide (g.first < first + n) && decide (first < g.first + g.count)

/-- Whether the packet at READ still has to wait (R367, R374): a packet that cannot be read, or is bad, does not. -/
def State.mustWait (s : State) (die : Nat) (x : Queue) : Bool :=
  match s.packetAt die x with
  | .error _ => false
  | .ok b =>
    let type := fieldBytes b 0 1
    if !packetOk b then false
    else if fieldBytes b 1 1 % 2 = 1 && x.open_ != [] then true
    else if type = 7 then x.open_ != []
    else if type = 3 then
      match s.sigValue die x.ctx b with
      | .error _ => false
      | .ok v => !sigHolds (fieldBytes b 32 1) v (BitVec.ofNat 64 (fieldBytes b 24 8))
    else if type = 1 ∨ type = 5 then s.ringFull die x.ctx
    else if type = 2 then s.ringFull die x.ctx || (s.die die).graphBusy b
    else false


/-- The queues a queue's tickets reach over at most the given number of links, none of them twice (R377). -/
def lendPath (qs : Tab Queue) : Nat → Nat → List Nat → List Nat
  | 0, _, _ => []
  | n + 1, q, seen =>
    match (tget qs q).bind fun x => if x.state = 2 then x.lendsTo else none with
    | none => []
    | some p => if seen.contains p then [] else p :: lendPath qs n p (p :: seen)

/-- LEND of every queue of a die (R377). -/
def Die.lend (d : Die) : Die :=
  let reach := d.queues.map fun (q : Nat × Queue) => (q.2.tickets, lendPath d.queues 4 q.1 [q.1])
  let named := (reach.map (·.2)).flatten.filter fun q => (tget d.queues q).isNone
  { d with queues := (named.foldl (fun (t : Tab Queue) q => tput t q {}) d.queues).map fun (q : Nat × Queue) =>
      let sum := (reach.map fun (r : Nat × List Nat) => if r.2.contains q.1 then r.1 else 0).sum
      (q.1, { q.2 with lend := min sum 65535 }) }

/-- A queue put in its place by ascending (PASS, number). -/
def insertQueue (q : Nat × Nat) : List (Nat × Nat) → List (Nat × Nat)
  | [] => [q]
  | x :: t => if q.1 < x.1 || (q.1 == x.1 && q.2 < x.2) then q :: x :: t else x :: insertQueue q t

/-- The queues that a step decides: up to 32 READY ones of lowest PASS (R376). -/
def Die.lanes (d : Die) : List Nat :=
  ((((d.queues.filter fun q => q.2.state == 1).map fun q => (q.2.pass, q.1)).foldl (fun l q => insertQueue q l) []).take 32).map (·.2)

/-- What a queue's PASS gains for a dispatched packet (R376); tickets of 0 have no stated stride: a free value. [DESIGN CHOICE, log entry 30] -/
def Queue.stride (x : Queue) (free : DWord) : Nat :=
  let e := min (x.tickets + x.lend) 65535
  if e = 0 then free.toNat else 2 ^ 24 / e

/-- A packet dispatched (R374, R376). -/
def State.took (s : State) (die q : Nat) : State :=
  let x := s.queue die q
  let read := x.read + 1
  s.setQueue die q { x with
    read := read
    pass := x.pass + x.stride (Config.freeValue (s.steps * 65536 + q))
    state := if x.state = 1 ∧ read = x.write then 0 else x.state
    waitFrom := none }

/-- A queue blocked at READ (R367); a WAITSIG counts from the first time. -/
def State.block (s : State) (die q : Nat) (sig : Option (Option Nat)) : State :=
  let x := s.queue die q
  s.setQueue die q { x with
    state := 2
    waitFrom := if sig.isNone then none else some (x.waitFrom.getD s.pkg.time)
    lendsTo := sig.getD none }

/-- Whether the packet at READ of a queue is a WAITSIG that no BARRIER holds: the queue waits for its signal (R367, R373). -/
def State.atWaitsig (s : State) (die : Nat) (x : Queue) : Bool :=
  match s.packetAt die x with
  | .error _ => false
  | .ok b => packetOk b && fieldBytes b 0 1 == 3 && (fieldBytes b 1 1 % 2 == 0 || x.open_ == [])

/-- A queue that goes on waiting at its WAITSIG: it counts its timeout from the first time that its signal alone held it, and it lends
to the queue that the signal object names now (R373, R377). -/
def State.waitOn (s : State) (die q : Nat) : State :=
  let x := s.queue die q
  match s.packetAt die x with
  | .error _ => s
  | .ok b => s.block die q (some (s.lender die x.ctx b))

/-- The blocked queues whose wait has ended are READY again; one that still waits for a signal lends anew (R367, R373, R376, R377). -/
def State.retest (s : State) (die : Nat) : State :=
  (s.die die).queues.foldl (fun (s : State) q =>
    let x := s.queue die q.1
    if x.state ≠ 2 then s
    else if !s.mustWait die x then s.readyQueue die q.1
    else if s.atWaitsig die x then s.waitOn die q.1 else s) s

/-- A packet that runs on is recorded as open (R374). -/
def State.openPacket (s : State) (die q index : Nat) : State :=
  let x := s.queue die q
  s.setQueue die q { x with open_ := x.open_ ++ [index] }

/-- A packet with the fields that its completion needs. -/
structure Pk where
  bytes : List Byte
  die : Nat
  q : Nat
  index : Nat
  ctx : Nat
  deriving DecidableEq, Repr

def Pk.f (p : Pk) (off n : Nat) : Nat := fieldBytes p.bytes off n
def Pk.type (p : Pk) : Nat := p.f 0 1
def Pk.tag (p : Pk) : Word := BitVec.ofNat 32 (p.f 4 4)
def Pk.crec (p : Pk) : Bool := p.f 1 1 / 2 % 2 == 1
def Pk.sig (p : Pk) : DWord := BitVec.ofNat 64 (p.f 8 8)
def Pk.addr (p : Pk) : DWord := BitVec.ofNat 64 (p.f 16 8)

/-- A packet dispatched and complete (R369, R370). -/
def State.finishPacket (s : State) (p : Pk) (status code : Nat) (launch : Word) : State :=
  (s.took p.die p.q).packetDone p.die p.q p.index p.ctx p.tag p.crec p.sig status code launch

/-- SETSIG (R370, R373): an atomic, so that a register is an addressing error (R13). -/
def State.doSetsig (s : State) (p : Pk) : State :=
  let val := BitVec.ofNat 64 (p.f 24 8)
  let r := if p.f 32 1 = 0 then s.signalSet p.die p.ctx p.addr val
    else s.signalAdd p.die p.ctx p.addr (if p.f 32 1 = 1 then val else 0 - val)
  match r with
  | .error e => (s.failedSignal p.die p.ctx p.addr e).queueFault p.die p.q e
  | .ok s' => ((s'.countRange p.die p.ctx p.addr 8).finishPacket p 0 0 0).notify

/-- WAITSIG (R370, R373, R377). -/
def State.doWaitsig (s : State) (p : Pk) : State :=
  match s.sigValue p.die p.ctx p.bytes with
  | .error e => (s.failedAt p.die p.ctx p.addr 8 e).queueFault p.die p.q e
  | .ok v =>
    let s := s.countRange p.die p.ctx p.addr 8
    if sigHolds (p.f 32 1) v (BitVec.ofNat 64 (p.f 24 8)) then s.finishPacket p 0 0 0
    else s.block p.die p.q (some (s.lender p.die p.ctx p.bytes))

/-- FENCE (R370): it waits for every earlier packet of the queue. -/
def State.doFence (s : State) (p : Pk) : State :=
  if (s.queue p.die p.q).open_ = [] then s.finishPacket p 0 0 0 else s.block p.die p.q none

/-- STAMP (R370, R371). -/
def State.doStamp (s : State) (p : Pk) : State :=
  match s.vwrite p.die p.ctx p.addr (leBytes 8 s.pkg.time.toNat) with
  | .error e => (s.failedAt p.die p.ctx p.addr 8 e).queueFault p.die p.q e
  | .ok s' => (s'.countRange p.die p.ctx p.addr 8).finishPacket p 0 0 0

/-- COPY (R289, R370, R371): a channel that another context holds makes the packet bad. [DEDUCED, log entry 39] -/
def State.doCopy (s : State) (p : Pk) : State :=
  if s.ringFull p.die p.ctx then s.block p.die p.q none
  else
    let r := s.chainStart p.die p.ctx p.addr [(p.q, p.index, p.tag, p.crec, p.sig)]
    if r.2 then (r.1.took p.die p.q).openPacket p.die p.q p.index else s.queueError p.die p.q 3

/-- Whether the nodes of a range are what a GRAPH asks of them (R378). -/
def Die.graphOk (d : Die) (first n : Nat) : Bool :=
  (List.range n).all fun i =>
    let x := tgetD d.nodes (first + i) {}
    zeroBytes x.written 8 8 && zeroBytes x.written 37 3 && zeroBytes x.written 42 6
      && x.succs.all fun j => decide (first ≤ j) && decide (j < first + n)

/-- GRAPH (R378, R379). -/
def State.doGraph (s : State) (p : Pk) : State :=
  let d := s.die p.die
  let first := p.f 16 2
  let n := p.f 18 2
  if s.ringFull p.die p.ctx || d.graphBusy p.bytes then s.block p.die p.q none
  else if !d.graphOk first n then s.queueError p.die p.q 3
  else
    let g : Graph := ⟨p.q, p.index, p.ctx, first, n, p.tag, p.crec, p.sig⟩
    let s := (s.took p.die p.q).openPacket p.die p.q p.index
    let all := (List.range n).map (first + ·)
    let s := all.foldl (fun (s : State) i => s.setNode p.die i fun x =>
      { x with status := 0, counter := fieldBytes x.written 40 1 }) s
    let d := s.die p.die
    let s := s.setDie p.die { d with graphs := d.graphs ++ [g] }
    let roots := all.filter fun i => (tgetD d.nodes i {}).counter == 0
    let s := if roots = [] then s.skipNodes p.die g all else s.launchNodes p.die g roots
    s.endGraph p.die g

/-- LAUNCH (R370, R371, R381, R382). -/
def State.doLaunch (s : State) (p : Pk) : State :=
  if s.ringFull p.die p.ctx then s.block p.die p.q none
  else
    let l := launchOf (.packet p.die p.q p.index) p.ctx p.tag p.crec p.sig p.addr (BitVec.ofNat 64 (p.f 24 8))
      (p.f 32 1) (p.f 33 1) (p.f 34 1) (p.f 35 1) (p.f 36 1)
    let (t, id) := s.nextLaunch p.die
    match t.decideLaunch p.die p.ctx (s.queue p.die p.q).priv l with
    | .open l => (((t.countLaunch p.die p.ctx l).took p.die p.q).openPacket p.die p.q p.index).openLaunch id l
    | .failed code =>
      if code = cPRIV then
        (t.packetDone p.die p.q p.index p.ctx p.tag p.crec p.sig 1 code (BitVec.ofNat 32 id)).queueError p.die p.q 3
      else t.finishPacket p 1 code (BitVec.ofNat 32 id)
    | .unread va n e =>
      let t := t.failedAt p.die p.ctx va n e
      if e.1 = cWAIT then t else t.finishPacket p 1 cPERMFAULT (BitVec.ofNat 32 id)

/-- One packet of a group decided (R374). -/
def State.decidePacket (s : State) (p : Pk) : State :=
  if (s.queue p.die p.q).state ≠ 1 then s
  else match p.type with
    | 0 => s.finishPacket p 0 0 0
    | 1 => s.doLaunch p
    | 2 => s.doGraph p
    | 3 => s.doWaitsig p
    | 4 => s.doSetsig p
    | 5 => s.doCopy p
    | 6 => s.doStamp p
    | _ => s.doFence p

/-- The packets of a step's lanes: a queue whose packet cannot be read or is bad is in ERROR, and a BARRIER that must wait blocks its
queue (R368, R371, R374). -/
def State.readLanes (s : State) (die : Nat) : List Nat → State × List Pk
  | [] => (s, [])
  | q :: qs =>
    let x := s.queue die q
    match s.packetAt die x with
    | .error e => ((s.failedAt die x.ctx x.place 64 e).queueFault die q e).readLanes die qs
    | .ok b =>
      let s := s.countRange die x.ctx x.place 64
      if !packetOk b then (s.queueError die q 3).readLanes die qs
      else if fieldBytes b 1 1 % 2 = 1 ∧ x.open_ ≠ [] then (s.block die q none).readLanes die qs
      else
        let r := s.readLanes die qs
        (r.1, ⟨b, die, q, x.read, x.ctx⟩ :: r.2)

/-- PACKET_PROCESSOR_STEP (R374, R376, R377). -/
def execPacketProcessorStep (die : Nat) (s : State) : Outcome :=
  let s := s.retest die
  let s := s.setDie die (s.die die).lend
  let r := s.readLanes die (s.die die).lanes
  let s := groupTypes.foldl (fun (s : State) t => (r.2.filter fun p => p.type == t).foldl State.decidePacket s) r.1
  .next (if (s.die die).queues.any fun q => q.2.state == 1 then s.kick (.packetProcessorStep die) else s)

/-- Whether the WAITSIG at which a queue is blocked has passed its timeout (R373). -/
def State.waitExpired (s : State) (die q : Nat) : Bool :=
  let x := s.queue die q
  match x.waitFrom, s.packetAt die x with
  | some t, .ok b => x.state == 2 && fieldBytes b 40 8 != 0 && decide (fieldBytes b 40 8 ≤ (s.pkg.time - t).toNat)
  | _, _ => false

/-- WAITSIG_TIMEOUT (R371, R373): while the condition is false. -/
def execWaitsigTimeout (die queue : Nat) (s : State) : Outcome :=
  let x := s.queue die queue
  let e := match s.packetAt die x with | .error e => e | .ok _ => (0, 0)
  if e.1 = cWAIT then .next (s.failedAt die x.ctx x.place 64 e)
  else if !s.waitExpired die queue then .next s
  else if s.mustWait die x then .next (s.queueError die queue 5)
  else .next (s.kick (.packetProcessorStep die))

/-- COMPLETION_RECORD_RETRY (R385): the oldest waiting record is written again 1 µs after the last failure, and the others behind it. -/
def execCompletionRecordRetry (die ctx : Nat) (s : State) : Outcome :=
  let r := s.ctxRec die ctx
  if !r.retrying || (s.pkg.time - r.failedAt).toNat < 1000 then .next s
  else
    let s := (State.drainCompletions (r.waiting.length + 2) s die ctx).leaveContext ctx
    .next (if (s.ctxRec die ctx).retrying then s else s.kick (.packetProcessorStep die))

end Sys2Proof.Machine
end

