-- ==== Sys2Proof/Machine/Preempt.lean ====
section
/-!
DEFINITION. Pre-emption (R86 to R88, R216, R384, R387): drains, their escalation to a forced save, the entry at PVEC, and drain failures.
-/
namespace Sys2Proof.Machine

/-- The dies that a drain of a context covers and that hold its record. -/
def State.drainDies (s : State) (c : Nat) : List Nat :=
  (List.range 8).filter fun k => s.draining c k && (s.ctxRec k c).valid

/-- The front ends' trace records of a step of a drain, on the dies that it covers. -/
def State.drainTrace (s : State) (c : Nat) (d : Drain) (step : Nat) : State :=
  ((s.drainDies c).filter d.covers).foldl (fun s k => s.preemptTrace c k 5 0 step 0) s

/-- A drain escalated to a forced save (R86, R87): the gangs that it covers stop at their next words. [DEDUCED, log entry 33] -/
def State.escalate (s : State) (c : Nat) (d : Drain) (reason : Nat) : State :=
  let x := s.ctx c
  let s := s.setCtx c { x with drains := x.drains.map fun e => if e = d then { e with escalated := some (reason, s.pkg.time) } else e }
  let s := s.drainTrace c d 1
  s.gangs.foldl (fun s x =>
    if x.2.ctx = c && d.covers x.2.die && x.2.saving.isNone then
      (s.setGang x.1 { x.2 with saving := some reason }).kick (.preemptEntry x.1)
    else s) s

/-- A drain of a context requested (R86, R88, R387): in the whole package, or on one die, beside those in progress. [DEDUCED, log entry 33] -/
def State.startDrain (s : State) (c : Nat) (die : Option Nat) (save : Bool) (mails : List Mail) : State :=
  let x := s.ctx c
  let d : Drain := { die := die, since := s.pkg.time, mails := mails }
  let s := s.setCtx c { x with drains := x.drains ++ [d] }
  let s := (List.range 8).foldl (fun s k => if d.covers k then s.stopQueues k c else s) s
  let s := s.drainTrace c d 0
  let s := if x.immSave then s.escalate c d 1
    else if save then s.escalate c d 2
    else if x.drainLim = 0 then s.escalate c d 0
    else s
  s.checkDrain c

/-- The bound of R87 and R216 on a forced save's waits, in ns: DRAINLIM, or 2,000 µs where that is 0 (R86). -/
def Ctx.bound (x : Ctx) : Nat := 1000 * (if x.drainLim = 0 then 2000 else x.drainLim.toNat)

/-- Whether a drain has run DRAINLIM with teams left, and is not yet escalated (R86). -/
def State.drainOver (s : State) (c : Nat) (d : Drain) : Bool :=
  d.escalated.isNone && s.hasTeams c d.die && decide (1000 * (s.ctx c).drainLim.toNat ≤ (s.pkg.time - d.since).toNat)

/-- DRAINLIM_EXPIRY (R86, R88). [DEDUCED, log entry 33] -/
def execDrainlimExpiry (ctx : Nat) (s : State) : Outcome :=
  let x := s.ctx ctx
  .next ((x.drains.filter (s.drainOver ctx)).foldl (fun s d => s.escalate ctx d (if x.immSave then 1 else 0)) s)

/-- Whether one of an operation's parts is held. -/
def Flight.isHeld (f : Flight) : Bool :=
  f.job.parts.any (·.isHeld) || match f.job with
    | .copy j => j.held.isSome
    | _ => false

/-- Whether a gang has a held access, SIGNAL's included (R216, R224). -/
def State.gangHeld (s : State) (key : Nat) (g : Gang) : Bool :=
  (s.flight.any fun x => x.2.gang == key && x.2.isHeld)
    || g.splits.any fun o => match o with
      | some sp => (match sp.hold with | .fault _ _ _ => true | _ => false)
      | none => false

/-- A split's arrival at a team barrier withdrawn (R87): the count loses its taking-part lanes while the phase stands. -/
def State.withdraw (s : State) (g : Gang) (sp : Split) : State :=
  match sp.hold with
  | .bar k phase =>
    match s.team g.teamKey with
    | none => s
    | some t =>
      let b := tgetD t.bars k {}
      if b.phase ≠ phase then s
      else
        let n := b.count - (g.active sp).length
        s.setTeam g.teamKey { t with bars := tput t.bars k { b with
          count := n
          target := if n = 0 then none else b.target } }
  | _ => s

/-- A loop-nest program of a gang that still runs: asked to freeze at its next tile step (R87, R253). -/
def State.freezeNest (s : State) (g : Gang) : State × Bool :=
  match (s.core g.core).nest with
  | none => (s, false)
  | some n =>
    if n.gang = g.id ∧ n.state = 1 then
      ((s.setCore g.core { s.core g.core with nest := some { n with freeze := true } }).kick (.tileStep g.core), true)
    else (s, false)

/-- PREEMPT_ENTRY (R87, R88, R384): once every operation of the gang has ended and its program is frozen, the gang enters at PVEC; its waits
are withdrawn, a TOKREL's too: executed again after the restore, it finds the token gone and gives 1. [DESIGN CHOICE, log entry 27] -/
def execPreemptEntry (gang : Nat) (s : State) : Outcome :=
  match s.gang gang with
  | none => .next s
  | some g =>
    match g.saving with
    | none => .next s
    | some reason =>
      if g.inHandler || g.pendingTrap.isSome || g.skipping then .next s
      else
        let r := s.freezeNest g
        match (List.range 4).find? fun i => (g.split i).isSome with
        | none => .next r.1
        | some idx =>
          if r.2 || !g.drained || s.gangHeld gang g || s.umbraTaken g then .next r.1
          else if (s.ctx g.ctx).pvec = 0 then .next (s.drainFailure g.ctx)
          else
            let s := g.splits.foldl (fun (s : State) (o : Option Split) => match o with
              | some sp => s.withdraw g sp
              | none => s) s
            let g := { g with
              saving := none
              splits := g.splits.map (Option.map fun (sp : Split) => ({ sp with hold := .run } : Split)) }
            match g.split idx with
            | none => .next s
            | some sp =>
              let g := (g.trapRegs idx sp cPREEMPT 0 (BitVec.ofNat 64 reason) g.live false).enter (s.ctx g.ctx).pvec (some reason) none
              .next (((s.setGang gang g).trapTrace g).preemptTrace g.ctx g.die 0 (coreNum g.core) 2 g.launch)

/-- Whether the bound on a forced save's waits has passed for a context on a die. -/
def State.saveOverdue (s : State) (c die : Nat) : Bool :=
  let x := s.ctx c
  x.drains.any fun d => d.covers die && match d.escalated with
    | some (_, t) => decide (x.bound ≤ (s.pkg.time - t).toNat)
    | none => false

/-- FORCED_SAVE_HELD_TIMEOUT (R86, R216): a held access has kept a forced save waiting beyond its bound. [DEDUCED, log entry 33] -/
def execForcedSaveHeldTimeout (ctx : Nat) (s : State) : Outcome :=
  if s.gangs.any fun x => x.2.ctx == ctx && s.saveOverdue ctx x.2.die && x.2.frozen && s.gangHeld x.1 x.2 then .next (s.drainFailure ctx)
  else .next s

/-- HANDLER_RTT_TIMEOUT (R86, R87): a running handler has kept a forced save waiting beyond its bound. [DEDUCED, log entry 33] -/
def execHandlerRttTimeout (ctx : Nat) (s : State) : Outcome :=
  if s.gangs.any fun x => x.2.ctx == ctx && s.saveOverdue ctx x.2.die && x.2.saving.isSome && x.2.inHandler then .next (s.drainFailure ctx)
  else .next s

end Sys2Proof.Machine
end

