-- ==== Sys2Proof/Machine/Reset.lean ====
section
/-!
DEFINITION. Resets (R18 to R20, R89, R90, R320, R335, R391, R392, R398).
-/
namespace Sys2Proof.Machine

/-- The code with which a die reset completes work (R392): MEMUE with cause 0x04. -/
abbrev dieResetCode : Nat := 0x040D

/-- The resident teams of some cores ended as failed (R391), with the code that their launches report. -/
def State.failTeams (s : State) (cores : Nat → Bool) (code : Nat) : State :=
  let s := { s with launches := s.launches.map fun (x : Nat × Launch) =>
    if x.2.status == 0 && s.teams.any fun t => t.2.launch.toNat == x.1 && cores t.2.core then
      (x.1, { x.2 with status := 1, code := code }) else x }
  let s := s.dropGangs fun g => cores g.core
  s.teams.foldl (fun (s : State) t => if cores t.2.core then s.endTeam t.1 else s) s

/-- A core reset started (R391): its resident teams end failed. [DEDUCED, log entry 34] -/
def State.startCoreReset (s : State) (core : Nat) (m : Mail) : State :=
  let c := s.core core
  if c.inReset then s.setCore core { c with mails := c.mails ++ [m] }
  else
    let s := s.setCore core { c with inReset := true, mails := [m] }
    let s := s.failTeams (· == core) dieResetCode
    let c := s.core core
    (s.setCore core { c with l1 := [], last := [], nest := none }).push [.coreResetComplete core]

/-- CORE_RESET_COMPLETE (R151, R391): the core's team memory is zero, its CYCLE count starts anew, and dispatch may use it again. -/
def execCoreResetComplete (core : Nat) (s : State) : Outcome :=
  let c := s.core core
  if !c.inReset then .next s
  else
    let s := { s with mem := s.mem.wipe (teamBase core) (teamBase core + 0x100000) }
    let s := (s.setCore core { c with inReset := false, mails := [] }).restartCycles [core]
    .next ((s.replyAll c.mails 0).kick (.teamDispatch (coreDie core)))

/-- Step 1 of a die reset (R89, R392): every open launch, graph and chain walk of the die's packets completes as failed. -/
def State.failWork (s : State) (die : Nat) : State :=
  let mine (l : Launch) : Bool := match l.origin with
    | .packet d _ _ => d == die
    | .node d _ _ _ => d == die
  let s := s.launches.foldl (fun (s : State) x => if mine x.2 then s.abandonLaunch x.1 1 dieResetCode else s) s
  let s := (List.range 256).foldl (fun (s : State) c => s.abandonGraphs die c 1 dieResetCode) s
  (s.die die).chans.foldl (fun (s : State) x =>
    if x.2.state = 1 then
      let s := (s.abortRecord die x.2).walkRecord die x.2 1 dieResetCode
      s.setChan die x.1 { x.2 with state := 0, packets := [], cur := none }
    else s) s

/-- The launches of other dies lose the teams that bind records of a die have not started (R18, R391). -/
def State.loseRecords (s : State) (die : Nat) : State :=
  let d := s.die die
  d.served.foldl (fun (s : State) x =>
    let n := x.2.tcount - tgetD d.started x.1 0
    let id := x.2.launch.toNat
    match tget s.launches id with
    | none => s
    | some l =>
      let s := { s with launches := tput s.launches id { l with left := l.left - n, status := 1, code := dieResetCode } }
      if l.left ≤ n then s.push [.launchComplete (id / 2 ^ 29) id] else s) s

/-- The contexts without a valid record left are contexts no more (R384). -/
def State.sweepContexts (s : State) : State :=
  { s with ctxs := s.ctxs.filter fun x => (List.range 8).any fun k => (s.ctxRec k x.1).valid }

/-- A drain in progress that covers a die ends there as a drain failure, with the interrupt of one, and goes on elsewhere (R392). [DEDUCED, log entry 33] -/
def State.failDrain (s : State) (die c : Nat) : State :=
  let x := s.ctx c
  if s.draining c die then
    (s.setCtx c { x with drains := x.drains.map fun d => { d with failed := d.failed || d.covers die } }).irq (1 + die) 1 c
  else s

/-- The context records of a die of which completion records wait for room, or for a write that succeeds: a reset that clears the front end keeps them until
the last of those is written (R18, R385, R392). [DEDUCED, log entry 34] -/
def Die.unwritten (d : Die) : Tab CtxRec := d.recs.filter fun r => r.2.waiting != []

/-- A die reset started (R90, R335, R391, R392). [DEDUCED, log entry 34] -/
def State.startDieReset (s : State) (die : Nat) (mails : List Mail) : State :=
  let d := s.die die
  if d.inReset then s.replyAll mails 0
  else
    let ctxs := (List.range 256).filter fun c => (s.ctxRec die c).valid
    let s := (s.failWork die).loseRecords die
    let s := ctxs.foldl (fun (s : State) c => s.failDrain die c) s
    let s := ctxs.foldl (fun (s : State) c => s.pkg.tokens.foldl (fun (s : State) t => s.releaseToken t.1 c) s) s
    let s := { s with pkg := { s.pkg with
      tdisp := tput s.pkg.tdisp (1 + die) 3
      ide := s.pkg.ide.filter fun x => x.1 / 256 != 1 + die
      interfaceKeys := tdel s.pkg.interfaceKeys (1 + die)
      rings := tdel s.pkg.rings (16 + die) } }
    let s := s.failTeams (fun c => coreDie c == die) dieResetCode
    let s := s.endAttar (fun _ k => k == die) 1 dieResetCode
    let s := (s.setDie die { inReset := true, mails := mails, recs := (s.die die).unwritten }).replyAll d.mails 4
    let cores := (List.range 64).map (64 * die + ·)
    let s := cores.foldl (fun (s : State) c => ({ s with cores := tdel s.cores c }).replyAll (s.core c).mails 4) s
    let s := s.restartCycles cores
    let s := ctxs.foldl (fun (s : State) c => s.checkDrain c) s
    s.sweepContexts.push [.dieResetComplete die]

/-- DIE_RESET_COMPLETE (R90, R392): once every completion record is written, the die's front end is clear and its memories are zero, and it accepts requests
again. -/
def execDieResetComplete (die : Nat) (s : State) : Outcome :=
  let d := s.die die
  if !d.inReset || d.unwritten != [] then .next s
  else
    let s := (s.wipeDie die).restartCycles ((List.range 64).map (64 * die + ·))
    let s := s.setDie die { d with inReset := false, mails := [], recs := [] }
    .next (((s.ctxs.foldl (fun (s : State) x => s.leaveContext x.1) s).sweepContexts).replyAll d.mails 0)

/-- A request performed at once, before a base die's reset (R320). -/
def State.performNow (s : State) (sock : Nat) (p : Packet) : State :=
  match execMemoryRequest sock p s with
  | .next s' => s'
  | _ => s

/-- The packets of a router's queues forwarded, and the requests that have reached its stack performed (R320). [DEDUCED, log entry 34] -/
def State.flushRouter (s : State) (r : Nat) : State :=
  let outs := (s.base r).outs
  let s := s.setBase r { s.base r with outs := [] }
  let s := outs.foldl (fun (s : State) x => x.2.foldl (fun (s : State) q => s.depart r x.1 q.p) s) s
  let mine := s.agenda.filterMap fun e => match e with
    | .memoryRequest k p => if k = r then some p else none
    | _ => none
  let s := { s with agenda := s.agenda.filter fun e => match e with
    | .memoryRequest k _ => k != r
    | _ => true }
  mine.foldl (fun (s : State) p => s.performNow r p) s

/-- The COLLs of an engine fail with MEMUE cause 0x03 (R223, R335). -/
def State.failColls (s : State) (r : Nat) : State :=
  s.flight.foldl (fun (s : State) x => match x.2.job with
    | .coll d lanes sock entry p none =>
      if sock = r then (s.setJob x.1 x.2 (.coll d lanes sock entry { p with st := .failed cMEMUE 3 p.va } none)).settle x.1 else s
    | _ => s) s

/-- A base die's state after its reset (R320, R335, R391): its cache, combining table and Attar engine are empty, and its replica of the token table is lost; route table, partition maps,
AGEMAX, home directory and access counters stay. [DEDUCED, log entry 34] -/
def Base.cleared (b : Base) : Base :=
  let gens := b.echo.foldl (fun g (x : Nat × Echo) => tput g x.1 ((tgetD g x.1 0 + 1) % 128)) b.gens
  { b with
    groups := []
    outs := []
    ptr := []
    echo := []
    gens := gens
    prog := []
    actxs := []
    slots := []
    starts := []
    msgs := []
    drops := 0
    lastCtx := 0 }

/-- A base-die reset started (R20, R320, R335, R391). [DEDUCED, log entry 34] -/
def State.startBaseReset (s : State) (r : Nat) (m : Mail) : State :=
  let b := s.base r
  if b.inReset then s.setBase r { b with mails := b.mails ++ [m] }
  else
    let s := s.flushRouter r
    let s := (s.base r).actxs.foldl (fun (s : State) x => s.endProgram r x.1 1 (cMEMUE + 256 * 3) x.2.status) s
    let groups := (s.base r).groups
    let s := s.setBase r { (s.base r).cleared with
      inReset := true
      lostTokens := s.pkg.tokens.map (·.1)
      mails := [m] }
    let s := groups.foldl (fun (s : State) p => s.refuse (s.upRouter r) p cMEMUE 3 0) s
    let gone := s.mem.cached.filter fun x => stackOf (x.1 * 64 % 2 ^ 44) == r
    let mem := gone.foldl (fun (m : Mem) x => m.clear (peerKey (x.1 * 64)) (peerKey (x.1 * 64) + 64)) s.mem
    let s := { s with mem := { mem with cached := mem.cached.filter fun x => stackOf (x.1 * 64 % 2 ^ 44) != r } }
    let s := s.failColls r
    let s := { s with pkg := { s.pkg with
      down := (r, 10) :: s.pkg.down
      rings := tdel s.pkg.rings r } }
    s.push [.routeRecompute, .baseDieResetComplete r]

/-- BASE_DIE_RESET_COMPLETE (R20, R308, R391): the base die accepts requests again, and the routers use it again. -/
def execBaseDieResetComplete (sock : Nat) (s : State) : Outcome :=
  let b := s.base sock
  if !b.inReset then .next s
  else
    let s := s.setBase sock { b with inReset := false, mails := [] }
    let s := { s with pkg := { s.pkg with down := s.pkg.down.filter (· != (sock, 10)) } }
    .next ((s.replyAll b.mails 0).push [.routeRecompute])

/-- Memory that a package reset keeps: the DRAM contents, and host memory, which is no part of the package (R391). [DESIGN CHOICE, log entry 2; DEDUCED, log entry 34] -/
def Mem.dramOnly (m : Mem) : Mem :=
  let keep (a : Nat) : Bool := decide (a < 2 ^ 40) || (decide (2 ^ 44 ≤ a) && decide (a < 2 ^ 108))
  { bytes := m.bytes.filter fun c => keep c.1
    bad := m.bad.filter fun l => keep (l * 64)
    weak := m.weak.filter fun l => keep (l * 64) }

/-- The package as its reset leaves it (R391, R398, R401): a new firmware image takes effect, or the package is in ROM recovery where its
signature does not verify. [DEDUCED, log entry 34] -/
def Pkg.restarted (p : Pkg) : Pkg :=
  let fresh : Pkg := { outs := p.outs }
  match p.nextImage with
  | none => { fresh with
      image := p.image
      recovery := p.recovery }
  | some (i, ok) => { fresh with
      image := i
      recovery := !ok }

/-- The machine after a package reset (R391): only DRAM contents are kept. [DESIGN CHOICE, log entry 2; DEDUCED, log entry 34] -/
def State.resetPackage (s : State) : State :=
  { mem := s.mem.dramOnly
    pkg := s.pkg.restarted
    inputs := s.inputs
    schedule := s.schedule
    nextOp := s.nextOp
    steps := s.steps }

/-- FUNDAMENTAL_RESET (R391). -/
def execFundamentalReset (s : State) : Outcome := .next s.resetPackage

/-- POWER_GOOD (R398, R401, Bring-up): memories are zeroed, and the ROM verifies the image. [DESIGN CHOICE, log entry 2; DEDUCED, log entry 34] -/
def execPowerGood (s : State) : Outcome :=
  let s := s.resetPackage
  .next { s with mem := { bytes := s.mem.bytes.filter fun c => 2 ^ 44 ≤ c.1 } }

/-- FUNCTION_LEVEL_RESET (R391, R392): of a compute die's function. [DEDUCED, log entry 34] -/
def execFunctionLevelReset (fn : Nat) (s : State) : Outcome :=
  if 1 ≤ fn ∧ fn ≤ 8 then .next (s.startDieReset (fn - 1) []) else .next s

end Sys2Proof.Machine
end

