-- ==== Sys2Proof/Machine/Manage.lean ====
section
/-!
DEFINITION. The management endpoints (R108, R389 to R393, R395, R399 to R401, R406).
-/
namespace Sys2Proof.Machine

def isDie (sock : Nat) : Bool := decide (16 ≤ sock) && decide (sock < 24)
def isBase (sock : Nat) : Bool := decide (sock < 16)
def isIo (sock : Nat) : Bool := sock == 24 || sock == 25
def anyDie (sock : Nat) : Bool := decide (sock < 26)

/-- Whether the die of a socket does not serve messages: it is in reset or powered down (R389). [DEDUCED, log entry 35] -/
def State.unserving (s : State) (sock : Nat) : Bool :=
  if isBase sock then (s.base sock).inReset else if isDie sock then (s.die (sock - 16)).inReset || (s.die (sock - 16)).down else false

/-- A message to a socket that does not exist: an addressing error, recorded where the host's I/O die enters the fabric (R8, R16). [DESIGN CHOICE, log entry
37] -/
def State.badSocket (s : State) (m : Mail) : State := s.errlog (s.upRouter 0) 24 1 8 cPERMFAULT 0 m.sock

/-- Operand k of a message. -/
def opnd (m : Mail) (k : Nat) : Nat := (m.words.getD k 0).toNat

/-- A message of an op (R389, R390, R406): rejected where its socket does not serve the op, where an operand is outside its limits, or where a
byte that the op does not name is not zero; failed where its die has entered reset; in ROM recovery no op is served (R398). A socket that does not exist is
an addressing error (R8, R16). [DEDUCED, log entry 35] -/
def State.serve (s : State) (m : Mail) (sockets : Nat → Bool) (n : Nat) (ok : Bool) (k : State → State) : State :=
  if 26 ≤ m.sock then (s.badSocket m).replyWords m 1 []
  else if s.pkg.recovery || !sockets m.sock || !(m.words.drop n).all (· == 0) then s.replyWords m 1 []
  else if s.unserving m.sock then s.replyWords m 4 []
  else if !ok then s.replyWords m 1 []
  else k s

/-- The socket of an island (R399): 512 core islands by package index of the core, 64 uncore islands, 8 per compute die, 48 base-die islands,
3 per stack, and 16 I/O-die islands, 8 per die. [DESIGN CHOICE, log entry 38] -/
def islandSock (i : Nat) : Nat :=
  if i < 512 then 16 + i / 64 else if i < 576 then 16 + (i - 512) / 8 else if i < 624 then (i - 576) / 3 else 24 + (i - 624) / 8

/-- The highest clock that an island's range allows (R108, R328, R399): the third island of a base die is its engine island. [DESIGN CHOICE, log entry 38] -/
def islandTop (i : Nat) : Nat :=
  if i < 512 then 2600 else if 576 ≤ i ∧ i < 624 ∧ i % 3 = 2 then 1600 else Config.nominalClock i

/-- An island's ceiling (R399). [DESIGN CHOICE, log entries 10 and 38] -/
def State.ceiling (s : State) (i : Nat) : Nat := tgetD s.pkg.ceilings i (islandTop i)

/-- An island's clock (R108, R399). [DESIGN CHOICE, log entry 38] -/
def State.clockOf (s : State) (i : Nat) : Nat := if i < 512 then s.coreClock i else tgetD s.pkg.clocks i (islandTop i)

/-- The lowest island ceiling of a die (R406). [DESIGN CHOICE, log entry 38] -/
def State.lowestCeiling (s : State) (sock : Nat) : Nat :=
  match (List.range 640).filter fun i => islandSock i == sock with
  | [] => 0
  | i :: t => t.foldl (fun m j => min m (s.ceiling j)) (s.ceiling i)

/-- The package's power in mW, and the current of the core rails in mA, as the sensors of a die read them (R399): the governors keep the power within the limit
from 1 ms after it was written on, and the current within 3,600 A. [DESIGN CHOICE, log entry 40] -/
def State.power (s : State) (sock : Nat) : DWord :=
  let v := Config.sensor s.steps sock 0
  if s.pkg.uptime < s.pkg.powerAt + 1000000 then v else BitVec.ofNat 64 (min v.toNat (1000 * s.pkg.powerLimit))
def State.railCurrent (s : State) (sock : Nat) : DWord := BitVec.ofNat 64 (min (Config.sensor s.steps sock 1).toNat 3600000)

/-- POWER_READ (R399, R406). [DESIGN CHOICE, log entry 40] -/
def execPowerRead (m : Mail) (s : State) : Outcome :=
  .next (s.serve m anyDie 0 true fun s => s.replyWords m 0
    [BitVec.ofNat 64 s.pkg.powerLimit, s.power m.sock, s.railCurrent m.sock, Config.sensor s.steps m.sock 2,
      BitVec.ofNat 64 (s.lowestCeiling m.sock)])

/-- POWER_PACKAGE_LIMIT (R399, R406): of several limits the last one in ring order holds, in whatever order their messages run. -/
def execPowerPackageLimit (m : Mail) (s : State) : Outcome :=
  .next (s.serve m anyDie 1 (decide (100 ≤ opnd m 0) && decide (opnd m 0 ≤ 1800)) fun s =>
    (if m.slot < s.pkg.powerSlot then s
    else { s with pkg := { s.pkg with
      powerLimit := opnd m 0
      powerSlot := m.slot
      powerAt := s.pkg.uptime } }).replyWords m 0 [])

/-- POWER_ISLAND_LIMIT (R399, R406): the clock falls to the ceiling where it stands above it. -/
def execPowerIslandLimit (m : Mail) (s : State) : Outcome :=
  let i := opnd m 0
  let v := opnd m 1
  .next (s.serve m anyDie 2
    (decide (i < 640) && islandSock i == m.sock && decide (v ≤ islandTop i) && (decide (512 ≤ i) || decide (1200 ≤ v))) fun s =>
    let s := if v < s.clockOf i then s.setClock i v else s
    { s with pkg := { s.pkg with ceilings := tput s.pkg.ceilings i v } }.replyWords m 0 [])

/-- Whether a message asks for a compute die of POWER op 3. -/
def powerDieOk (m : Mail) (v : Nat) : Bool := decide (opnd m 0 < 8) && opnd m 1 == v

/-- POWER_DIE_DOWN (R387, R399, R406): every context with work on the die drains there first. [DEDUCED, log entry 33] -/
def execPowerDieDown (m : Mail) (s : State) : Outcome :=
  .next (s.serve m (· == 24) 2 (powerDieOk m 0) fun s =>
    let k := opnd m 0
    let d := s.die k
    if d.down then s.replyWords m 0 []
    else if d.inReset then s.replyWords m 4 []
    else
      let s := s.setDie k { d with leaving := true, mails := d.mails ++ [m] }
      let ctxs := (s.ctxs.map (·.1)).filter fun c => (s.ctxRec k c).valid
      (ctxs.foldl (fun (s : State) c => s.startDrain c (some k) false []) s).checkDown k)

/-- POWER_DIE_UP (R151, R399, R406): the CYCLE counts of its cores start anew; a die in reset is up when its reset has ended. -/
def execPowerDieUp (m : Mail) (s : State) : Outcome :=
  .next (s.serve m (· == 24) 2 (powerDieOk m 1) fun s =>
    let k := opnd m 0
    if (s.die k).inReset then s.setDie k { s.die k with mails := (s.die k).mails ++ [m] } else
    let s := if (s.die k).down then s.restartCycles ((List.range 64).map (64 * k + ·)) else s
    (s.setDie k { s.die k with down := false }).replyWords m 0 [])

/-- The valid context of the package that a CTXID names (R389). -/
def State.ctxNamed (s : State) (id : Nat) : Option Nat :=
  (s.ctxs.find? fun x => x.2.ctxid.toNat == id && (List.range 8).any fun k => (s.ctxRec k x.1).valid).map (·.1)

/-- RESET_DRAIN (R387, R406): the reply is written when the drain has ended. -/
def execResetDrain (m : Mail) (s : State) : Outcome :=
  .next (s.serve m isDie 2 (decide (opnd m 1 < 2) && (s.ctxNamed (opnd m 0)).isSome) fun s =>
    match s.ctxNamed (opnd m 0) with
    | none => s
    | some c => s.startDrain c none (opnd m 1 == 1) [m])

/-- RESET_CORE (R391, R406). -/
def execResetCore (m : Mail) (s : State) : Outcome :=
  .next (s.serve m isDie 1 (decide (opnd m 0 < 64)) fun s => s.startCoreReset (64 * (m.sock - 16) + opnd m 0) m)

/-- RESET_MATRIX_ENGINE (R256, R406). -/
def execResetMatrixEngine (m : Mail) (s : State) : Outcome :=
  .next (s.serve m isDie 1 (decide (opnd m 0 < 64)) fun s =>
    (s.resetEngine (64 * (m.sock - 16) + opnd m 0)).replyWords m 0 [])

/-- RESET_DIE (R391, R392): a second request during a die reset is done at once. -/
def execResetDie (m : Mail) (s : State) : Outcome :=
  if isDie m.sock && (s.die (m.sock - 16)).inReset && m.words.all (· == 0) && !s.pkg.recovery then .next (s.replyWords m 0 [])
  else .next (s.serve m isDie 0 true fun s => s.startDieReset (m.sock - 16) [m])

/-- RESET_BASE_DIE (R391). -/
def execResetBaseDie (m : Mail) (s : State) : Outcome :=
  .next (s.serve m isBase 0 true fun s => s.startBaseReset m.sock m)

/-- RESET_PACKAGE (R391, R406): the reply is written before the reset. -/
def execResetPackage (m : Mail) (s : State) : Outcome :=
  .next (s.serve m (· == 24) 0 true fun s => (s.replyWords m 0 []).resetPackage)

/-- RESET_TLBINV (R196, R406). -/
def execResetTlbinv (m : Mail) (s : State) : Outcome :=
  .next (s.serve m isDie 3 (decide (opnd m 1 < 2) && (s.ctxNamed (opnd m 0)).isSome) fun s =>
    match s.ctxNamed (opnd m 0) with
    | none => s
    | some c => (s.dropTlb c (if opnd m 1 = 0 then some (m.words.getD 2 0) else none)).replyWords m 0 [])

/-- The 32 bytes of an ERRLOG record as four words (R393). -/
def ErrRec.words (r : ErrRec) : List DWord :=
  [r.time, BitVec.ofNat 64 (r.sock * 2 ^ 16 + r.src * 2 ^ 24 + r.sev * 2 ^ 32 + r.engine * 2 ^ 40 + r.code * 2 ^ 48),
    BitVec.ofNat 64 r.ctx, BitVec.ofNat 64 r.addr]

/-- The log of the die that serves a message. [DEDUCED, log entry 37] -/
def State.errlogOf (s : State) (m : Mail) : ErrLog := tgetD s.pkg.errlogs m.sock {}
def State.setErrlog (s : State) (m : Mail) (l : ErrLog) : State := { s with pkg := { s.pkg with errlogs := tput s.pkg.errlogs m.sock l } }

/-- ERRLOG_READ (R393, R406). -/
def execErrlogRead (m : Mail) (s : State) : Outcome :=
  .next (s.serve m anyDie 0 true fun s =>
    let l := s.errlogOf m
    match l.recs with
    | [] => s.replyWords m 0 []
    | r :: t => (s.setErrlog m { l with recs := t }).replyWords m 0 (r.words ++ [BitVec.ofNat 64 t.length]))

/-- ERRLOG_COUNTERS (R406). -/
def execErrlogCounters (m : Mail) (s : State) : Outcome :=
  .next (s.serve m anyDie 0 true fun s =>
    let l := s.errlogOf m
    s.replyWords m 0 ((l.recs.length :: l.overwritten :: (List.range 4).map fun v => tgetD l.sev v 0).map (BitVec.ofNat 64)))

/-- ERRLOG_CLEAR (R406). -/
def execErrlogClear (m : Mail) (s : State) : Outcome :=
  .next (s.serve m anyDie 0 true fun s => (s.setErrlog m { s.errlogOf m with overwritten := 0, sev := [] }).replyWords m 0 [])

/-- TIME_STATUS (R400, R406). -/
def execTimeStatus (m : Mail) (s : State) : Outcome :=
  .next (s.serve m isIo 0 true fun s => s.replyWords m 0
    [BitVec.ofNat 64 s.pkg.lock, BitVec.ofInt 64 s.pkg.offset, BitVec.ofInt 64 s.pkg.ppb, BitVec.ofNat 64 s.pkg.servo, s.pkg.master,
      BitVec.ofNat 64 s.pkg.ptpPort])

/-- TIME_STEP (R93, R400, R406). -/
def execTimeStep (m : Mail) (s : State) : Outcome :=
  .next (s.serve m isIo 1 (decide (1 ≤ opnd m 0) && decide (opnd m 0 < 2 ^ 63)) fun s =>
    { s with pkg := { s.pkg with time := s.pkg.time + BitVec.ofNat 64 (opnd m 0) } }.replyWords m 0 [])

/-- TIME_LOAD (R93, R406). -/
def execTimeLoad (m : Mail) (s : State) : Outcome :=
  .next (s.serve m isIo 1 (s.pkg.lock == 0 && decide (s.pkg.time.toNat ≤ opnd m 0)) fun s =>
    { s with pkg := { s.pkg with
      time := BitVec.ofNat 64 (opnd m 0)
      timeLoaded := true } }.replyWords m 0 [])

/-- TIME_PORT_SELECT (R390, R400): effective at the next sync interval. -/
def execTimePortSelect (m : Mail) (s : State) : Outcome :=
  .next (s.serve m isIo 1 (decide (opnd m 0 < 8)) fun s =>
    { s with pkg := { s.pkg with portNext := opnd m 0 } }.replyWords m 0 [])

/-- PTP_SYNC (R92, R93, R400): the selected port takes effect, the servo is locked while the offset stays within 50 ns, and its rate correction stays within
200 ppm. -/
def execPtpSync (offset ppb : Int) (master : DWord) (s : State) : Outcome :=
  let lock := if -50 ≤ offset ∧ offset ≤ 50 then 1 else if s.pkg.lock = 0 then 0 else 2
  .next { s with pkg := { s.pkg with
    ptpPort := s.pkg.portNext
    offset := offset
    ppb := max (-200000) (min 200000 ppb)
    master := master
    lock := lock } }

/-- IO_DIE_FAILOVER (R92, R400). -/
def execIoDieFailover (s : State) : Outcome := .next { s with pkg := { s.pkg with servo := 25 } }

/-- KEYS_LOAD (R323, R395, R406): only inside the secured session, whose reply, with the STATUS of R389, goes back over it. [DEDUCED, log
entry 35] -/
def execKeysLoad (m : Mail) (keys : List DWord) (secured : Bool) (s : State) : Outcome :=
  if !secured || s.pkg.spdm != 5 then .next (s.serve m isBase 7 true fun s => s.replyWords m 3 [])
  else if 26 ≤ m.sock then .next ((s.badSocket m).emit (.doe 0 [1]))
  else if s.pkg.recovery || !isBase m.sock || decide (255 < opnd m 0) || decide (2 ^ 32 ≤ opnd m 1) || opnd m 3 % 2 ^ 21 != 0
      || !(m.words.drop 5).all (· == 0) || keys.length != 12 then .next (s.emit (.doe 0 [if isBase m.sock && s.unserving m.sock then 4 else 1]))
  else if s.unserving m.sock then .next (s.emit (.doe 0 [4]))
  else
    let slot : KeySlot := {
      data := keys.take 4
      tweak := (keys.drop 4).take 4
      tagKey := keys.drop 8
      gen := BitVec.ofNat 32 (opnd m 1)
      rbase := opnd m 2
      rsize := opnd m 3
      tbase := opnd m 4 }
    .next ({ s with pkg := { s.pkg with keys := tput s.pkg.keys (opnd m 0) slot } }.emit (.doe 0 [0]))

/-- KEYS_CLEAR (R395, R406). -/
def execKeysClear (m : Mail) (s : State) : Outcome :=
  .next (s.serve m isBase 1 (decide (opnd m 0 < 256)) fun s =>
    { s with pkg := { s.pkg with keys := tdel s.pkg.keys (opnd m 0) } }.replyWords m 0 [])

/-- KEYS_READ (R406): never the keys. -/
def execKeysRead (m : Mail) (s : State) : Outcome :=
  .next (s.serve m isBase 1 (decide (opnd m 0 < 256)) fun s => match tget s.pkg.keys (opnd m 0) with
    | none => s.replyWords m 0 []
    | some k => s.replyWords m 0 [1, k.gen.setWidth 64, BitVec.ofNat 64 k.rbase, BitVec.ofNat 64 k.rsize, BitVec.ofNat 64 k.tbase])

/-- The sillage ring of the die that serves a message. -/
def State.ringOf (s : State) (m : Mail) : Ring := tgetD s.pkg.rings m.sock {}
def State.setRing (s : State) (m : Mail) (r : Ring) : State := { s with pkg := { s.pkg with rings := tput s.pkg.rings m.sock r } }

/-- TELEMETRY_SET_RING (R96, R406): the drop record comes first. -/
def execTelemetrySetRing (m : Mail) (s : State) : Outcome :=
  let base := opnd m 0
  let size := opnd m 1
  .next (s.serve m anyDie 2
    (decide (base < 2 ^ 40) && (List.range 19).any (fun k => size == 4096 * 2 ^ k) && base % size == 0) fun s =>
    let r := s.ringOf m
    ((s.setRing m { r with base := base, size := size, wr := 0, drain := 0, set := true }).traceDrops m.sock).replyWords m 0 [])

/-- TELEMETRY_DRAIN (R96, R406): where the ring had no free slot, the drop record is the first into the space that frees. -/
def execTelemetryDrain (m : Mail) (s : State) : Outcome :=
  let n := opnd m 0
  .next (s.serve m anyDie 1 (decide ((s.ringOf m).drain ≤ n) && decide (n ≤ (s.ringOf m).wr)) fun s =>
    let r := s.ringOf m
    let s' := s.setRing m { r with drain := n }
    (if r.full then s'.traceDrops m.sock else s').replyWords m 0 [])

/-- TELEMETRY_READ (R406). [DESIGN CHOICE, log entry 40] -/
def execTelemetryRead (m : Mail) (s : State) : Outcome :=
  .next (s.serve m anyDie 0 true fun s =>
    let r := s.ringOf m
    s.replyWords m 0 [BitVec.ofNat 64 r.wr, BitVec.ofNat 64 r.drain, BitVec.ofNat 64 r.dropped, Config.sensor s.steps m.sock 2])

/-- ROUTES_SET_PKG (R401, R406). [DEDUCED, log entry 35] -/
def execRoutesSetPkg (m : Mail) (s : State) : Outcome :=
  .next (s.serve m isBase 1 (decide (opnd m 0 < 4096)) fun s =>
    let busy := (List.range 8).any (fun k => (s.die k).recs.any fun r => r.2.valid)
      || (List.range 16).any fun b => (s.base b).dir.any fun e => e.2.holders != []
    if busy then s.replyWords m 2 []
    else { s with pkg := { s.pkg with
      id := opnd m 0
      idSet := true } }.replyWords m 0 [])

/-- The payload of a message as bytes. -/
def payloadBytes (m : Mail) : List Byte := dwordBytes m.words

/-- ROUTES_WRITE (R309, R406). -/
def execRoutesWrite (m : Mail) (s : State) : Outcome :=
  let first := opnd m 0
  let n := opnd m 1
  let bs := payloadBytes m
  let entry (j : Nat) : Nat := fieldBytes bs (16 + j / 2) 1 / 16 ^ (j % 2) % 16
  .next (s.serve m isBase 7
    (decide (1 ≤ n) && decide (n ≤ 80) && decide (first + n ≤ 65536) && zeroBytes bs (16 + (n + 1) / 2) 56
      && (n % 2 == 0 || entry n == 0)) fun s =>
    let b := s.base m.sock
    let routes := (List.range n).foldl (fun t j => if entry j = 0xF then tdel t (first + j) else tput t (first + j) (entry j)) b.routes
    (s.setBase m.sock { b with routes := routes }).replyWords m 0 [])

/-- ROUTES_AGEMAX (R316, R406). -/
def execRoutesAgemax (m : Mail) (s : State) : Outcome :=
  .next (s.serve m isBase 1 (decide (1 ≤ opnd m 0) && decide (opnd m 0 ≤ 255)) fun s =>
    (s.setBase m.sock { s.base m.sock with ageMax := opnd m 0 }).replyWords m 0 [])

/-- ROUTES_PARTITION_MAP (R326, R406): external ports 0 and 1 are router ports 5 and 6. -/
def execRoutesPartitionMap (m : Mail) (s : State) : Outcome :=
  let port := opnd m 0 + 5
  let first := opnd m 1
  let bs := payloadBytes m
  .next (s.serve m isBase 7
    (decide (opnd m 0 < 2) && first % 256 == 0 && decide (first ≤ 3840) && zeroBytes bs 48 8) fun s =>
    let b := s.base m.sock
    let lo := port * 4096 + first
    let kept := b.parts.filter fun x => decide (x < lo) || decide (lo + 256 ≤ x)
    let new := ((List.range 256).filter fun j => fieldBytes bs (16 + j / 8) 1 / 2 ^ (j % 8) % 2 == 1).map (lo + ·)
    (s.setBase m.sock { b with parts := kept ++ new }).replyWords m 0 [])

/-- MIGRATION_THRESHOLD (R290, R406). -/
def execMigrationThreshold (m : Mail) (s : State) : Outcome :=
  .next (s.serve m isBase 1 (decide (1 ≤ opnd m 0) && decide (opnd m 0 ≤ 65535)) fun s =>
    (s.setBase m.sock { s.base m.sock with threshold := opnd m 0 }).replyWords m 0 [])

/-- MIGRATION_READ_COUNTERS (R290, R406): the page's counters are read and cleared. -/
def execMigrationReadCounters (m : Mail) (s : State) : Outcome :=
  .next (s.serve m isBase 1 (opnd m 0 % 2 ^ 16 == 0 && decide (opnd m 0 < 2 ^ 56)) fun s =>
    let b := s.base m.sock
    let key (k : Nat) : Nat := opnd m 0 / 2 ^ 16 * 8 + k
    let vals := (List.range 8).flatMap fun k => leBytes 2 (tgetD b.counters (key k) 0)
    (s.setBase m.sock { b with counters := (List.range 8).foldl (fun t k => tdel t (key k)) b.counters }).reply m 0 vals)

/-- Whether the package stands within its limits (R399), so that a governor may raise the clock of a core island (R108). [DESIGN CHOICE, log entry 40] -/
def State.withinLimits (s : State) : Bool :=
  decide ((Config.sensor s.steps 24 0).toNat ≤ 1000 * s.pkg.powerLimit) && decide ((Config.sensor s.steps 24 1).toNat ≤ 3600000)

/-- GOVERNOR_CLOCK_CHANGE (R108, R399): a core island moves within its range and ceiling, upwards only within the package's limits; every other island runs at
its nominal clock, or at a lower ceiling. [DESIGN CHOICE, log entries 38 and 40] -/
def execGovernorClockChange (island mhz : Nat) (s : State) : Outcome :=
  let ok := decide (mhz ≤ s.ceiling island) && (if island < 512 then decide (1200 ≤ mhz) else mhz == s.ceiling island)
    && (decide (mhz ≤ s.clockOf island) || s.withinLimits)
  .next (if island < 640 && ok then s.setClock island mhz else s)

end Sys2Proof.Machine
end

