-- ==== Sys2Proof/Machine/Secure.lean ====
section
/-!
DEFINITION. Attestation, link security and firmware (R396 to R398).
-/
namespace Sys2Proof.Machine

/-- The bytes of a response that R397 fixes, in the encodings of SPDM 1.3: the version, the four algorithms, and the measurements, which are the digests of
the firmware that the dies run from the package's image, the ROM version and the security configuration. [PRESUMED, log entry 41] -/
def spdmVersion : List Byte := leBytes 2 0x1300
def spdmAlgorithms : List Byte := leBytes 4 0x40 ++ leBytes 4 4 ++ leBytes 2 0x10 ++ leBytes 2 2
def State.measurements (s : State) : List Byte :=
  (List.range 26).flatMap (fun sock => leBytes 64 (Config.firmwareDigest s.pkg.image sock).toNat) ++ leBytes 4 Config.romVersion.toNat
    ++ leBytes 8 (Config.securityConfig s.steps).toNat

/-- An SPDM request of the session states in which it is served (R397): the response code and the new state, or an error response. What the rules do not fix of
a response is the attestation kernels', the response codes are SPDM 1.3's. In ROM recovery nothing answers (R398). [PRESUMED, log entry 41] -/
def spdm (req : List Byte) (states : List Nat) (code next : Nat) (fixed : List Byte) (s : State) : Outcome :=
  if s.pkg.recovery then .next s
  else if !states.contains s.pkg.spdm then .next (s.emit (.doe 0x7F []))
  else
    .next ({ s with pkg := { s.pkg with spdm := next } }.emit (.doe code (fixed ++ Config.attest s.steps req)))

/-- An SPDM request that leaves the session state as it is. [PRESUMED, log entry 41] -/
def spdmRead (req : List Byte) (code : Nat) (fixed : List Byte) (s : State) : Outcome := spdm req [3, 4, 5] code s.pkg.spdm fixed s

/-- GET_VERSION (R397). -/
def execGetVersion (req : List Byte) (s : State) : Outcome := spdm req [0, 1, 2, 3, 4, 5] 0x04 1 spdmVersion s
/-- GET_CAPABILITIES (R397). -/
def execGetCapabilities (req : List Byte) (s : State) : Outcome := spdm req [1] 0x61 2 [] s
/-- NEGOTIATE_ALGORITHMS (R397). -/
def execNegotiateAlgorithms (req : List Byte) (s : State) : Outcome := spdm req [2] 0x63 3 spdmAlgorithms s
/-- GET_DIGESTS (R397). -/
def execGetDigests (req : List Byte) (s : State) : Outcome := spdmRead req 0x01 [] s
/-- GET_CERTIFICATE (R397). -/
def execGetCertificate (req : List Byte) (s : State) : Outcome := spdmRead req 0x02 [] s
/-- CHALLENGE (R397). -/
def execChallenge (req : List Byte) (s : State) : Outcome := spdmRead req 0x03 [] s
/-- GET_MEASUREMENTS (R397). -/
def execGetMeasurements (req : List Byte) (s : State) : Outcome := spdmRead req 0x60 s.measurements s
/-- KEY_EXCHANGE (R397). -/
def execKeyExchange (req : List Byte) (s : State) : Outcome := spdm req [3] 0x64 4 [] s
/-- FINISH (R397). -/
def execFinish (req : List Byte) (s : State) : Outcome := spdm req [4] 0x65 5 [] s
/-- END_SESSION (R397). -/
def execEndSession (req : List Byte) (s : State) : Outcome := spdm req [5] 0x6C 3 [] s

/-- IDE_KM (R396): a stream key of a function, over the SPDM session. [PRESUMED, log entry 41] -/
def execIdeKm (fn : Nat) (stream : Nat) (key : List Byte) (s : State) : Outcome :=
  if s.pkg.recovery || s.pkg.spdm != 5 || decide (8 < fn) || decide (255 < stream) then .next s
  else .next { s with pkg := { s.pkg with ide := tput s.pkg.ide (fn * 256 + stream) key } }

/-- The TDISP state that follows a request (R392, R396): out of ERROR only by a new lock sequence. [PRESUMED, log entry 41] -/
def tdispNext (st : Nat) : TdispReq → Nat
  | .lock => if st = 0 ∨ st = 3 then 1 else st
  | .start => if st = 1 then 2 else st
  | .stop => if st = 3 then 3 else 0
  | .getState => st

/-- The interface keys after a TDISP request that leads to a state (R392, R396): a lock makes the function's, and they are gone with the end of the lock.
[PRESUMED, log entry 41] -/
def interfaceKeysAfter (keys : Tab DWord) (step fn old new : Nat) : Tab DWord :=
  if new = 1 ∧ old ≠ 1 then tput keys fn (Config.interfaceKey step fn) else if new = 0 then tdel keys fn else keys

/-- TDISP_MESSAGE (R396): functions 1 to 8 have an interface. [PRESUMED, log entry 41] -/
def execTdispMessage (fn : Nat) (req : TdispReq) (s : State) : Outcome :=
  if s.pkg.recovery || decide (fn < 1) || decide (8 < fn) then .next s
  else
    let old := tgetD s.pkg.tdisp fn 0
    let st := tdispNext old req
    .next ({ s with pkg := { s.pkg with
      tdisp := tput s.pkg.tdisp fn st
      interfaceKeys := interfaceKeysAfter s.pkg.interfaceKeys s.steps fn old st } }.emit (.tdisp fn st))

/-- FIRMWARE_IMAGE_WRITE (R398): taken by the next package reset. -/
def execFirmwareImageWrite (image : Nat) (signed : Bool) (s : State) : Outcome :=
  .next { s with pkg := { s.pkg with nextImage := some (image, signed) } }

end Sys2Proof.Machine
end

