-- ==== Sys2Proof/Machine/Agenda.lean ====
section
/-!
DEFINITION. The pending steps of the asynchronous units run, each through the meaning of its row of the opcode table, and the messages of the
mailbox given to the endpoints (R17, R389, R390).
-/
namespace Sys2Proof.Machine

/-- A message answered with a status and no values. -/
def State.answer (s : State) (m : Mail) (status : Nat) : Outcome := .next (s.replyWords m status [])

/-- POWER (R390): op 3 takes a die down or up by its second operand. -/
def State.mailPower (s : State) (op : Nat) (m : Mail) : Outcome :=
  match op with
  | 0 => execPowerRead m s
  | 1 => execPowerPackageLimit m s
  | 2 => execPowerIslandLimit m s
  | 3 => if opnd m 1 = 1 then execPowerDieUp m s else execPowerDieDown m s
  | _ => s.answer m 1

/-- RESET (R390). -/
def State.mailReset (s : State) (op : Nat) (m : Mail) : Outcome :=
  match op with
  | 0 => execResetDrain m s
  | 1 => execResetCore m s
  | 2 => execResetMatrixEngine m s
  | 3 => execResetDie m s
  | 4 => execResetBaseDie m s
  | 5 => execResetPackage m s
  | 6 => execResetTlbinv m s
  | _ => s.answer m 1

/-- ERRLOG (R390). -/
def State.mailErrlog (s : State) (op : Nat) (m : Mail) : Outcome :=
  match op with
  | 0 => execErrlogRead m s
  | 1 => execErrlogCounters m s
  | 2 => execErrlogClear m s
  | _ => s.answer m 1

/-- TIME (R390). -/
def State.mailTime (s : State) (op : Nat) (m : Mail) : Outcome :=
  match op with
  | 0 => execTimeStatus m s
  | 1 => execTimeStep m s
  | 2 => execTimeLoad m s
  | 3 => execTimePortSelect m s
  | _ => s.answer m 1

/-- KEYS (R390): a load through the mailbox carries no key material and no session. -/
def State.mailKeys (s : State) (op : Nat) (m : Mail) : Outcome :=
  match op with
  | 0 => execKeysLoad m [] false s
  | 1 => execKeysClear m s
  | 2 => execKeysRead m s
  | _ => s.answer m 1

/-- TELEMETRY (R390). -/
def State.mailTelemetry (s : State) (op : Nat) (m : Mail) : Outcome :=
  match op with
  | 0 => execTelemetrySetRing m s
  | 1 => execTelemetryDrain m s
  | 2 => execTelemetryRead m s
  | _ => s.answer m 1

/-- ROUTES (R390). -/
def State.mailRoutes (s : State) (op : Nat) (m : Mail) : Outcome :=
  match op with
  | 0 => execRoutesSetPkg m s
  | 1 => execRoutesWrite m s
  | 2 => execRoutesAgemax m s
  | 3 => execRoutesPartitionMap m s
  | _ => s.answer m 1

/-- MIGRATION (R390). -/
def State.mailMigration (s : State) (op : Nat) (m : Mail) : Outcome :=
  match op with
  | 0 => execMigrationThreshold m s
  | 1 => execMigrationReadCounters m s
  | _ => s.answer m 1

/-- A message of the ring executed (R389, R390): ATTEST serves none, and an undefined endpoint, op or socket is rejected; one to a socket that does not
exist is an addressing error (R8, R16). [DESIGN CHOICE, log entry 37] -/
def State.runMail (s : State) (endpoint op : Nat) (m : Mail) : Outcome :=
  if 26 ≤ m.sock then (s.badSocket m).answer m 1
  else match endpoint with
    | 0 => s.mailPower op m
    | 1 => s.mailReset op m
    | 2 => s.mailErrlog op m
    | 3 => s.mailTime op m
    | 4 => s.mailKeys op m
    | 6 => s.mailTelemetry op m
    | 7 => s.mailRoutes op m
    | 8 => s.mailMigration op m
    | _ => s.answer m 1

/-- A pending step of an asynchronous unit made. -/
def State.runPending (s : State) : Pending → Outcome
  | .accessComplete op => execAccessComplete op s
  | .routerPacketArrive r i p => execRouterPacketArrive r i p s
  | .outputGrant r o => execOutputGrant r o s
  | .memoryRequest sock p => execMemoryRequest sock p s
  | .echoReply r p => execEchoReply r p s
  | .failedReply r p => execFailedReply r p s
  | .tokenAcquireRequest sock p => execTokenAcquireRequest sock p s
  | .tokenRecall region part => execTokenRecall ⟨region, part⟩ s
  | .recallAck sock pkg region => execRecallAck sock pkg region s
  | .responseTimeout tag => execResponseTimeout tag s
  | .quarterOpComplete op => execQuarterOpComplete op s
  | .matrixHang core => execMatrixHang core s
  | .tileStep core => execTileStep core s
  | .prismTileWrite team h => execPrismTileWrite team h s
  | .copyJobComplete op => execCopyJobComplete op s
  | .copymReceiverArrive op rank => execCopymReceiverArrive op rank s
  | .chainRecordStep die chan => execChainRecordStep die chan s
  | .netRetryTimeout msg => execNetRetryTimeout msg s
  | .attarStart sock => execAttarStart sock s
  | .contributionAccept sock m => execContributionAccept sock m s
  | .contributionRetry sock ctx => execContributionRetry sock ctx s
  | .messageStore sock m => execMessageStore sock m s
  | .messageExpiry sock => execMessageExpiry sock s
  | .crecvTimeout sock ctx => execCrecvTimeout sock ctx s
  | .slotDeadline sock slot => execSlotDeadline sock slot s
  | .packetProcessorStep die => execPacketProcessorStep die s
  | .waitsigTimeout die q => execWaitsigTimeout die q s
  | .launchComplete die l => execLaunchComplete die l s
  | .completionRecordRetry die c => execCompletionRecordRetry die c s
  | .bindRecordWrite die slot r => execBindRecordWrite die slot r s
  | .teamDispatch die => execTeamDispatch die s
  | .preemptEntry gang => execPreemptEntry gang s
  | .gangEnd gang => execGangEnd gang s
  | .dozeWake gang entry => execDozeWake gang entry s
  | .fusetmoExpiry gang entry => execFusetmoExpiry gang entry s
  | .drainlimExpiry c => execDrainlimExpiry c s
  | .forcedSaveHeldTimeout c => execForcedSaveHeldTimeout c s
  | .handlerRttTimeout c => execHandlerRttTimeout c s
  | .dieResetComplete die => execDieResetComplete die s
  | .baseDieResetComplete sock => execBaseDieResetComplete sock s
  | .coreResetComplete core => execCoreResetComplete core s
  | .routeRecompute => execRouteRecompute s
  | .hostStep => .next (s.runHost s.pkg.hostq.length)
  | .badLine line => .next (if s.mem.isBad (line * 64) then s.foundBad (sockOf (line * 64)) (line * 64) else s)
  | .linkDown router port => execLinkDown router port s
  | .umbraFree core => .next (s.retryTraps core)
  | .sealedLine op line => .next (s.sealedStep op line)
  | .mail endpoint op m => s.runMail endpoint op m

/-- The queue in which a pending step stands, by numbers: messages to a socket (R389), packets of a channel on a link (R311), acquires of a region at its
home (R321); `none` for any other step. -/
def Pending.queue : Pending → Option (Nat × Nat × Nat × Nat)
  | .mail _ _ m => some (0, m.sock, 0, 0)
  | .routerPacketArrive r i p => if i ≤ 6 then some (1, r, i, p.vc.toNat) else none
  | .tokenAcquireRequest sock p => some (2, sock, regionOf p.addr.toNat, 0)
  | _ => none

/-- The place of the step that the k-th move of the agenda stands for: of the steps of one queue the first (R311, R321, R389).
[DESIGN CHOICE, log entry 7; DEDUCED, log entry 35] -/
def agendaPlace (l : List Pending) (k : Nat) : Nat :=
  match l[k]? with
  | none => k
  | some p => match p.queue with
    | none => k
    | some q => (l.findIdx? fun x => x.queue == some q).getD k

end Sys2Proof.Machine
end

