-- ==== Sys2Proof/Machine/Clause.lean ====
section
/-!
DEFINITION. The issue of a clause header (R21 to R23) and the promotion of an aged split (R107).
-/
namespace Sys2Proof.Machine

/-- The live lanes of a split that take part in a clause (R22, R112). -/
def Gang.guarded (g : Gang) (sp : Split) (h : Header) : List Nat :=
  (List.range g.width).filter fun i => sp.mask.getLsbD i && (g.lane i).live && (!h.ge || ((g.lane i).preds.getLsbD h.gp.toNat != h.gn))

/-- The gang with a split inside the clause of a header: the latch of every lane of the split is empty, of those too that the guard leaves out (R22, R35),
and the guard has chosen the lanes. [DEDUCED, log entry 11] -/
def Gang.enterClause (g : Gang) (idx : Nat) (sp : Split) (h : Header) (hdr : Word) : Gang :=
  let part := g.guarded sp h
  let g := g.mapLanes ((List.range g.width).filter fun i => sp.mask.getLsbD i) fun i l =>
    { l with latch := none, takes := part.contains i }
  g.setSplit idx (some { headerAt (sp.pc + 4) sp.mask with incl := true, hdr := hdr })

/-- CLAUSE_ISSUE (R22): the header is decoded, its wait tested, a failure of the waited counter delivered, the guard read. -/
def execClauseIssue (hdr : Word) (s : State) : Outcome :=
  match s.issuer with
  | none => .fault .noIssuer
  | some c =>
    match decodeHeader hdr with
    | none => .next (s.takeTrap c.key c.idx cILLCLAUSE 0 (hdr.setWidth 64) c.sp.mask false none)
    | some h =>
      if h.we && h.wthr.toNat < c.g.pending h.wctr.toNat then .next (s.hold c .wait)
      else match if h.we then s.deliver c.key c.idx h.wctr.toNat else none with
        | some s' => .next s'
        | none => .next (s.put c (c.g.enterClause c.idx c.sp h hdr))

/-- A split of age 64 is promoted (R107). -/
def Split.promote (sp : Split) : Split := if 64 ≤ sp.age then { sp with promoted := true } else sp

/-- ISSUE_AGE_PROMOTION (R107). -/
def execIssueAgePromotion (gang entry : Nat) (s : State) : Outcome :=
  match s.gang gang with
  | none => .next s
  | some g =>
    match g.split entry with
    | none => .next s
    | some sp => .next (s.setGang gang (g.setSplit entry (some sp.promote)))

end Sys2Proof.Machine
end

