-- ==== Sys2Proof/Machine/Compare.lean ====
section
/-!
DEFINITION. Compares and predicate logic (R155, R156).
-/
namespace Sys2Proof.Machine

/-- CMPEQ (R155). -/
def execCmpeq (d a b : Opnd) (s : State) : Outcome := cmp32 (.cmpeq d a b) d a b (fun a b => a == b) s

/-- CMPNE (R155). -/
def execCmpne (d a b : Opnd) (s : State) : Outcome := cmp32 (.cmpne d a b) d a b (fun a b => a != b) s

/-- CMPLT (R155). -/
def execCmplt (d a b : Opnd) (s : State) : Outcome := cmp32 (.cmplt d a b) d a b (fun a b => a.slt b) s

/-- CMPLE (R155). -/
def execCmple (d a b : Opnd) (s : State) : Outcome := cmp32 (.cmple d a b) d a b (fun a b => !b.slt a) s

/-- CMPLTU (R155). -/
def execCmpltu (d a b : Opnd) (s : State) : Outcome := cmp32 (.cmpltu d a b) d a b (fun a b => a < b) s

/-- CMPLEU (R155). -/
def execCmpleu (d a b : Opnd) (s : State) : Outcome := cmp32 (.cmpleu d a b) d a b (fun a b => a ≤ b) s

/-- PAND (R155). -/
def execPand (d a b : Opnd) (s : State) : Outcome := binPred (.pand d a b) d a b (fun a b => a && b) s

/-- POR (R155). -/
def execPor (d a b : Opnd) (s : State) : Outcome := binPred (.por d a b) d a b (fun a b => a || b) s

/-- PXOR (R155). -/
def execPxor (d a b : Opnd) (s : State) : Outcome := binPred (.pxor d a b) d a b (fun a b => a != b) s

/-- PNOT (R155). -/
def execPnot (d a : Opnd) (s : State) : Outcome :=
  laneWord (.pnot d a) [(.predDst, d), (.predSrc, a)] (fun g k => resPred d (!g.rPred a k)) s

/-- P2V (R155): 1 or 0. -/
def execP2v (d a : Opnd) (s : State) : Outcome :=
  laneWord (.p2v d a) [(.dst false, d), (.predSrc, a)] (fun g k => g.res32 d (if g.rPred a k then 1 else 0)) s

/-- V2P (R155): A ≠ 0. -/
def execV2p (d a : Opnd) (s : State) : Outcome :=
  laneWord (.v2p d a) [(.predDst, d), (.src false, a)] (fun g k => resPred d (g.r32 a k != 0)) s

/-- FCMPEQ (R156). -/
def execFcmpeq (d a b : Opnd) (s : State) : Outcome := fcmp32 (.fcmpeq d a b) d a b fcmpEq s

/-- FCMPLT (R156). -/
def execFcmplt (d a b : Opnd) (s : State) : Outcome := fcmp32 (.fcmplt d a b) d a b fcmpLt s

/-- FCMPLE (R156). -/
def execFcmple (d a b : Opnd) (s : State) : Outcome := fcmp32 (.fcmple d a b) d a b fcmpLe s

/-- FCMPUN (R156). -/
def execFcmpun (d a b : Opnd) (s : State) : Outcome := fcmp32 (.fcmpun d a b) d a b fcmpUn s

/-- DCMPEQ (R156). -/
def execDcmpeq (d a b : Opnd) (s : State) : Outcome := fcmp64 (.dcmpeq d a b) d a b fcmpEq s

/-- DCMPLT (R156). -/
def execDcmplt (d a b : Opnd) (s : State) : Outcome := fcmp64 (.dcmplt d a b) d a b fcmpLt s

/-- DCMPLE (R156). -/
def execDcmple (d a b : Opnd) (s : State) : Outcome := fcmp64 (.dcmple d a b) d a b fcmpLe s

/-- DCMPUN (R156). -/
def execDcmpun (d a b : Opnd) (s : State) : Outcome := fcmp64 (.dcmpun d a b) d a b fcmpUn s

end Sys2Proof.Machine
end

