-- ==== Sys2Proof/Machine/Cross.lean ====
section
/-!
DEFINITION. The cross-lane instructions (R167 to R171).
-/
namespace Sys2Proof.Machine

/-- The form of the shuffles (R168): `src` gives the source lane of lane i with operand B, `none` for one below 0. -/
def shuffle (i : Instr) (d a b : Opnd) (wide : Bool) (pv : BitVec 3) (src : Nat → Nat → Option Nat) (s : State) : Outcome :=
  gangWord i s fun c =>
    match c.check [(.dst wide, d), (.src wide, a), (.src false, b)] with
    | some t => .trap t
    | none =>
      .done (s.put c (c.g.mapLanes c.act fun k l =>
        let j := src k (c.g.r32 b k).toNat
        let ok := match j with | some j => c.act.contains j | none => false
        let from_ := if ok then j.getD k else k
        let l := { l with preds := setBit l.preds pv.toNat ok }
        if wide then c.g.res64 d (c.g.r64 a from_) l else c.g.res32 d (c.g.r32 a from_) l))

/-- SHFL (R168). -/
def execShfl (d a b : Opnd) (wide : Bool) (pv : BitVec 3) (s : State) : Outcome :=
  shuffle (.shfl d a b wide pv) d a b wide pv (fun _ n => some n) s

/-- SHFLUP (R168). -/
def execShflup (d a b : Opnd) (wide : Bool) (pv : BitVec 3) (s : State) : Outcome :=
  shuffle (.shflup d a b wide pv) d a b wide pv (fun i n => if n ≤ i then some (i - n) else none) s

/-- SHFLDN (R168). -/
def execShfldn (d a b : Opnd) (wide : Bool) (pv : BitVec 3) (s : State) : Outcome :=
  shuffle (.shfldn d a b wide pv) d a b wide pv (fun i n => some (i + n)) s

/-- SHFLX (R168). -/
def execShflx (d a b : Opnd) (wide : Bool) (pv : BitVec 3) (s : State) : Outcome :=
  shuffle (.shflx d a b wide pv) d a b wide pv (fun i n => some (i ^^^ n)) s

/-- VOTEALL (R169). -/
def execVoteall (d a : Opnd) (s : State) : Outcome :=
  gangWord (.voteall d a) s fun c =>
    match c.check [(.predDst, d), (.predSrc, a)] with
    | some t => .trap t
    | none => .done (s.put c (c.g.mapLanes c.act fun _ => resPred d (c.act.all (c.g.rPred a))))

/-- VOTEANY (R169). -/
def execVoteany (d a : Opnd) (s : State) : Outcome :=
  gangWord (.voteany d a) s fun c =>
    match c.check [(.predDst, d), (.predSrc, a)] with
    | some t => .trap t
    | none => .done (s.put c (c.g.mapLanes c.act fun _ => resPred d (c.act.any (c.g.rPred a))))

/-- BALLOT (R169). -/
def execBallot (d a : Opnd) (s : State) : Outcome :=
  gangWord (.ballot d a) s fun c =>
    match c.check [(.dst true, d), (.predSrc, a)] with
    | some t => .trap t
    | none => .done (s.put c (c.g.mapLanes c.act fun _ => c.g.res64 d (maskOf (c.act.filter (c.g.rPred a)))))

/-- MATCH (R169). -/
def execMatchLanes (d a : Opnd) (s : State) : Outcome :=
  gangWord (.matchLanes d a) s fun c =>
    match c.check [(.dst true, d), (.src false, a)] with
    | some t => .trap t
    | none =>
      .done (s.put c (c.g.mapLanes c.act fun k =>
        c.g.res64 d (maskOf (c.act.filter fun j => c.g.r32 a j == c.g.r32 a k))))

/-- An operator of R170 other than the floating-point sum, on n-bit values. -/
def redOp {n : Nat} (op : Nat) (a b : BitVec n) : BitVec n :=
  match op with
  | 2 => if a.slt b then a else b
  | 3 => if a.slt b then b else a
  | 4 => if a < b then a else b
  | 5 => if a < b then b else a
  | 6 => a &&& b
  | 7 => a ||| b
  | 8 => a ^^^ b
  | _ => a + b

/-- An operator of R170 over values in ascending lane order. -/
def redAll {n : Nat} (op : Nat) : List (BitVec n) → BitVec n
  | [] => 0
  | a :: t => t.foldl (redOp op) a

/-- The result of a reduction over lanes and the flags it raises (R171). [DEDUCED, log entry 52] -/
def Gang.reduce (g : Gang) (wide : Bool) (op : Nat) (a : Opnd) (ls : List Nat) : DWord × Flags :=
  match wide, op == 1 with
  | false, true => let r := f32.sum g.rm (ls.map (g.rF32 a)); (BitVec.ofNat 64 r.1, r.2)
  | true, true => let r := f64.sum g.rm (ls.map (g.rF64 a)); (BitVec.ofNat 64 r.1, r.2)
  | false, false => ((redAll op (ls.map (g.r32 a))).setWidth 64, 0)
  | true, false => (redAll op (ls.map (g.r64 a)), 0)

/-- The form of GRED and GSCAN (R171): `among` gives the lanes that the result of a lane covers. -/
def reduction (i : Instr) (d a : Opnd) (wide : Bool) (op : BitVec 4) (among : List Nat → Nat → List Nat) (s : State) : Outcome :=
  gangWord i s fun c =>
    match c.check [(.dst wide, d), (.src wide, a)] with
    | some t => .trap t
    | none =>
      let r (k : Nat) := c.g.reduce wide op.toNat a (among c.act k)
      match c.fpTrap fun k => (r k).2 with
      | some t => .trap t
      | none =>
        .done (s.put c ((c.g.mapLanes c.act fun k =>
          if wide then c.g.res64 d (r k).1 else c.g.res32 d (field (r k).1 0 32)).raiseFlags (orFlags c.act fun k => (r k).2)))

/-- GRED (R171). -/
def execGred (d a : Opnd) (wide : Bool) (op : BitVec 4) (s : State) : Outcome :=
  reduction (.gred d a wide op) d a wide op (fun act _ => act) s

/-- GSCAN (R171). -/
def execGscan (d a : Opnd) (wide : Bool) (op : BitVec 4) (s : State) : Outcome :=
  reduction (.gscan d a wide op) d a wide op (fun act k => act.filter fun j => j ≤ k) s

end Sys2Proof.Machine
end

