-- ==== Sys2Proof/Machine/Fp.lean ====
section
/-!
DEFINITION. FP32 and FP64 arithmetic (R157 to R159).
-/
namespace Sys2Proof.Machine

/-- FADD (R157). -/
def execFadd (d a b : Opnd) (s : State) : Outcome := fbin32 (.fadd d a b) d a b (f32.add) s

/-- FSUB (R157). -/
def execFsub (d a b : Opnd) (s : State) : Outcome := fbin32 (.fsub d a b) d a b (fun rm a b => f32.add rm a b.negate) s

/-- FMUL (R157). -/
def execFmul (d a b : Opnd) (s : State) : Outcome := fbin32 (.fmul d a b) d a b (f32.mul) s

/-- FDIV (R159). -/
def execFdiv (d a b : Opnd) (s : State) : Outcome := fbin32 (.fdiv d a b) d a b (f32.div) s

/-- FFMA (R157): A × B + D rounded once; D is a source. -/
def execFfma (d a b : Opnd) (s : State) : Outcome :=
  fp32Word (.ffma d a b) [(.both false, d), (.src false, a), (.src false, b)] d
    (fun g k => f32.fma g.rm (g.rF32 a k) (g.rF32 b k) (g.rF32 d k)) s

/-- FMIN (R158). -/
def execFmin (d a b : Opnd) (s : State) : Outcome :=
  fp32Word (.fmin d a b) [(.dst false, d), (.src false, a), (.src false, b)] d
    (fun g k => f32.minMax false (g.r32 a k).toNat (g.r32 b k).toNat) s

/-- FMAX (R158). -/
def execFmax (d a b : Opnd) (s : State) : Outcome :=
  fp32Word (.fmax d a b) [(.dst false, d), (.src false, a), (.src false, b)] d
    (fun g k => f32.minMax true (g.r32 a k).toNat (g.r32 b k).toNat) s

/-- DADD (R157). -/
def execDadd (d a b : Opnd) (s : State) : Outcome := fbin64 (.dadd d a b) d a b (f64.add) s

/-- DSUB (R157). -/
def execDsub (d a b : Opnd) (s : State) : Outcome := fbin64 (.dsub d a b) d a b (fun rm a b => f64.add rm a b.negate) s

/-- DMUL (R157). -/
def execDmul (d a b : Opnd) (s : State) : Outcome := fbin64 (.dmul d a b) d a b (f64.mul) s

/-- DDIV (R159). -/
def execDdiv (d a b : Opnd) (s : State) : Outcome := fbin64 (.ddiv d a b) d a b (f64.div) s

/-- DFMA (R157): A × B + D rounded once; D is a source. -/
def execDfma (d a b : Opnd) (s : State) : Outcome :=
  fp64Word (.dfma d a b) [(.both true, d), (.src true, a), (.src true, b)] d
    (fun g k => f64.fma g.rm (g.rF64 a k) (g.rF64 b k) (g.rF64 d k)) s

/-- DMIN (R158). -/
def execDmin (d a b : Opnd) (s : State) : Outcome :=
  fp64Word (.dmin d a b) [(.dst true, d), (.src true, a), (.src true, b)] d
    (fun g k => f64.minMax false (g.r64 a k).toNat (g.r64 b k).toNat) s

/-- DMAX (R158). -/
def execDmax (d a b : Opnd) (s : State) : Outcome :=
  fp64Word (.dmax d a b) [(.dst true, d), (.src true, a), (.src true, b)] d
    (fun g k => f64.minMax true (g.r64 a k).toNat (g.r64 b k).toNat) s

/-- FABS (R158): sign 0; a NaN gives the canonical NaN, and no flag is raised. -/
def fabsOp (a : Word) : Word := if (f32.decode a.toNat).isNan then 0x7FC00000 else a &&& 0x7FFFFFFF
def execFabs (d a : Opnd) (s : State) : Outcome := un32 (.fabs d a) d a fabsOp s

/-- FNEG (R158): sign inverted; a NaN gives the canonical NaN, and no flag is raised. -/
def fnegOp (a : Word) : Word := if (f32.decode a.toNat).isNan then 0x7FC00000 else a ^^^ 0x80000000
def execFneg (d a : Opnd) (s : State) : Outcome := un32 (.fneg d a) d a fnegOp s

/-- FRCP (R159): 1 / A, correctly rounded. -/
def execFrcp (d a : Opnd) (s : State) : Outcome := fun32 (.frcp d a) d a (f32.rcp) s

/-- FRSQ (R159): 1 / √A, correctly rounded. -/
def execFrsq (d a : Opnd) (s : State) : Outcome := fun32 (.frsq d a) d a (f32.rsqrt) s

/-- FSQRT (R159): √A, correctly rounded. -/
def execFsqrt (d a : Opnd) (s : State) : Outcome := fun32 (.fsqrt d a) d a (f32.sqrt) s

/-- FLOG2 (R159): log2 A, correctly rounded. -/
def execFlog2 (d a : Opnd) (s : State) : Outcome := fun32 (.flog2 d a) d a (fun rm a => f32.logVal rm false a) s

/-- FEXP2 (R159): 2^A, correctly rounded. -/
def execFexp2 (d a : Opnd) (s : State) : Outcome := fun32 (.fexp2 d a) d a (fun rm a => f32.expVal rm false a) s

/-- FLN (R159): ln A, correctly rounded. -/
def execFln (d a : Opnd) (s : State) : Outcome := fun32 (.fln d a) d a (fun rm a => f32.logVal rm true a) s

/-- FEXP (R159): e^A, correctly rounded. -/
def execFexp (d a : Opnd) (s : State) : Outcome := fun32 (.fexp d a) d a (fun rm a => f32.expVal rm true a) s

/-- DSQRT (R159): √A, correctly rounded. -/
def execDsqrt (d a : Opnd) (s : State) : Outcome :=
  fp64Word (.dsqrt d a) [(.dst true, d), (.src true, a)] d (fun g k => f64.sqrt g.rm (g.rF64 a k)) s

end Sys2Proof.Machine
end

