-- ==== Sys2Proof/Machine/Integer.lean ====
section
/-!
DEFINITION. Integer arithmetic (R152).
-/
namespace Sys2Proof.Machine

/-- ADD (R152): modulo 2^32. -/
def addOp (a b : Word) : Word := a + b
def execAdd (d a b : Opnd) (s : State) : Outcome := bin32 (.add d a b) d a b addOp s

/-- SUB (R152): modulo 2^32. -/
def subOp (a b : Word) : Word := a - b
def execSub (d a b : Opnd) (s : State) : Outcome := bin32 (.sub d a b) d a b subOp s

/-- MUL (R152): the low 32 bits of the product. -/
def mulOp (a b : Word) : Word := a * b
def execMul (d a b : Opnd) (s : State) : Outcome := bin32 (.mul d a b) d a b mulOp s

/-- MULHI (R152): bits 63:32 of the signed product. -/
def mulhiOp (a b : Word) : Word := BitVec.ofInt 32 (a.toInt * b.toInt / 2 ^ 32)
def execMulhi (d a b : Opnd) (s : State) : Outcome := bin32 (.mulhi d a b) d a b mulhiOp s

/-- MULHU (R152): bits 63:32 of the unsigned product. -/
def mulhuOp (a b : Word) : Word := BitVec.ofNat 32 (a.toNat * b.toNat / 2 ^ 32)
def execMulhu (d a b : Opnd) (s : State) : Outcome := bin32 (.mulhu d a b) d a b mulhuOp s

/-- MIN (R152): signed. -/
def minOp (a b : Word) : Word := if a.slt b then a else b
def execMin (d a b : Opnd) (s : State) : Outcome := bin32 (.min d a b) d a b minOp s

/-- MAX (R152): signed. -/
def maxOp (a b : Word) : Word := if a.slt b then b else a
def execMax (d a b : Opnd) (s : State) : Outcome := bin32 (.max d a b) d a b maxOp s

/-- MINU (R152): unsigned. -/
def minuOp (a b : Word) : Word := if a < b then a else b
def execMinu (d a b : Opnd) (s : State) : Outcome := bin32 (.minu d a b) d a b minuOp s

/-- MAXU (R152): unsigned. -/
def maxuOp (a b : Word) : Word := if a < b then b else a
def execMaxu (d a b : Opnd) (s : State) : Outcome := bin32 (.maxu d a b) d a b maxuOp s

/-- ADDS (R152): saturating to 32 signed bits. -/
def addsOp (a b : Word) : Word := BitVec.ofInt 32 (Min.min (Max.max (a.toInt + b.toInt) (-2147483648)) 2147483647)
def execAdds (d a b : Opnd) (s : State) : Outcome := bin32 (.adds d a b) d a b addsOp s

/-- ADDI (R152): the sign-extended imm8 added. -/
def execAddi (d a : Opnd) (imm : BitVec 8) (s : State) : Outcome := un32 (.addi d a imm) d a (fun x => x + imm.signExtend 32) s

/-- MAD (R152): the low 32 bits of A × B + D; D is a source. -/
def madOp (a b d : Word) : Word := a * b + d
def execMad (d a b : Opnd) (s : State) : Outcome :=
  laneWord (.mad d a b) [(.both false, d), (.src false, a), (.src false, b)]
    (fun g k => g.res32 d (madOp (g.r32 a k) (g.r32 b k) (g.r32 d k))) s

/-- ABS (R152): the signed absolute value modulo 2^32. -/
def absOp (a : Word) : Word := if a.msb then -a else a
def execAbs (d a : Opnd) (s : State) : Outcome := un32 (.abs d a) d a absOp s

/-- ADD64 (R152): modulo 2^64, on pairs. -/
def execAdd64 (d a b : Opnd) (s : State) : Outcome := bin64 (.add64 d a b) d a b (fun a b => a + b) s

/-- SUB64 (R152): modulo 2^64, on pairs. -/
def execSub64 (d a b : Opnd) (s : State) : Outcome := bin64 (.sub64 d a b) d a b (fun a b => a - b) s

/-- MUL64 (R152): the low 64 bits of the product, on pairs. -/
def execMul64 (d a b : Opnd) (s : State) : Outcome := bin64 (.mul64 d a b) d a b (fun a b => a * b) s

end Sys2Proof.Machine
end

