-- ==== Sys2Proof/Machine/Logic.lean ====
section
/-!
DEFINITION. Logic, shifts and bit fields (R153, R154).
-/
namespace Sys2Proof.Machine

/-- AND (R153): bitwise and. -/
def andOp (a b : Word) : Word := a &&& b
def execAnd (d a b : Opnd) (s : State) : Outcome := bin32 (.and d a b) d a b andOp s

/-- OR (R153): bitwise or. -/
def orOp (a b : Word) : Word := a ||| b
def execOr (d a b : Opnd) (s : State) : Outcome := bin32 (.or d a b) d a b orOp s

/-- XOR (R153): bitwise exclusive-or. -/
def xorOp (a b : Word) : Word := a ^^^ b
def execXor (d a b : Opnd) (s : State) : Outcome := bin32 (.xor d a b) d a b xorOp s

/-- ANDN (R153): A and not B. -/
def andnOp (a b : Word) : Word := a &&& ~~~b
def execAndn (d a b : Opnd) (s : State) : Outcome := bin32 (.andn d a b) d a b andnOp s

/-- SHL (R153): 0 for B of 32 or more. -/
def shlOp (a b : Word) : Word := if 32 ≤ b.toNat then 0 else a <<< b.toNat
def execShl (d a b : Opnd) (s : State) : Outcome := bin32 (.shl d a b) d a b shlOp s

/-- SHR (R153): zero fill; 0 for B of 32 or more. -/
def shrOp (a b : Word) : Word := if 32 ≤ b.toNat then 0 else a >>> b.toNat
def execShr (d a b : Opnd) (s : State) : Outcome := bin32 (.shr d a b) d a b shrOp s

/-- SAR (R153): sign fill; all bits A[31] for B of 32 or more. -/
def sarOp (a b : Word) : Word := if 32 ≤ b.toNat then (if a.msb then 0xFFFFFFFF else 0) else a.sshiftRight b.toNat
def execSar (d a b : Opnd) (s : State) : Outcome := bin32 (.sar d a b) d a b sarOp s

/-- ROTL (R153): rotated left by B mod 32. -/
def rotlOp (a b : Word) : Word := a.rotateLeft (b.toNat % 32)
def execRotl (d a b : Opnd) (s : State) : Outcome := bin32 (.rotl d a b) d a b rotlOp s

/-- SHLI (R153): SHL by the zero-extended imm8, which decoding keeps below 32. -/
def execShli (d a : Opnd) (imm : BitVec 8) (s : State) : Outcome :=
  if 32#8 ≤ imm then gangWord (.shli d a imm) s fun _ => .trap illOpnd
  else un32 (.shli d a imm) d a (fun x => shlOp x (imm.setWidth 32)) s

/-- SHRI (R153): SHR by the zero-extended imm8, which decoding keeps below 32. -/
def execShri (d a : Opnd) (imm : BitVec 8) (s : State) : Outcome :=
  if 32#8 ≤ imm then gangWord (.shri d a imm) s fun _ => .trap illOpnd
  else un32 (.shri d a imm) d a (fun x => shrOp x (imm.setWidth 32)) s

/-- SARI (R153): SAR by the zero-extended imm8, which decoding keeps below 32. -/
def execSari (d a : Opnd) (imm : BitVec 8) (s : State) : Outcome :=
  if 32#8 ≤ imm then gangWord (.sari d a imm) s fun _ => .trap illOpnd
  else un32 (.sari d a imm) d a (fun x => sarOp x (imm.setWidth 32)) s

/-- NOT (R153). -/
def execNot (d a : Opnd) (s : State) : Outcome := un32 (.not d a) d a (fun x => ~~~x) s

/-- POPC (R153): the number of 1 bits. -/
def popcOp (a : Word) : Word := BitVec.ofNat 32 (popcount a)
def execPopc (d a : Opnd) (s : State) : Outcome := un32 (.popc d a) d a popcOp s

/-- CLZ (R153): the number of leading 0 bits, 32 for 0. -/
def clzOp (a : Word) : Word := BitVec.ofNat 32 (32 - bitLen a.toNat)
def execClz (d a : Opnd) (s : State) : Outcome := un32 (.clz d a) d a clzOp s

/-- BFE (R154): bits POS + LEN − 1 to POS, zero- or sign-extended. -/
def bfeOp (sx : Bool) (pos len : Nat) (a : Word) : Word :=
  let f := bits a pos len
  if sx && f.testBit (len - 1) then BitVec.ofNat 32 (f + 2 ^ 32 - 2 ^ len) else BitVec.ofNat 32 f
def execBfe (d a : Opnd) (sx : Bool) (pos : BitVec 5) (len : BitVec 6) (s : State) : Outcome :=
  un32 (.bfe d a sx pos len) d a (bfeOp sx pos.toNat len.toNat) s

/-- BFI (R154): the field of D replaced by the low bits of A; D is a source. -/
def bfiOp (pos len : Nat) (d a : Word) : Word := setBits d pos len (bits a 0 len)
def execBfi (d a : Opnd) (pos : BitVec 5) (len : BitVec 6) (s : State) : Outcome :=
  laneWord (.bfi d a pos len) [(.both false, d), (.src false, a)]
    (fun g k => g.res32 d (bfiOp pos.toNat len.toNat (g.r32 d k) (g.r32 a k))) s

end Sys2Proof.Machine
end

