-- ==== Sys2Proof/Machine/Moves.lean ====
section
/-!
DEFINITION. The moves and the select (R147, R148).
-/
namespace Sys2Proof.Machine

/-- NOP (R147): no effect; the latch is emptied. -/
def execNop (s : State) : Outcome := gangWord .nop s fun c => .done (s.put c (c.g.dropLatch c.act))

/-- MOV (R147). -/
def execMov (d a : Opnd) (s : State) : Outcome := un32 (.mov d a) d a id s

/-- MOVI (R147): the sign-extended imm16. -/
def execMovi (d : Opnd) (imm : BitVec 16) (s : State) : Outcome :=
  laneWord (.movi d imm) [(.dst false, d)] (fun g _ => g.res32 d (imm.signExtend 32)) s

/-- MOVH (R147): bits 31:16 replaced, bits 15:0 kept; D must be a register. -/
def execMovh (d : Opnd) (imm : BitVec 16) (s : State) : Outcome :=
  laneWord (.movh d imm) [(.named false, d)] (fun g k => g.res32 d (imm ++ field (g.r32 d k) 0 16)) s

/-- MOVW (R147): the extension word. -/
def execMovw (d : Opnd) (imm : Word) (s : State) : Outcome :=
  laneWord (.movw d imm) [(.dst false, d)] (fun g _ => g.res32 d imm) s

/-- SEL (R148). -/
def execSel (d a b : Opnd) (wide neg : Bool) (pred : BitVec 3) (s : State) : Outcome :=
  laneWord (.sel d a b wide neg pred) [(.dst wide, d), (.src wide, a), (.src wide, b)] (fun g k =>
    let p := (g.lane k).preds.getLsbD pred.toNat != neg
    if wide then g.res64 d (if p then g.r64 a k else g.r64 b k) else g.res32 d (if p then g.r32 a k else g.r32 b k)) s

end Sys2Proof.Machine
end

