-- ==== Sys2Proof/Machine/Random.lean ====
section
/-!
DEFINITION. Random numbers, time and trace (R187 to R190).
-/
namespace Sys2Proof.Machine

/-- The next RAND state (R188). -/
def randNext (st : DWord) : DWord := st + 0x9E3779B97F4A7C15

/-- The 32 bits that a RAND state gives (R188). -/
def randOut (z : DWord) : Word :=
  let z := (z ^^^ (z >>> 30)) * 0xBF58476D1CE4E5B9
  let z := (z ^^^ (z >>> 27)) * 0x94D049BB133111EB
  field (z ^^^ (z >>> 31)) 32 32

/-- RAND (R188). -/
def execRand (d : Opnd) (s : State) : Outcome :=
  laneWord (.rand d) [(.dst false, d)] (fun g i l =>
    let st := randNext (g.lane i).rand
    { g.res32 d (randOut st) l with rand := st }) s

/-- RSEED (R188). -/
def execRseed (a : Opnd) (s : State) : Outcome :=
  laneWord (.rseed a) [(.src true, a)] (fun g i l => { l with rand := g.r64 a i, latch := none }) s

/-- TIME (R189): one instant for the whole instruction. -/
def execTime (d : Opnd) (s : State) : Outcome :=
  laneWord (.time d) [(.dst true, d)] (fun g _ => g.res64 d s.pkg.time) s

/-- CYCLE (R189). -/
def execCycle (d : Opnd) (s : State) : Outcome :=
  gangWord (.cycle d) s fun c =>
    match c.check [(.dst true, d)] with
    | some t => .trap t
    | none => .done (s.put c (c.g.mapLanes c.act fun _ => c.g.res64 d (s.cycle c.g.core)))

/-- TRACE (R190): the 16 bytes of A to A + 3 of the lowest taking-part lane. -/
def execTrace (a : Opnd) (tag : BitVec 16) (s : State) : Outcome :=
  gangWord (.trace a tag) s fun c =>
    if 220#8 < a || (c.g.place c.g.vbNow (4 * a.toNat) 16).isNone then .trap illOpnd
    else match c.g.poisonAt [c.low] a 4 with
      | some p => .trap { code := cPOISON, arg := some (BitVec.ofNat 64 p.1), lanes := some (maskOf p.2) }
      | none =>
        let bytes := (List.range 4).flatMap fun j => leBytes 4 (c.g.vReg (c.g.lane c.low) (a.toNat + j)).toNat
        .done ((s.put c (c.g.dropLatch c.act)).trace (16 + c.g.die) 0 (coreNum c.g.core) 1 tag.toNat bytes)

end Sys2Proof.Machine
end

