-- ==== Sys2Proof/Machine/Dispatch.lean ====
section
/-! DEFINITION. The meaning of every step: one arm per constructor, each one call of its meaning. -/
namespace Sys2Proof.Machine

def exec (i : Instr) (s : State) : Host.Outcome State Fault Refusal :=
  match i with
  | .clauseIssue hdr => Sys2Proof.Machine.execClauseIssue hdr s
  | .issueAgePromotion gang entry => Sys2Proof.Machine.execIssueAgePromotion gang entry s
  | .nop => Sys2Proof.Machine.execNop s
  | .mov d a => Sys2Proof.Machine.execMov d a s
  | .movi d imm => Sys2Proof.Machine.execMovi d imm s
  | .movh d imm => Sys2Proof.Machine.execMovh d imm s
  | .movw d imm => Sys2Proof.Machine.execMovw d imm s
  | .sel d a b wide neg pred => Sys2Proof.Machine.execSel d a b wide neg pred s
  | .view which imm => Sys2Proof.Machine.execView which imm s
  | .rdsr d num => Sys2Proof.Machine.execRdsr d num s
  | .wrsr d num => Sys2Proof.Machine.execWrsr d num s
  | .add d a b => Sys2Proof.Machine.execAdd d a b s
  | .sub d a b => Sys2Proof.Machine.execSub d a b s
  | .addi d a imm => Sys2Proof.Machine.execAddi d a imm s
  | .mul d a b => Sys2Proof.Machine.execMul d a b s
  | .mulhi d a b => Sys2Proof.Machine.execMulhi d a b s
  | .mulhu d a b => Sys2Proof.Machine.execMulhu d a b s
  | .mad d a b => Sys2Proof.Machine.execMad d a b s
  | .add64 d a b => Sys2Proof.Machine.execAdd64 d a b s
  | .sub64 d a b => Sys2Proof.Machine.execSub64 d a b s
  | .mul64 d a b => Sys2Proof.Machine.execMul64 d a b s
  | .min d a b => Sys2Proof.Machine.execMin d a b s
  | .max d a b => Sys2Proof.Machine.execMax d a b s
  | .minu d a b => Sys2Proof.Machine.execMinu d a b s
  | .maxu d a b => Sys2Proof.Machine.execMaxu d a b s
  | .abs d a => Sys2Proof.Machine.execAbs d a s
  | .adds d a b => Sys2Proof.Machine.execAdds d a b s
  | .and d a b => Sys2Proof.Machine.execAnd d a b s
  | .or d a b => Sys2Proof.Machine.execOr d a b s
  | .xor d a b => Sys2Proof.Machine.execXor d a b s
  | .andn d a b => Sys2Proof.Machine.execAndn d a b s
  | .not d a => Sys2Proof.Machine.execNot d a s
  | .shl d a b => Sys2Proof.Machine.execShl d a b s
  | .shr d a b => Sys2Proof.Machine.execShr d a b s
  | .sar d a b => Sys2Proof.Machine.execSar d a b s
  | .shli d a imm => Sys2Proof.Machine.execShli d a imm s
  | .shri d a imm => Sys2Proof.Machine.execShri d a imm s
  | .sari d a imm => Sys2Proof.Machine.execSari d a imm s
  | .rotl d a b => Sys2Proof.Machine.execRotl d a b s
  | .popc d a => Sys2Proof.Machine.execPopc d a s
  | .clz d a => Sys2Proof.Machine.execClz d a s
  | .bfe d a sx pos len => Sys2Proof.Machine.execBfe d a sx pos len s
  | .bfi d a pos len => Sys2Proof.Machine.execBfi d a pos len s
  | .cmpeq d a b => Sys2Proof.Machine.execCmpeq d a b s
  | .cmpne d a b => Sys2Proof.Machine.execCmpne d a b s
  | .cmplt d a b => Sys2Proof.Machine.execCmplt d a b s
  | .cmple d a b => Sys2Proof.Machine.execCmple d a b s
  | .cmpltu d a b => Sys2Proof.Machine.execCmpltu d a b s
  | .cmpleu d a b => Sys2Proof.Machine.execCmpleu d a b s
  | .fcmpeq d a b => Sys2Proof.Machine.execFcmpeq d a b s
  | .fcmplt d a b => Sys2Proof.Machine.execFcmplt d a b s
  | .fcmple d a b => Sys2Proof.Machine.execFcmple d a b s
  | .fcmpun d a b => Sys2Proof.Machine.execFcmpun d a b s
  | .pand d a b => Sys2Proof.Machine.execPand d a b s
  | .por d a b => Sys2Proof.Machine.execPor d a b s
  | .pxor d a b => Sys2Proof.Machine.execPxor d a b s
  | .pnot d a => Sys2Proof.Machine.execPnot d a s
  | .p2v d a => Sys2Proof.Machine.execP2v d a s
  | .v2p d a => Sys2Proof.Machine.execV2p d a s
  | .fadd d a b => Sys2Proof.Machine.execFadd d a b s
  | .fsub d a b => Sys2Proof.Machine.execFsub d a b s
  | .fmul d a b => Sys2Proof.Machine.execFmul d a b s
  | .ffma d a b => Sys2Proof.Machine.execFfma d a b s
  | .fmin d a b => Sys2Proof.Machine.execFmin d a b s
  | .fmax d a b => Sys2Proof.Machine.execFmax d a b s
  | .fabs d a => Sys2Proof.Machine.execFabs d a s
  | .fneg d a => Sys2Proof.Machine.execFneg d a s
  | .frcp d a => Sys2Proof.Machine.execFrcp d a s
  | .frsq d a => Sys2Proof.Machine.execFrsq d a s
  | .fsqrt d a => Sys2Proof.Machine.execFsqrt d a s
  | .fdiv d a b => Sys2Proof.Machine.execFdiv d a b s
  | .flog2 d a => Sys2Proof.Machine.execFlog2 d a s
  | .fexp2 d a => Sys2Proof.Machine.execFexp2 d a s
  | .fln d a => Sys2Proof.Machine.execFln d a s
  | .fexp d a => Sys2Proof.Machine.execFexp d a s
  | .dadd d a b => Sys2Proof.Machine.execDadd d a b s
  | .dsub d a b => Sys2Proof.Machine.execDsub d a b s
  | .dmul d a b => Sys2Proof.Machine.execDmul d a b s
  | .dfma d a b => Sys2Proof.Machine.execDfma d a b s
  | .dmin d a b => Sys2Proof.Machine.execDmin d a b s
  | .dmax d a b => Sys2Proof.Machine.execDmax d a b s
  | .ddiv d a b => Sys2Proof.Machine.execDdiv d a b s
  | .dsqrt d a => Sys2Proof.Machine.execDsqrt d a s
  | .dcmpeq d a b => Sys2Proof.Machine.execDcmpeq d a b s
  | .dcmplt d a b => Sys2Proof.Machine.execDcmplt d a b s
  | .dcmple d a b => Sys2Proof.Machine.execDcmple d a b s
  | .dcmpun d a b => Sys2Proof.Machine.execDcmpun d a b s
  | .cvt d a dyn rnd src dst => Sys2Proof.Machine.execCvt d a dyn rnd src dst s
  | .pkln6 d a b j => Sys2Proof.Machine.execPkln6 d a b j s
  | .upln6 d a b j => Sys2Proof.Machine.execUpln6 d a b j s
  | .frnd d a wide dyn rnd => Sys2Proof.Machine.execFrnd d a wide dyn rnd s
  | .shfl d a b wide pv => Sys2Proof.Machine.execShfl d a b wide pv s
  | .shflup d a b wide pv => Sys2Proof.Machine.execShflup d a b wide pv s
  | .shfldn d a b wide pv => Sys2Proof.Machine.execShfldn d a b wide pv s
  | .shflx d a b wide pv => Sys2Proof.Machine.execShflx d a b wide pv s
  | .voteall d a => Sys2Proof.Machine.execVoteall d a s
  | .voteany d a => Sys2Proof.Machine.execVoteany d a s
  | .ballot d a => Sys2Proof.Machine.execBallot d a s
  | .gred d a wide op => Sys2Proof.Machine.execGred d a wide op s
  | .gscan d a wide op => Sys2Proof.Machine.execGscan d a wide op s
  | .matchLanes d a => Sys2Proof.Machine.execMatchLanes d a s
  | .split d w => Sys2Proof.Machine.execSplit d w s
  | .fuse d => Sys2Proof.Machine.execFuse d s
  | .fusetmoExpiry gang entry => Sys2Proof.Machine.execFusetmoExpiry gang entry s
  | .converge => Sys2Proof.Machine.execConverge s
  | .bra disp => Sys2Proof.Machine.execBra disp s
  | .brp neg pred disp => Sys2Proof.Machine.execBrp neg pred disp s
  | .bru neg pred disp => Sys2Proof.Machine.execBru neg pred disp s
  | .brx a => Sys2Proof.Machine.execBrx a s
  | .call disp => Sys2Proof.Machine.execCall disp s
  | .callx d a => Sys2Proof.Machine.execCallx d a s
  | .ret a => Sys2Proof.Machine.execRet a s
  | .exit => Sys2Proof.Machine.execExit s
  | .gangEnd gang => Sys2Proof.Machine.execGangEnd gang s
  | .trap imm => Sys2Proof.Machine.execTrap imm s
  | .rtt => Sys2Proof.Machine.execRtt s
  | .mcall n b params => Sys2Proof.Machine.execMcall n b params s
  | .fork d a b ctr => Sys2Proof.Machine.execFork d a b ctr s
  | .joine d mode => Sys2Proof.Machine.execJoine d mode s
  | .doze a => Sys2Proof.Machine.execDoze a s
  | .dozeWake gang entry => Sys2Proof.Machine.execDozeWake gang entry s
  | .yield => Sys2Proof.Machine.execYield s
  | .brk => Sys2Proof.Machine.execBrk s
  | .ldt d a ctr size => Sys2Proof.Machine.execLdt d a ctr size s
  | .stt d a ctr size => Sys2Proof.Machine.execStt d a ctr size s
  | .atomt d a b wide op ctr => Sys2Proof.Machine.execAtomt d a b wide op ctr s
  | .ldsp d a ctr size => Sys2Proof.Machine.execLdsp d a ctr size s
  | .stsp d a ctr size => Sys2Proof.Machine.execStsp d a ctr size s
  | .ldp d a ctr size => Sys2Proof.Machine.execLdp d a ctr size s
  | .stp d a ctr size => Sys2Proof.Machine.execStp d a ctr size s
  | .ringrot d a b logs logn ctr => Sys2Proof.Machine.execRingrot d a b logs logn ctr s
  | .ldg d a ctr size gx => Sys2Proof.Machine.execLdg d a ctr size gx s
  | .stg d a ctr size gx => Sys2Proof.Machine.execStg d a ctr size gx s
  | .atomg d a ctr size gx => Sys2Proof.Machine.execAtomg d a ctr size gx s
  | .faddg d a ctr size gx => Sys2Proof.Machine.execFaddg d a ctr size gx s
  | .casg d a ctr size gx => Sys2Proof.Machine.execCasg d a ctr size gx s
  | .prefg a ctr size gx => Sys2Proof.Machine.execPrefg a ctr size gx s
  | .accessComplete op => Sys2Proof.Machine.execAccessComplete op s
  | .waitc ctr n => Sys2Proof.Machine.execWaitc ctr n s
  | .fence scope => Sys2Proof.Machine.execFence scope s
  | .acq d a ctr gx => Sys2Proof.Machine.execAcq d a ctr gx s
  | .rel d a ctr gx => Sys2Proof.Machine.execRel d a ctr gx s
  | .bind d a b scope => Sys2Proof.Machine.execBind d a b scope s
  | .unbind a => Sys2Proof.Machine.execUnbind a s
  | .tokacq d a ex ctr => Sys2Proof.Machine.execTokacq d a ex ctr s
  | .tokrel d a => Sys2Proof.Machine.execTokrel d a s
  | .tokqry d a => Sys2Proof.Machine.execTokqry d a s
  | .coll d a b sock ctr => Sys2Proof.Machine.execColl d a b sock ctr s
  | .bar k pub n4 => Sys2Proof.Machine.execBar k pub n4 s
  | .bararv k pub n4 => Sys2Proof.Machine.execBararv k pub n4 s
  | .barwt k => Sys2Proof.Machine.execBarwt k s
  | .mbinit d a ctr => Sys2Proof.Machine.execMbinit d a ctr s
  | .mbarv d a ctr => Sys2Proof.Machine.execMbarv d a ctr s
  | .mbwait d a => Sys2Proof.Machine.execMbwait d a s
  | .bseal d => Sys2Proof.Machine.execBseal d s
  | .bwait d imm => Sys2Proof.Machine.execBwait d imm s
  | .clbar pub => Sys2Proof.Machine.execClbar pub s
  | .signal a b => Sys2Proof.Machine.execSignal a b s
  | .shbegin vbase n => Sys2Proof.Machine.execShbegin vbase n s
  | .accept d a b natural => Sys2Proof.Machine.execAccept d a b natural s
  | .shabort => Sys2Proof.Machine.execShabort s
  | .shread d a => Sys2Proof.Machine.execShread d a s
  | .rand d => Sys2Proof.Machine.execRand d s
  | .rseed a => Sys2Proof.Machine.execRseed a s
  | .accrd d => Sys2Proof.Machine.execAccrd d s
  | .accclr => Sys2Proof.Machine.execAccclr s
  | .time d => Sys2Proof.Machine.execTime d s
  | .trace a tag => Sys2Proof.Machine.execTrace a tag s
  | .cycle d => Sys2Proof.Machine.execCycle d s
  | .xsave a => Sys2Proof.Machine.execXsave a s
  | .xrstr a => Sys2Proof.Machine.execXrstr a s
  | .splrd d a => Sys2Proof.Machine.execSplrd d a s
  | .splwr a b => Sys2Proof.Machine.execSplwr a b s
  | .replv a => Sys2Proof.Machine.execReplv a s
  | .tlbinv a b => Sys2Proof.Machine.execTlbinv a b s
  | .shsave a => Sys2Proof.Machine.execShsave a s
  | .shrstr a => Sys2Proof.Machine.execShrstr a s
  | .mstore a b => Sys2Proof.Machine.execMstore a b s
  | .drainlimExpiry ctx => Sys2Proof.Machine.execDrainlimExpiry ctx s
  | .preemptEntry gang => Sys2Proof.Machine.execPreemptEntry gang s
  | .forcedSaveHeldTimeout ctx => Sys2Proof.Machine.execForcedSaveHeldTimeout ctx s
  | .handlerRttTimeout ctx => Sys2Proof.Machine.execHandlerRttTimeout ctx s
  | .tmma acc tile bsrc f ctr mode => Sys2Proof.Machine.execTmma acc tile bsrc f ctr mode s
  | .tgmma acc tile bsrc f ctr mode => Sys2Proof.Machine.execTgmma acc tile bsrc f ctr mode s
  | .tzero acc ctr => Sys2Proof.Machine.execTzero acc ctr s
  | .tld tile bsrc ctr mode => Sys2Proof.Machine.execTld tile bsrc ctr mode s
  | .tst tile bsrc ctr mode => Sys2Proof.Machine.execTst tile bsrc ctr mode s
  | .accst acc bsrc ctr mode => Sys2Proof.Machine.execAccst acc bsrc ctr mode s
  | .accld acc bsrc ctr mode => Sys2Proof.Machine.execAccld acc bsrc ctr mode s
  | .tamax acc bsrc ctr mode => Sys2Proof.Machine.execTamax acc bsrc ctr mode s
  | .ttrans bsrc f ctr => Sys2Proof.Machine.execTtrans bsrc f ctr s
  | .tbmap bsrc f ctr => Sys2Proof.Machine.execTbmap bsrc f ctr s
  | .strdef f ctr => Sys2Proof.Machine.execStrdef f ctr s
  | .strsub bsrc f ctr => Sys2Proof.Machine.execStrsub bsrc f ctr s
  | .stradv bsrc ctr => Sys2Proof.Machine.execStradv bsrc ctr s
  | .strunsub bsrc ctr => Sys2Proof.Machine.execStrunsub bsrc ctr s
  | .mloop => Sys2Proof.Machine.execMloop s
  | .mend => Sys2Proof.Machine.execMend s
  | .mresume f ctr => Sys2Proof.Machine.execMresume f ctr s
  | .msave f ctr release => Sys2Proof.Machine.execMsave f ctr release s
  | .quarterOpComplete op => Sys2Proof.Machine.execQuarterOpComplete op s
  | .tileStep core => Sys2Proof.Machine.execTileStep core s
  | .matrixHang core => Sys2Proof.Machine.execMatrixHang core s
  | .prismTileWrite team handle => Sys2Proof.Machine.execPrismTileWrite team handle s
  | .copy d a ctr sealed => Sys2Proof.Machine.execCopy d a ctr sealed s
  | .copyt d a ctr sealed => Sys2Proof.Machine.execCopyt d a ctr sealed s
  | .copyg d a ctr sealed => Sys2Proof.Machine.execCopyg d a ctr sealed s
  | .copys d a ctr sealed => Sys2Proof.Machine.execCopys d a ctr sealed s
  | .copym d a ctr sealed => Sys2Proof.Machine.execCopym d a ctr sealed s
  | .copyn d a ctr sealed => Sys2Proof.Machine.execCopyn d a ctr sealed s
  | .fill d a ctr sealed => Sys2Proof.Machine.execFill d a ctr sealed s
  | .chain d a ctr sealed => Sys2Proof.Machine.execChain d a ctr sealed s
  | .chstat d a ctr sealed => Sys2Proof.Machine.execChstat d a ctr sealed s
  | .chabort d a ctr sealed => Sys2Proof.Machine.execChabort d a ctr sealed s
  | .migr d a ctr sealed => Sys2Proof.Machine.execMigr d a ctr sealed s
  | .copyr d a ctr sealed => Sys2Proof.Machine.execCopyr d a ctr sealed s
  | .copyJobComplete op => Sys2Proof.Machine.execCopyJobComplete op s
  | .chainRecordStep die chan => Sys2Proof.Machine.execChainRecordStep die chan s
  | .copymReceiverArrive op rank => Sys2Proof.Machine.execCopymReceiverArrive op rank s
  | .netPacketReceive p => Sys2Proof.Machine.execNetPacketReceive p s
  | .netAckReceive msg pkt data => Sys2Proof.Machine.execNetAckReceive msg pkt data s
  | .negativeAck msg => Sys2Proof.Machine.execNegativeAck msg s
  | .netRetryTimeout msg => Sys2Proof.Machine.execNetRetryTimeout msg s
  | .cmovi xd sh imm => Sys2Proof.Machine.execCmovi xd sh imm s
  | .caddi xd xa imm => Sys2Proof.Machine.execCaddi xd xa imm s
  | .cadd xd xa xb => Sys2Proof.Machine.execCadd xd xa xb s
  | .cld xd xa imm => Sys2Proof.Machine.execCld xd xa imm s
  | .cst xa xb imm => Sys2Proof.Machine.execCst xa xb imm s
  | .cldl ld xa imm => Sys2Proof.Machine.execCldl ld xa imm s
  | .cstl xa lb imm => Sys2Proof.Machine.execCstl xa lb imm s
  | .cvop ld la lb k => Sys2Proof.Machine.execCvop ld la lb k s
  | .copen xd xa xb k base => Sys2Proof.Machine.execCopen xd xa xb k base s
  | .ccont xd xa lb => Sys2Proof.Machine.execCcont xd xa lb s
  | .cwait xd xa => Sys2Proof.Machine.execCwait xd xa s
  | .cres ld xa => Sys2Proof.Machine.execCres ld xa s
  | .cstat xd xa which => Sys2Proof.Machine.execCstat xd xa which s
  | .csend xd xa lb => Sys2Proof.Machine.execCsend xd xa lb s
  | .crecv ld xa xb => Sys2Proof.Machine.execCrecv ld xa xb s
  | .cbz xa disp => Sys2Proof.Machine.execCbz xa disp s
  | .cbnz xa disp => Sys2Proof.Machine.execCbnz xa disp s
  | .cbra disp => Sys2Proof.Machine.execCbra disp s
  | .csig xa => Sys2Proof.Machine.execCsig xa s
  | .cfree xa => Sys2Proof.Machine.execCfree xa s
  | .cend => Sys2Proof.Machine.execCend s
  | .attarStart sock => Sys2Proof.Machine.execAttarStart sock s
  | .contributionAccept sock m => Sys2Proof.Machine.execContributionAccept sock m s
  | .slotDeadline sock slot => Sys2Proof.Machine.execSlotDeadline sock slot s
  | .contributionRetry sock ctx => Sys2Proof.Machine.execContributionRetry sock ctx s
  | .messageStore sock m => Sys2Proof.Machine.execMessageStore sock m s
  | .messageExpiry sock => Sys2Proof.Machine.execMessageExpiry sock s
  | .crecvTimeout sock ctx => Sys2Proof.Machine.execCrecvTimeout sock ctx s
  | .routerPacketArrive router inPort p => Sys2Proof.Machine.execRouterPacketArrive router inPort p s
  | .outputGrant router out => Sys2Proof.Machine.execOutputGrant router out s
  | .echoReply router p => Sys2Proof.Machine.execEchoReply router p s
  | .failedReply router p => Sys2Proof.Machine.execFailedReply router p s
  | .linkFlitReceive router port flit crcOk => Sys2Proof.Machine.execLinkFlitReceive router port flit crcOk s
  | .linkRetrain router port => Sys2Proof.Machine.execLinkRetrain router port s
  | .linkDown router port => Sys2Proof.Machine.execLinkDown router port s
  | .routeRecompute => Sys2Proof.Machine.execRouteRecompute s
  | .responseTimeout tag => Sys2Proof.Machine.execResponseTimeout tag s
  | .memoryRequest sock p => Sys2Proof.Machine.execMemoryRequest sock p s
  | .tokenAcquireRequest sock p => Sys2Proof.Machine.execTokenAcquireRequest sock p s
  | .tokenRecall call => Sys2Proof.Machine.execTokenRecall call s
  | .recallAck sock pkg region => Sys2Proof.Machine.execRecallAck sock pkg region s
  | .scrubArrays sock => Sys2Proof.Machine.execScrubArrays sock s
  | .scrubDram sock => Sys2Proof.Machine.execScrubDram sock s
  | .hostWrite fn addr bytes => Sys2Proof.Machine.execHostWrite fn addr bytes s
  | .hostRead fn addr len => Sys2Proof.Machine.execHostRead fn addr len s
  | .doorbell die queue w => Sys2Proof.Machine.execDoorbell die queue w s
  | .queueEnable die queue => Sys2Proof.Machine.execQueueEnable die queue s
  | .queueDisable die queue => Sys2Proof.Machine.execQueueDisable die queue s
  | .queueRecordWrite die queue off fn bytes => Sys2Proof.Machine.execQueueRecordWrite die queue off fn bytes s
  | .packetProcessorStep die => Sys2Proof.Machine.execPacketProcessorStep die s
  | .waitsigTimeout die queue => Sys2Proof.Machine.execWaitsigTimeout die queue s
  | .launchComplete die launch => Sys2Proof.Machine.execLaunchComplete die launch s
  | .completionRecordRetry die ctx => Sys2Proof.Machine.execCompletionRecordRetry die ctx s
  | .bindRecordWrite die slot r => Sys2Proof.Machine.execBindRecordWrite die slot r s
  | .teamDispatch die => Sys2Proof.Machine.execTeamDispatch die s
  | .contextValidSet die ctx => Sys2Proof.Machine.execContextValidSet die ctx s
  | .contextValidClear die ctx => Sys2Proof.Machine.execContextValidClear die ctx s
  | .contextRecordWrite die ctx off bytes => Sys2Proof.Machine.execContextRecordWrite die ctx off bytes s
  | .faultReplay die seq => Sys2Proof.Machine.execFaultReplay die seq s
  | .faultCancel die seq => Sys2Proof.Machine.execFaultCancel die seq s
  | .mmioRegisterWrite sock off fn bytes => Sys2Proof.Machine.execMmioRegisterWrite sock off fn bytes s
  | .powerRead m => Sys2Proof.Machine.execPowerRead m s
  | .powerPackageLimit m => Sys2Proof.Machine.execPowerPackageLimit m s
  | .powerIslandLimit m => Sys2Proof.Machine.execPowerIslandLimit m s
  | .powerDieDown m => Sys2Proof.Machine.execPowerDieDown m s
  | .powerDieUp m => Sys2Proof.Machine.execPowerDieUp m s
  | .resetDrain m => Sys2Proof.Machine.execResetDrain m s
  | .resetCore m => Sys2Proof.Machine.execResetCore m s
  | .resetMatrixEngine m => Sys2Proof.Machine.execResetMatrixEngine m s
  | .resetDie m => Sys2Proof.Machine.execResetDie m s
  | .dieResetComplete die => Sys2Proof.Machine.execDieResetComplete die s
  | .resetBaseDie m => Sys2Proof.Machine.execResetBaseDie m s
  | .resetPackage m => Sys2Proof.Machine.execResetPackage m s
  | .resetTlbinv m => Sys2Proof.Machine.execResetTlbinv m s
  | .functionLevelReset fn => Sys2Proof.Machine.execFunctionLevelReset fn s
  | .fundamentalReset => Sys2Proof.Machine.execFundamentalReset s
  | .errlogRead m => Sys2Proof.Machine.execErrlogRead m s
  | .errlogCounters m => Sys2Proof.Machine.execErrlogCounters m s
  | .errlogClear m => Sys2Proof.Machine.execErrlogClear m s
  | .timeStatus m => Sys2Proof.Machine.execTimeStatus m s
  | .timeStep m => Sys2Proof.Machine.execTimeStep m s
  | .timeLoad m => Sys2Proof.Machine.execTimeLoad m s
  | .timePortSelect m => Sys2Proof.Machine.execTimePortSelect m s
  | .ptpSync offset ppb master => Sys2Proof.Machine.execPtpSync offset ppb master s
  | .ioDieFailover => Sys2Proof.Machine.execIoDieFailover s
  | .keysLoad m keys secured => Sys2Proof.Machine.execKeysLoad m keys secured s
  | .keysClear m => Sys2Proof.Machine.execKeysClear m s
  | .keysRead m => Sys2Proof.Machine.execKeysRead m s
  | .telemetrySetRing m => Sys2Proof.Machine.execTelemetrySetRing m s
  | .telemetryDrain m => Sys2Proof.Machine.execTelemetryDrain m s
  | .telemetryRead m => Sys2Proof.Machine.execTelemetryRead m s
  | .routesSetPkg m => Sys2Proof.Machine.execRoutesSetPkg m s
  | .routesWrite m => Sys2Proof.Machine.execRoutesWrite m s
  | .routesAgemax m => Sys2Proof.Machine.execRoutesAgemax m s
  | .routesPartitionMap m => Sys2Proof.Machine.execRoutesPartitionMap m s
  | .migrationThreshold m => Sys2Proof.Machine.execMigrationThreshold m s
  | .migrationReadCounters m => Sys2Proof.Machine.execMigrationReadCounters m s
  | .getVersion req => Sys2Proof.Machine.execGetVersion req s
  | .getCapabilities req => Sys2Proof.Machine.execGetCapabilities req s
  | .negotiateAlgorithms req => Sys2Proof.Machine.execNegotiateAlgorithms req s
  | .getDigests req => Sys2Proof.Machine.execGetDigests req s
  | .getCertificate req => Sys2Proof.Machine.execGetCertificate req s
  | .challenge req => Sys2Proof.Machine.execChallenge req s
  | .getMeasurements req => Sys2Proof.Machine.execGetMeasurements req s
  | .keyExchange req => Sys2Proof.Machine.execKeyExchange req s
  | .finish req => Sys2Proof.Machine.execFinish req s
  | .endSession req => Sys2Proof.Machine.execEndSession req s
  | .ideKm fn stream key => Sys2Proof.Machine.execIdeKm fn stream key s
  | .firmwareImageWrite image signed => Sys2Proof.Machine.execFirmwareImageWrite image signed s
  | .powerGood => Sys2Proof.Machine.execPowerGood s
  | .tdispMessage fn req => Sys2Proof.Machine.execTdispMessage fn req s
  | .baseDieResetComplete sock => Sys2Proof.Machine.execBaseDieResetComplete sock s
  | .coreResetComplete core => Sys2Proof.Machine.execCoreResetComplete core s
  | .governorClockChange island mhz => Sys2Proof.Machine.execGovernorClockChange island mhz s

end Sys2Proof.Machine
end

