-- ==== Sys2Proof/Machine/Fetch.lean ====
section
/-!
DEFINITION. The issue of one instruction: fetch and decode at the position of a split (R22 to R29, R46, R49) and of an Attar context (R329, R332),
and the selection of the split or the context that issues (R107, R329).
-/
namespace Sys2Proof.Machine

/-- A failed fetch: its code and cause, at the address that could not be fetched (R29). [DEDUCED, log entry 20] -/
def fetchTrap (e : Nat × Nat) (va : DWord) : Trap := accessTrap e va 4

/-- The extension word at a position whose word takes one, where it lies within the clause or the microprogram (R25, R47). [DEDUCED, log entry 20] -/
def State.extensionOf (s : State) (c : Issue) (cls : Nat) (w : Word) : Except Trap (Option Word) :=
  if wordLen cls w ≠ 2 then .ok none
  else if c.sp.mvalid then .ok c.sp.mprog[c.sp.midx + 1]?
  else if c.sp.count ≤ c.sp.widx + 1 then .ok none
  else match s.fetch c.g.die c.g.ctx (c.sp.pc + 4) with
    | .error e => .error (fetchTrap e (c.sp.pc + 4))
    | .ok gx => .ok (some gx)

/-- The word at a position: of the microprogram after substitution (R46), or of the clause in memory (R29). [DEDUCED, log entry 13] -/
def State.wordOf (s : State) (c : Issue) : Except Trap Word :=
  if c.sp.mvalid then .ok (substWord c.sp.mparams (c.sp.mprog.getD c.sp.midx 0))
  else match s.fetch c.g.die c.g.ctx c.sp.pc with
    | .error e => .error (fetchTrap e c.sp.pc)
    | .ok w => .ok w

/-- The trap of a rejected word (R49). -/
def Reject.trap : Reject → Trap
  | .illOp => illOp
  | .illOpnd => illOpnd
  | .illClause => illClause

/-- The word and extension of a trap's argument (R402). [DEDUCED, log entry 13] -/
def withArg (t : Trap) (w : Word) (gx : Option Word) : Trap := { t with arg := some (wordArg (w :: gx.toList)) }

/-- Whether a gang word's opcode is one of R40's privileged ones. [DEDUCED, log entry 46] -/
def privOpcode (cls : Nat) (w : Word) : Bool := cls == 0 && decide (0xC0 ≤ bits w 24 8) && decide (bits w 24 8 ≤ 0xC8)

/-- The instruction at a split's position, or the trap that the word raises before it executes: a control transfer or an MCALL that is both malformed and
misplaced (R26, R47, R49) raises what the malformed word raises. [DEDUCED, log entries 20 and 46] -/
def State.fetched (s : State) (c : Issue) : Except Trap Instr :=
  let cls := bits c.sp.hdr 25 3
  match s.wordOf c with
  | .error t => .error t
  | .ok w =>
    match s.extensionOf c cls w with
    | .error t => .error t
    | .ok gx =>
      if privOpcode cls w && !c.g.privileged then .error (withArg priv w gx)
      else match decodeWord cls w gx with
        | .error r => .error (withArg (Reject.trap r) w gx)
        | .ok i => .ok i

/-- The issue of the split at the cursor (R22, R23, R84): what is left of its return from a handler, a clause header, or the next word of its clause; a word
in which no lane takes part has no effect. -/
def State.issueSplit (s : State) : Outcome :=
  match s.issuer with
  | none => .next s
  | some c =>
    match c.sp.resume with
    | some skip => .next (s.resumeSplit c skip)
    | none =>
    if !c.sp.incl then
      match s.fetch c.g.die c.g.ctx c.sp.pc with
      | .error e => .next (s.raise c 0 { fetchTrap e c.sp.pc with lanes := some c.sp.mask })
      | .ok w => exec (.clauseIssue w) s
    else if c.act = [] then .next (s.advance c.key c.idx 1)
    else match s.fetched c with
      | .error t => .next (s.raise c 0 t)
      | .ok i => exec i s

/-- The last word index of an Attar engine's program memory (R332). -/
def lastWord : Nat := 16383

/-- The issue of the Attar context at the cursor (R329, R332): a clause header, or the next word of its clause. -/
def State.issueAttar (s : State) : Outcome :=
  match s.attarTurn with
  | none => .next s
  | some t =>
    let w := tgetD (s.base t.sock).prog t.x.pc 0
    if t.x.left = 0 then
      match decodeCollHeader w with
      | none => .next (s.attarTrap t.sock t.k cILLCLAUSE 0)
      | some n =>
        if lastWord < t.x.pc + n then .next (s.attarTrap t.sock t.k cILLCLAUSE 0)
        else .next (s.setACtx t.sock t.k { t.x with
          hdr := t.x.pc
          left := n
          pc := t.x.pc + 1 })
    else match decodeWord 3 w none with
      | .error r => .next (s.attarTrap t.sock t.k (Reject.trap r).code 0)
      | .ok i => exec i s

/-- The machine issuing for a split. -/
def State.atSplit (s : State) (key idx : Nat) : State := { s with cursor := .gang key idx }

/-- The split of an entry. -/
def State.splitAt (s : State) (key idx : Nat) : Option Split := (s.gang key).bind fun g => g.split idx

/-- Whether issuing a split would leave it as it is, held by a wait that is not satisfied: it needs no answer either. -/
def State.stuck (s : State) (key idx : Nat) (sp : Split) : Bool :=
  match (s.atSplit key idx).issueSplit with
  | .next s' => s'.asks == [] && (s'.splitAt key idx == some sp || s'.splitAt key idx == some { sp with hold := .wait })
  | _ => true

/-- Whether a split is ready (R107): it issues, or what it waits for, a clause wait included, has come. -/
def State.ready (s : State) (key : Nat) (g : Gang) (idx : Nat) (sp : Split) : Bool :=
  if g.pendingTrap.isSome || s.awaits (.gang key idx) then false
  else match sp.resume with
  | some skip => skip || !g.frozen
  | none =>
  if g.frozen then false
  else match sp.hold with
    | .run => sp.incl || !s.stuck key idx sp
    | .woken | .fuseTmo | .fuseGone | .cancelled _ _ => true
    | .tokrel region _ => !s.returning region
    | .bar k phase => s.barPhase g.teamKey k != phase
    | .clbar phase => match s.team g.teamKey with
      | some t => t.clPhase != phase
      | none => true
    | .doze _ | .fuse _ _ | .fault _ _ _ => false
    | .wait | .converge | .rtt => !s.stuck key idx sp

/-- Whether a gang lies on the slices of an issue port (R104). -/
def Gang.onPort (g : Gang) (core port : Nat) : Bool :=
  g.core == core && decide (g.slice < 8 * port + 8) && decide (8 * port < g.slice + g.width / 4)

/-- The ready (gang, split) entries of a port, ascending: gang × 4 + split with the entry's age and whether it is promoted. -/
def State.entries (s : State) (core port : Nat) : List (Nat × Nat × Bool) :=
  s.gangs.flatMap fun x =>
    if x.2.onPort core port then (List.range 4).filterMap fun i => match x.2.split i with
      | none => none
      | some sp => if s.ready x.1 x.2 i sp then some (x.1 * 4 + i, sp.age, sp.promoted) else none
    else []

/-- The entry that a port selects (R107): the oldest promoted one, of equally old ones the first in ascending order, else the next after the last one issued.
[DESIGN CHOICE, log entry 11] -/
def pickEntry (last : Nat) (es : List (Nat × Nat × Bool)) : Option Nat :=
  match es.filter fun e => e.2.2 with
  | e :: t => some (t.foldl (fun b x => if b.2.1 < x.2.1 then x else b) e).1
  | [] => match es.find? fun e => last < e.1 with
    | some e => some e.1
    | none => es.head?.map (·.1)

/-- Whether an entry has given up a port by YLD on which another entry is ready (R23). -/
def State.gaveUp (s : State) (core e : Nat) : Bool := (s.core core).yields.any fun y => y.2 == e && (s.entries core y.1).any (·.1 != e)

/-- The entry that a port issues next. -/
def State.pick (s : State) (core port : Nat) : Option Nat :=
  pickEntry (tgetD (s.core core).last port (2 ^ 32)) ((s.entries core port).filter fun e => !s.gaveUp core e.1)

/-- A split changed. -/
def State.modSplit (s : State) (key idx : Nat) (f : Split → Split) : State :=
  match s.gang key with
  | none => s
  | some g => s.setGang key (g.setSplit idx ((g.split idx).map f))

/-- A ready entry passed over: it is a step older (R107). -/
def Split.passed (sp : Split) : Split := { sp with age := sp.age + 1 }.promote

/-- The ports on which an entry's gang is selected: both of a pair for a gang of width 64 (R104, R107). -/
def Gang.ports (g : Gang) (port : Nat) : List Nat := if g.width = 64 then [port / 2 * 2, port / 2 * 2 + 1] else [port]

/-- The machine with an entry selected on its ports (R107): the others of each are a step older, the entry's age is 0. The port in turn selects a split of
width 64 on both of its pair, whatever is next on the other. [DESIGN CHOICE, log entry 11] -/
def State.select (s : State) (core port e : Nat) : State :=
  let ports := match s.gang (e / 4) with
    | some g => g.ports port
    | none => [port]
  let others := ((ports.flatMap (s.entries core)).map (·.1)).eraseDups.filter (· != e)
  let s := others.foldl (fun (s : State) x => s.modSplit (x / 4) (x % 4) Split.passed) s
  let c := s.core core
  let s := s.setCore core { c with
    last := ports.foldl (fun t p => tput t p e) c.last
    yields := c.yields.filter fun y => !ports.contains y.1 }
  let s := s.modSplit (e / 4) (e % 4) fun sp => { sp with
    age := 0
    promoted := false }
  s.atSplit (e / 4) (e % 4)

/-- Whether a split that stood inside a clause has left it (R23). -/
def Split.leftClause (sp : Split) : Option Split → Bool
  | some sp' => !sp'.incl || sp'.header != sp.header
  | none => true

/-- The issuing split gives up its ports once a clause with YLD has issued (R23). -/
def State.yieldPort (s : State) (key idx port : Nat) (sp : Split) : State :=
  match s.gang key with
  | none => s
  | some g =>
    if sp.incl && bit sp.hdr 8 && sp.leftClause (g.split idx) then
      let c := s.core g.core
      s.setCore g.core { c with yields := (g.ports port).foldl (fun t p => tput t p (key * 4 + idx)) c.yields }
    else s

/-- An issue port's turn (R23, R107). -/
def State.portTurn (s : State) (core port : Nat) : Outcome :=
  match s.pick core port with
  | none => .next s
  | some e =>
    let t := s.select core port e
    match t.kept t.cursor t.issueSplit, t.splitAt (e / 4) (e % 4) with
    | .next u, some sp => .next (u.yieldPort (e / 4) (e % 4) port sp)
    | o, _ => o

/-- The machine issuing for an Attar context. -/
def State.atContext (s : State) (sock k : Nat) : State := { s with cursor := .attar sock k }

/-- Whether an Attar context is ready (R329). -/
def State.attarReady (s : State) (sock k : Nat) (x : ACtx) : Bool :=
  match x.wait with
  | .run => true
  | .slot => match (s.atContext sock k).issueAttar with
    | .next s' => s'.asks != [] || tget (s'.base sock).actxs k != some x
    | _ => false
  | .send .. | .recv .. => false

/-- The Attar context that issues next (R329): round-robin from the one after the last that issued. -/
def State.pickAttar (s : State) (sock : Nat) : Option Nat :=
  let b := s.base sock
  let rs := b.actxs.filter fun x => !s.awaits (.attar sock x.1) && s.attarReady sock x.1 x.2
  match rs.find? fun x => b.lastCtx < x.1 with
  | some x => some x.1
  | none => rs.head?.map (·.1)

/-- An Attar engine's turn (R329). -/
def State.attarStep (s : State) (sock : Nat) : Outcome :=
  match s.pickAttar sock with
  | none => .next s
  | some k =>
    let t := (s.setBase sock { s.base sock with lastCtx := k }).atContext sock k
    t.kept t.cursor t.issueAttar

end Sys2Proof.Machine
end

