-- ==== Sys2Proof/Machine/Turn.lean ====
section
/-!
DEFINITION. Which agent moves, the passing of time (R92, R151), and the steps of asynchronous units that time or state brings about. The schedule
of the state names the agents that move first; without one, the agents that can move take turns (DESIGN CHOICE, log entry 7).
-/
namespace Sys2Proof.Machine

/-- What a gang's splits and its end make due (R87, R95, R118, R125, R176). -/
def State.gangDue (s : State) (key : Nat) (g : Gang) : List Pending :=
  let splits := (List.range 4).filterMap fun i => match g.split i with
    | none => none
    | some sp => match sp.hold with
      | .doze t => if t ≤ s.pkg.time && !g.frozen then some (.dozeWake key i) else none
      | .fuse since _ => if g.fuseTmo.toNat ≤ (s.cycle g.core - since).toNat && !g.frozen then some (.fusetmoExpiry key i) else none
      | _ => none
  splits ++ (if s.gangDone g then [.gangEnd key] else [])
    ++ (if g.saving.isSome && !g.inHandler && g.pendingTrap.isNone && !g.skipping then [.preemptEntry key] else [])
    ++ (if g.pendingTrap.isSome && !s.umbraTaken g then [.umbraFree g.core] else [])

/-- What a context's drain makes due (R86, R87, R216). -/
def State.ctxDue (s : State) (c : Nat) (x : Ctx) : List Pending :=
  (if (List.range 8).any (s.saveOverdue c) then [.forcedSaveHeldTimeout c, .handlerRttTimeout c] else [])
    ++ (if x.drains.any (s.drainOver c) then [.drainlimExpiry c] else [])

/-- What a compute die's front end makes due (R373, R383, R385, R392). -/
def State.dieDue (s : State) (k : Nat) (d : Die) : List Pending :=
  let blocked := d.queues.any fun q => q.2.state == 2
  let expired := d.queues.filter fun q => s.waitExpired k q.1
  let retry := d.recs.filter fun r => r.2.retrying && decide (1000 ≤ (s.pkg.time - r.2.failedAt).toNat)
  (expired.map fun q => .waitsigTimeout k q.1) ++ (if blocked then [.packetProcessorStep k] else [])
    ++ (retry.map fun r => .completionRecordRetry k r.1)
    ++ (if (d.slots.any fun r => r.2.state == 1 || r.2.state == 2) || s.ctxs.any (fun x => x.2.unlisted.any fun y => y.1 == k) then [.teamDispatch k] else [])
    ++ (if d.inReset && d.recs != [] && d.unwritten == [] then [.dieResetComplete k] else [])

/-- What an Attar context makes due (R338, R348). -/
def State.attarDue (s : State) (sock k : Nat) (x : ACtx) : List Pending :=
  match x.wait with
  | .send _ last true _ _ _ _ => if 1000 ≤ (s.pkg.time - last).toNat then [.contributionRetry sock k] else []
  | .recv since timeout .. => if s.recvOver since timeout then [.crecvTimeout sock k] else []
  | _ => []

/-- What a base die makes due (R315, R316, R339, R348). -/
def State.baseDue (s : State) (r : Nat) (b : Base) : List Pending :=
  (b.actxs.flatMap fun x => s.attarDue r x.1 x.2)
    ++ (b.slots.filterMap fun x => if x.2.state == 1 && x.2.deadline != 0 && decide (x.2.deadline ≤ s.pkg.time) then some (.slotDeadline r x.1) else none)
    ++ (match b.msgs with
      | m :: _ => if 2000000 ≤ (s.pkg.time - m.time).toNat then [.messageExpiry r] else []
      | [] => [])
    ++ (b.links.filterMap fun l => if l.2.training && decide (1000000 ≤ s.pkg.uptime - l.2.since) then some (.linkDown r l.1) else none)
    ++ (b.outs.filterMap fun o => if (headsOf o.2).any fun h => s.eligible r o.1 h.2.p then some (.outputGrant r o.1) else none)

/-- What the package makes due (R74, R129, R286, R407). -/
def State.pkgDue (s : State) : List Pending :=
  (s.pkg.net.filterMap fun m => if m.2.acked.length < m.2.packets && decide (netTimeout m.2.retries ≤ (s.pkg.time - m.2.sentAt).toNat) then some (.netRetryTimeout m.1) else none)
    ++ (s.pkg.outbound.filterMap fun x => if s.overdue x then some (.responseTimeout x.2.1.tag.toNat) else none)
    ++ (if s.pkg.hostq = [] then [] else [.hostStep])
    ++ (s.launches.filterMap fun l => if l.2.waiting then some (.teamDispatch (l.1 / 2 ^ 29)) else none)

/-- Every step of an asynchronous unit that is due. [DESIGN CHOICE, log entries 7 and 47] -/
def State.due (s : State) : List Pending :=
  (s.gangs.flatMap fun g => s.gangDue g.1 g.2) ++ (s.cores.filterMap fun c => if s.hung c.1 then some (.matrixHang c.1) else none) ++ (s.ctxs.flatMap fun c => s.ctxDue c.1 c.2) ++ (s.dies.flatMap fun d => s.dieDue d.1 d.2)
    ++ (s.bases.flatMap fun b => s.baseDue b.1 b.2) ++ s.pkgDue

/-- The machine with every due step on the agenda. [DESIGN CHOICE, log entry 7] -/
def State.wake (s : State) : State := s.due.foldl State.kick s

/-- Time passes during a step (R92, R151): how much is the implementation's. [DESIGN CHOICE, log entries 5 and 47] -/
def State.tick (s : State) : State :=
  { s with
    steps := s.steps + 1
    pkg := { s.pkg with
      time := s.pkg.time + BitVec.ofNat 64 (Config.elapsedNs s.steps)
      uptime := s.pkg.uptime + Config.elapsedNs s.steps } }

/-- The issue ports on which a gang could issue, by core × 4 + port, each once. -/
def State.livePorts (s : State) : List Nat :=
  (s.gangs.map fun x => x.2.core * 4 + x.2.slice / 8).foldl (fun l p => if l.contains p then l else l ++ [p]) []

/-- The agents that can move. [DESIGN CHOICE, log entry 7] -/
def State.movers (s : State) : List Move :=
  (if s.agenda = [] then [] else [.event 0]) ++ (if s.inputs = [] then [] else [.input])
    ++ (s.livePorts.filterMap fun p => if (s.pick (p / 4) (p % 4)).isSome then some (.port (p / 4) (p % 4)) else none)
    ++ (s.bases.filterMap fun b => if (s.pickAttar b.1).isSome then some (.attar b.1) else none)

/-- The next move, and the machine with it taken off the schedule. [DESIGN CHOICE, log entry 7] -/
def State.nextMove (s : State) : Option (Move × State) :=
  match s.schedule with
  | m :: t => some (m, { s with schedule := t })
  | [] => match s.movers with
    | [] => none
    | ms => (ms[s.steps % ms.length]?).map fun m => (m, s)

/-- The k-th step of the agenda made, or of the steps of its queue the first (R311, R321, R389). -/
def State.eventTurn (s : State) (k : Nat) : Outcome :=
  let k := agendaPlace s.agenda k
  match s.agenda[k]? with
  | none => .next s
  | some p =>
    let t := { s with
      agenda := s.agenda.eraseIdx k
      cursor := .event p }
    t.kept (.event p) (t.runPending p)

/-- The oldest input from outside the units happens. [DESIGN CHOICE, log entry 1] -/
def State.inputTurn (s : State) : Outcome :=
  match s.inputs with
  | [] => .next s
  | i :: r =>
    let t := { s with
      inputs := r
      cursor := .input i }
    t.kept (.input i) (exec i t)

/-- A move made. -/
def State.move (s : State) : Move → Outcome
  | .port core port => s.portTurn core port
  | .attar sock => s.attarStep sock
  | .event k => s.eventTurn k
  | .input => s.inputTurn

end Sys2Proof.Machine
end

