-- ==== Sys2Proof/Machine/Step.lean ====
section
/-!
DEFINITION. One step of the machine: the next agent moves, time passes, and the steps that are due join the agenda. And the placing of one
instruction where the next step issues it.
-/
namespace Sys2Proof.Machine

/-- One step. [DESIGN CHOICE, log entry 7] -/
def step (s : State) : Outcome :=
  match s.nextMove with
  | none => .next s.tick.wake
  | some (m, s') => match s'.move m with
    | .next t => .next t.tick.wake
    | .fault f => .fault f
    | .refused r => .refused r

/-- The words of an instruction of the opcode table (R25): one, or two where its first word takes an extension. -/
def tableWords (cls w : Nat) : List Word :=
  let lo := BitVec.ofNat 32 w
  if wordLen cls lo = 2 then [lo, BitVec.ofNat 32 (w / 2 ^ 32)] else [lo]

/-- A gang of width 4 on slice 0 of core 0, whose one split stands inside a clause at address 0x1000, before its first word. [DESIGN CHOICE, log entry 4] -/
def placedGang (cls n : Nat) : Gang :=
  { core := 0
    id := 0
    team := 0
    ctx := 0
    launch := 0
    width := 4
    slice := 0
    level := 0
    regBytes := 1024
    spBytes := 0
    lanes := List.replicate 4 { takes := true }
    splits := [some { pc := 0x1004, mask := 0xF, incl := true, hdr := BitVec.ofNat 32 (n * 2 ^ 28 + cls * 2 ^ 25) }, none, none, none] }

/-- The leaf under which core 0's die finds address 0x1000 at the same local address (R214, R215): valid, writable, executable, 1 GiB. [DESIGN CHOICE, log entry 4] -/
def placedLeaf (pkg : Nat) : DWord := BitVec.ofNat 64 (pkg * 2 ^ 44 + 0x2807)

/-- A clause of words stored at 0x1000 of the package's memory, and a gang that stands before its first word. [DESIGN CHOICE, log entry 4] -/
def State.placeClause (s : State) (cls : Nat) (ws : List Word) : State :=
  let n := ws.length
  let s := { s with mem := s.mem.write 0x1000 (wordBytes (BitVec.ofNat 32 (n * 2 ^ 28 + cls * 2 ^ 25) :: ws)) }
  let d := s.die 0
  let s := s.setDie 0 { d with tlb := tput d.tlb (tlbKey 0 2 0x1000) (placedLeaf s.pkg.id) }
  { s with
    gangs := (0, placedGang cls n) :: s.gangs.filter fun x => x.2.core != 0
    schedule := [.port 0 0] }

/-- A clause of words stored in the program memory of base die 0, and an Attar context that stands before its first word. [DESIGN CHOICE, log entry 4] -/
def State.placeProgram (s : State) (ws : List Word) : State :=
  let n := ws.length
  let b := s.base 0
  let prog := (BitVec.ofNat 32 (n * 2 ^ 28 + 3 * 2 ^ 25) :: ws).zipIdx.foldl (fun (t : Tab Word) x => tput t x.2 x.1) b.prog
  let s := s.setBase 0 { b with
    prog := prog
    actxs := [(0, { pc := 1, left := n, gang := 0, op := 0, ctx := 0, die := 0 })] }
  { s with schedule := [.attar 0] }

/-- The machine with the instruction of a table word where its next step issues it (log entry 4). [DESIGN CHOICE, log entries 3 and 4] -/
def State.withFetchWord (s : State) (nbits w : Nat) : State :=
  let w := w % 2 ^ nbits
  let cls := match tableClass w with | some x => x.1 | none => 0
  let ws := tableWords cls w
  if cls = 3 then s.placeProgram ws else s.placeClause cls ws

end Sys2Proof.Machine
end

