-- ==== Sys2Proof/Safety.lean ====
section
/-!
DEFINITION. The words that statements about the machine use: where an instruction is issued and what its issue comes to, what a step leaves
alone, and the invariant of memory.
-/
namespace Sys2Proof
open Machine

/-- The 32-bit words that an instruction's encoding holds (R25). -/
abbrev Instr.span (i : Instr) : Nat := (encode i).2.length

/-- The instruction `i` is issued for `c`: the machine stands at that split, a lane takes part (R22), and neither the place of the word
(R26, R47) nor its privilege (R40) traps. -/
def Machine.State.issues (s : State) (c : Issue) (i : Instr) : Prop :=
  s.issuer = some c ∧ c.act ≠ [] ∧ c.placeTrap i i.span = none

/-- The machine with the issuing split past the instruction (R23). -/
abbrev Machine.State.past (s : State) (c : Issue) (i : Instr) : State := s.advance c.key c.idx i.span

/-- The machine after a trap of the instruction (R82), whose TRAPARG is the offending word unless the trap gives its own (R402). -/
abbrev Machine.State.trapped (s : State) (c : Issue) (i : Instr) (t : Trap) : State := s.raise c (wordArg (encode i).2) t

/-- The instruction traps where `chk` gives a trap, and otherwise changes each taking-part lane by `f` and goes on; nothing else changes. -/
def Instr.actsIf (i : Instr) (chk : State → Issue → Option Trap) (f : State → Issue → Nat → Lane → Lane) : Prop :=
  ∀ s c, s.issues c i → exec i s = .next (match chk s c with
    | some t => s.trapped c i t
    | none => (s.put c (c.g.mapLanes c.act (f s c))).past c i)

/-- The instruction traps where `chk` gives a trap or a lane raises an enabled flag (R146), and otherwise changes each taking-part lane by
`f`, adds the lanes' flags to FPFLAGS (R142) and goes on. -/
def Instr.floatsIf (i : Instr) (chk : Issue → Option Trap) (flags : Issue → Nat → Flags) (f : Issue → Nat → Lane → Lane) : Prop :=
  ∀ s c, s.issues c i → exec i s = .next (match chk c with
    | some t => s.trapped c i t
    | none => match c.fpTrap (flags c) with
      | some t => s.trapped c i t
      | none => (s.put c ((c.g.mapLanes c.act (f c)).raiseFlags (orFlags c.act (flags c)))).past c i)

/-- The instruction checks its operand bytes (R34, R257), and otherwise changes each taking-part lane by `f` and goes on. -/
abbrev Instr.acts (i : Instr) (us : List (Use × Opnd)) (f : State → Issue → Nat → Lane → Lane) : Prop :=
  i.actsIf (fun _ c => c.check us) f

/-- A floating-point instruction that checks its operand bytes first. -/
abbrev Instr.floats (i : Instr) (us : List (Use × Opnd)) (flags : Gang → Nat → Flags) (f : Gang → Nat → Lane → Lane) : Prop :=
  i.floatsIf (fun c => c.check us) (fun c => flags c.g) (fun c => f c.g)

/-- The instruction traps with `t` on a condition. -/
def Instr.trapsIf (i : Instr) (pre : State → Issue → Prop) (t : State → Issue → Trap) : Prop :=
  ∀ s c, s.issues c i → pre s c → exec i s = .next (s.trapped c i (t s c))

/-- On a condition the instruction brings the machine to `f` and goes on. -/
def Instr.doesIf (i : Instr) (pre : State → Issue → Prop) (f : State → Issue → State) : Prop :=
  ∀ s c, s.issues c i → pre s c → exec i s = .next ((f s c).past c i)

/-- On a condition the instruction waits: the machine comes to `f`, and the split does not go on. -/
def Instr.waitsIf (i : Instr) (pre : State → Issue → Prop) (f : State → Issue → State) : Prop :=
  ∀ s c, s.issues c i → pre s c → exec i s = .next (f s c)

/-- A control transfer: it traps where `chk` says so; otherwise the lanes of each group go where the group says, or the table of splits and the
overflow area cannot hold the groups and the word traps (R112, R174). `before` is what the word writes before the lanes go. -/
def Instr.transfersTo (i : Instr) (chk : Issue → Option Trap) (before : State → Issue → State)
    (groups : Issue → List (DWord × BitVec 64)) : Prop :=
  ∀ s c, s.issues c i → exec i s = .next (match chk c with
    | some t => s.trapped c i t
    | none => match (before s c).transfer c (groups c) with
      | .error t => s.trapped c i t
      | .ok t => t)

/-- One access is another but for what translation and the order of accesses add to its parts. -/
def Machine.Access.like (a b : Access) : Prop :=
  a = { b with parts := a.parts } ∧
    a.parts.map (fun p => (p.lane, p.va, p.len, p.sub, p.data, p.cmp)) = b.parts.map fun p => (p.lane, p.va, p.len, p.sub, p.data, p.cmp)

/-- An asynchronous access (R202): it traps where `chk` says so; it stalls at a counter of 63; otherwise its counter rises, the latch is emptied, the
access `mk` is in flight under the next operation number, what may leave the core now leaves, and the split goes on. An access that is not by
virtual address changes nothing else before it leaves. -/
def Instr.accesses (i : Instr) (ctr : Nat) (chk : State → Issue → Option Trap) (mk : State → Issue → Access) : Prop :=
  ∀ s c, s.issues c i →
    (∀ t, chk s c = some t → exec i s = .next (s.trapped c i t)) ∧
    (chk s c = none → 63 ≤ c.g.outstanding ctr → exec i s = .next (s.hold c .wait)) ∧
    (chk s c = none → c.g.outstanding ctr < 63 → ∃ (t : State) (a : Access),
      exec i s = .next (({ t with flight := tput t.flight s.nextOp ⟨c.key, c.g.ctx, ctr, .access a⟩ } : State).sendReady s.nextOp |>.past c i) ∧
      a.like (mk s c) ∧ t.nextOp = s.nextOp + 1 ∧ t.flight = s.flight ∧
      t.gang c.key = some ((c.g.setCtr ctr (c.g.outstanding ctr + 1)).mapLanes c.act fun _ l => { l with latch := none }) ∧
      ((mk s c).space ≠ .virt → a.parts = (mk s c).parts.map (t.follows c.key c.g.ctx (mk s c)) ∧
        t = { s.put c ((c.g.setCtr ctr (c.g.outstanding ctr + 1)).mapLanes c.act fun _ l => { l with latch := none }) with
          nextOp := s.nextOp + 1 }))

/-- A global access (R202): its operand and address checks, and the access, whose GX fields are those of R32. `len` is what the data operand takes
in registers. -/
def Instr.globalAccess (i : Instr) (k : AccKind) (read write : Bool) (d a : Opnd) (ctr : BitVec 4) (gx : MemGx) (off : BitVec 16)
    (n len : Nat) (data cmp : Gang → Nat → Nat) : Prop :=
  let va (c : Issue) (j : Nat) : DWord := c.g.r64 a j + off.signExtend 64
  i.accesses ctr.toNat
    (fun _ c => firstTrap [c.dataTrap read write d len, c.check [(.src true, a)], c.addrTrap (va c) n])
    fun _ c =>
    { kind := k
      space := .virt
      dest := if write then c.g.destOf d len else .none
      size := if n = 64 then 5 else Nat.log2 n
      scope := gx.scope.toNat
      ord := gx.ord.toNat
      lat := gx.lat
      nt := gx.nt
      rm := c.g.rm
      parts := c.act.map fun j => { lane := j, va := va c j, len := n, data := data c.g j, cmp := cmp c.g j } }

/-- The hand-off of an engine word (R24): it traps where `chk` says so; it stalls at a counter of 63 and where `stall` says so; otherwise its counter rises, the
job `mk` is in flight under the next operation number with the step `next` due, `after` is what it changes at once, and the split goes on. -/
def Instr.handsOff (i : Instr) (ctr : Nat) (stall : State → Issue → Bool) (chk : State → Issue → Option Trap) (mk : State → Issue → Job) (after : Issue → State → State)
    (next : Nat → Pending) : Prop :=
  ∀ s c, s.issues c i → exec i s = .next (match chk s c with
    | some t => s.trapped c i t
    | none =>
      if 63 ≤ c.g.outstanding ctr ∨ stall s c = true then s.hold c .wait
      else ((after c { s.put c (c.g.setCtr ctr (c.g.outstanding ctr + 1)) with
        nextOp := s.nextOp + 1
        flight := tput s.flight s.nextOp ⟨c.key, c.g.ctx, ctr, mk s c⟩ }).kick (next s.nextOp)).past c i)

/-- The hand-off of a matrix word whose next step is a quarter operation; its job keeps the word for a later trap's argument (R402). -/
def Instr.handsOffBehind (i : Instr) (ctr : BitVec 4) (stall : State → Issue → Bool) (chk : State → Issue → Option Trap) (mk : State → Issue → MJob)
    (after : Issue → State → State) : Prop :=
  i.handsOff ctr.toNat stall chk (fun s c => .matrix { mk s c with word := wordArg (encode i).2, since := s.cycle c.g.core }) after
    Pending.quarterOpComplete

/-- The hand-off of a matrix word that stalls only at a counter of 63. -/
abbrev Instr.handsOffMatrix (i : Instr) (ctr : BitVec 4) (chk : State → Issue → Option Trap) (mk : State → Issue → MJob)
    (after : Issue → State → State) : Prop :=
  i.handsOffBehind ctr (fun _ _ => false) chk mk after

/-- The hand-off of a copy-class word (R292, R293): the descriptor is read at once, or, for a word on a chain channel, there is none. -/
def Instr.handsOffCopy (i : Instr) (op : Nat) (d a : Opnd) (ctr : BitVec 4) (sealed : Bool) : Prop :=
  let chain := op == 8 || op == 9 || op == 10
  let bytes := if op = 9 then 16 else 4
  ∀ s c, s.issues c i →
    let va := if op = 8 then c.g.r64 a c.low else (c.g.r32 a c.low).setWidth 64
    let k := ((s.teamMem c.g).1 + va.toNat) % 2 ^ 44
    let n := c.g.outstanding ctr.toNat
    exec i s = .next (match firstTrap [if op == 11 && !c.g.privileged then some priv else none,
        if a == 0xE8 then some illOpnd else none, c.dataTrap false true d bytes, c.one.check [(.src (op == 8), a)],
        if chain then none else s.descTrap c va.toNat] with
      | some t => s.trapped c i t
      | none =>
        if 63 ≤ n then s.hold c .wait
        else
          let bad := !chain && s.mem.isBad k
          let j : CJob := {
            op := op
            desc := if chain then [] else s.mem.read k 64
            arg := va
            dest := c.g.destOf d bytes
            batch := if chain then none else some (c.g.batch + 1)
            lanes := c.act
            window := s.window c.g.ctx
            cause := if bad then kMEMUE else 0 }
          let g := { (c.g.setCtr ctr.toNat (n + 1)).mapLanes c.act fun _ l => { l with latch := none } with
            batch := if sealed then c.g.batch + 1 else c.g.batch }
          let t := ({ s.put c g with
            nextOp := s.nextOp + 1
            flight := tput s.flight s.nextOp ⟨c.key, c.g.ctx, ctr.toNat, .copy j⟩ } : State).push [.copyJobComplete s.nextOp]
          (if bad then t.foundBad (16 + c.g.die) k else t).past c i)

/-- The issuing gang with the latches of its taking-part lanes emptied (R35). -/
abbrev Machine.Issue.emptied (c : Issue) : Gang := c.g.mapLanes c.act fun _ l => { l with latch := none }

/-- An instruction of two 32-bit sources whose result in a lane is `f` of them. -/
def Instr.computes2 (i : Instr) (d a b : Opnd) (f : Word → Word → Word) : Prop :=
  i.acts [(.dst false, d), (.src false, a), (.src false, b)] fun _ c k => c.g.res32 d (f (c.g.r32 a k) (c.g.r32 b k))

/-- An instruction of one 32-bit source whose result in a lane is `f` of it. -/
def Instr.computes1 (i : Instr) (d a : Opnd) (f : Word → Word) : Prop :=
  i.acts [(.dst false, d), (.src false, a)] fun _ c k => c.g.res32 d (f (c.g.r32 a k))

/-- An instruction of two 64-bit sources whose result in a lane is `f` of them. -/
def Instr.computes64 (i : Instr) (d a b : Opnd) (f : DWord → DWord → DWord) : Prop :=
  i.acts [(.dst true, d), (.src true, a), (.src true, b)] fun _ c k => c.g.res64 d (f (c.g.r64 a k) (c.g.r64 b k))

/-- A compare whose predicate result in a lane is `f` of its 32-bit sources. -/
def Instr.tests (i : Instr) (d a b : Opnd) (f : Word → Word → Bool) : Prop :=
  i.acts [(.predDst, d), (.src false, a), (.src false, b)] fun _ c k => resPred d (f (c.g.r32 a k) (c.g.r32 b k))

/-- An FP32 instruction of two sources whose bits and flags in a lane are `f` of the rounding mode and their data. -/
def Instr.floats2 (i : Instr) (d a b : Opnd) (f : RM → FVal → FVal → Nat × Flags) : Prop :=
  i.floats [(.dst false, d), (.src false, a), (.src false, b)] (fun g k => (f g.rm (g.rF32 a k) (g.rF32 b k)).2)
    fun g k => g.res32 d (BitVec.ofNat 32 (f g.rm (g.rF32 a k) (g.rF32 b k)).1)

/-- An FP32 instruction of one source. -/
def Instr.floats1 (i : Instr) (d a : Opnd) (f : RM → FVal → Nat × Flags) : Prop :=
  i.floats [(.dst false, d), (.src false, a)] (fun g k => (f g.rm (g.rF32 a k)).2)
    fun g k => g.res32 d (BitVec.ofNat 32 (f g.rm (g.rF32 a k)).1)

/-- A floating-point compare of two sources: the predicate and the flags in a lane are `f` of their data. -/
def Instr.floatTests (i : Instr) (wide : Bool) (d a b : Opnd) (f : FVal → FVal → Bool × Flags) : Prop :=
  let x (g : Gang) (o : Opnd) (k : Nat) := if wide then g.rF64 o k else g.rF32 o k
  i.floats [(.predDst, d), (.src wide, a), (.src wide, b)] (fun g k => (f (x g a k) (x g b k)).2)
    fun g k => resPred d (f (x g a k) (x g b k)).1

/-- A shuffle: `src` gives the lane that lane k reads for the value n of B; a lane that does not take part is not read, and the lane's own value
stands in (R168). -/
def Instr.shuffles (i : Instr) (d a b : Opnd) (wide : Bool) (pv : BitVec 3) (src : Nat → Nat → Option Nat) : Prop :=
  i.acts [(.dst wide, d), (.src wide, a), (.src false, b)] fun _ c k l =>
    let j := (src k (c.g.r32 b k).toNat).filter (c.act.contains ·)
    let l := { l with preds := setBit l.preds pv.toNat j.isSome }
    if wide then c.g.res64 d (c.g.r64 a (j.getD k)) l else c.g.res32 d (c.g.r32 a (j.getD k)) l

/-- A reduction over the lanes that `among` gives for each lane (R171). -/
def Instr.reduces (i : Instr) (d a : Opnd) (wide : Bool) (op : Nat) (among : List Nat → Nat → List Nat) : Prop :=
  i.floatsIf (fun c => c.check [(.dst wide, d), (.src wide, a)]) (fun c k => (c.g.reduce wide op a (among c.act k)).2) fun c k =>
    let v := (c.g.reduce wide op a (among c.act k)).1
    if wide then c.g.res64 d v else c.g.res32 d (v.setWidth 32)

/-- An FP64 instruction of two sources. -/
def Instr.doubles2 (i : Instr) (d a b : Opnd) (f : RM → FVal → FVal → Nat × Flags) : Prop :=
  i.floats [(.dst true, d), (.src true, a), (.src true, b)] (fun g k => (f g.rm (g.rF64 a k) (g.rF64 b k)).2)
    fun g k => g.res64 d (BitVec.ofNat 64 (f g.rm (g.rF64 a k) (g.rF64 b k)).1)

/-- The collective word `i` is issued for the Attar context `t`, and may stand where it does (R332). -/
def Machine.State.collects (s : State) (t : ATurn) (i : Instr) : Prop := s.attarTurn = some t ∧ (isCollTransfer i = true → t.x.left = 1)

/-- On a condition a collective word brings the machine and its context to `f`, and the context goes on past the word. -/
def Instr.collDoes (i : Instr) (pre : State → ATurn → Prop) (f : State → ATurn → State × ACtx) : Prop :=
  ∀ s t, s.collects t i → pre s t → exec i s = .next ((f s t).1.setACtx t.sock t.k (f s t).2.next)

/-- On a condition a collective word brings the machine to `f`, which sets the context itself. -/
def Instr.collGoes (i : Instr) (pre : State → ATurn → Prop) (f : State → ATurn → State) : Prop :=
  ∀ s t, s.collects t i → pre s t → exec i s = .next (f s t)

/-- On a condition a collective word ends its program with a trap code (R334). -/
def Instr.collTraps (i : Instr) (pre : State → ATurn → Prop) (code : Nat) : Prop :=
  i.collGoes pre fun s t => s.attarTrap t.sock t.k code 0

/-- A collective word that changes one scalar register and nothing else. -/
def Instr.collSets (i : Instr) (pre : State → ATurn → Prop) (xd : BitVec 4) (v : State → ATurn → DWord) : Prop :=
  i.collDoes pre fun s t => (s, { t.x with x := tput t.x.x xd.toNat (v s t) })

/-- A message of the mailbox that the endpoint executes (R8, R16, R389, R398, R406): to a socket that does not exist it is an addressing error, recorded and
answered STATUS 1; in recovery, from a socket that does not serve the op, and with a byte after the first `n` operands that is not zero it is answered
STATUS 1; where its die is in reset or powered down STATUS 4; with an operand outside its limits STATUS 1; otherwise it does `f`. -/
def serves (i : Mail → Instr) (sockets : Nat → Prop) (n : Nat) (ok : State → Mail → Prop) (f : State → Mail → State) : Prop :=
  ∀ (s : State) (m : Mail),
    let formed : Prop := s.pkg.recovery = false ∧ sockets m.sock ∧ ∀ w ∈ m.words.drop n, w = 0
    (26 ≤ m.sock → exec (i m) s = .next ((s.errlog (s.upRouter 0) 24 1 8 cPERMFAULT 0 m.sock).replyWords m 1 [])) ∧
    (m.sock < 26 → ¬formed → exec (i m) s = .next (s.replyWords m 1 [])) ∧
    (formed → s.unserving m.sock = true → exec (i m) s = .next (s.replyWords m 4 [])) ∧
    (formed → s.unserving m.sock = false → ¬ok s m → exec (i m) s = .next (s.replyWords m 1 [])) ∧
    (formed → s.unserving m.sock = false → ok s m → exec (i m) s = .next (f s m))

/-- An attestation request (R397, R398): served in the given session states only, with the given response code and the state that follows; in recovery nothing
answers. Of the response's contents R397 fixes the first bytes; the others are free. -/
def attests (i : List Byte → Instr) (states : List Nat) (code : Nat) (next : Nat → Nat) (fixed : State → List Byte) : Prop :=
  ∀ (s : State) (req : List Byte),
    (s.pkg.recovery = true → exec (i req) s = .next s) ∧
    (s.pkg.recovery = false → s.pkg.spdm ∉ states → exec (i req) s = .next (s.emit (.doe 0x7F []))) ∧
    (s.pkg.recovery = false → s.pkg.spdm ∈ states → exec (i req) s =
      .next (({ s with pkg := { s.pkg with spdm := next s.pkg.spdm } } : State).emit (.doe code (fixed s ++ Config.attest s.steps req))))

/-- What a word that works on registers alone may write (R33, R35, R142): its register destination with the number of 32-bit registers, its predicates, and
whether it adds to FPFLAGS; `none` for every other word. The latch is written by each of them. -/
def Instr.writes : Instr → Option (Option (Opnd × Nat) × List Nat × Bool)
  | .add d _ _ | .sub d _ _ | .mul d _ _ | .mulhi d _ _ | .mulhu d _ _ | .min d _ _ | .max d _ _ | .minu d _ _
  | .maxu d _ _ | .adds d _ _ | .and d _ _ | .or d _ _ | .xor d _ _ | .andn d _ _ | .shl d _ _ | .shr d _ _
  | .sar d _ _ | .rotl d _ _ | .mad d _ _ => some (some (d, 1), [], false)
  | .addi d _ _ | .shli d _ _ | .shri d _ _ | .sari d _ _ | .movi d _ | .movh d _ | .movw d _ => some (some (d, 1), [], false)
  | .mov d _ | .abs d _ | .not d _ | .popc d _ | .clz d _ | .p2v d _ | .fabs d _ | .fneg d _ => some (some (d, 1), [], false)
  | .bfe d _ _ _ _ | .bfi d _ _ _ => some (some (d, 1), [], false)
  | .add64 d _ _ | .sub64 d _ _ | .mul64 d _ _ => some (some (d, 2), [], false)
  | .sel d _ _ wide _ _ => some (some (d, if wide then 2 else 1), [], false)
  | .cmpeq d _ _ | .cmpne d _ _ | .cmplt d _ _ | .cmple d _ _ | .cmpltu d _ _ | .cmpleu d _ _ | .pand d _ _ | .por d _ _
  | .pxor d _ _ => some (none, [d.toNat % 8], false)
  | .pnot d _ | .v2p d _ | .voteall d _ | .voteany d _ => some (none, [d.toNat % 8], false)
  | .fcmpeq d _ _ | .fcmplt d _ _ | .fcmple d _ _ | .fcmpun d _ _ | .dcmpeq d _ _ | .dcmplt d _ _ | .dcmple d _ _ | .dcmpun d _ _ => some (none, [d.toNat % 8], true)
  | .fadd d _ _ | .fsub d _ _ | .fmul d _ _ | .fmin d _ _ | .fmax d _ _ | .fdiv d _ _ | .ffma d _ _ => some (some (d, 1), [], true)
  | .frcp d _ | .frsq d _ | .fsqrt d _ | .flog2 d _ | .fexp2 d _ | .fln d _ | .fexp d _ => some (some (d, 1), [], true)
  | .dadd d _ _ | .dsub d _ _ | .dmul d _ _ | .dfma d _ _ | .dmin d _ _ | .dmax d _ _ | .ddiv d _ _ => some (some (d, 2), [], true)
  | .dsqrt d _ => some (some (d, 2), [], true)
  | .frnd d _ wide _ _ | .gred d _ wide _ | .gscan d _ wide _ => some (some (d, if wide then 2 else 1), [], true)
  | .shfl d _ _ wide pv | .shflup d _ _ wide pv | .shfldn d _ _ wide pv | .shflx d _ _ wide pv =>
    some (some (d, if wide then 2 else 1), [pv.toNat], false)
  | .ballot d _ | .matchLanes d _ | .time d | .cycle d | .accrd d => some (some (d, 2), [], false)
  | _ => none

/-- Whether word `w` of the register space, or of the Umbra, is one of `n` registers from the operand byte `o` on (R33, R109). -/
def Machine.Gang.names (g : Gang) (o : Opnd) (n : Nat) (umbra : Bool) (w : Nat) : Prop :=
  o < 0xE0#8 ∧ ∃ off, g.place g.vbNow (4 * o.toNat) (4 * n) = some (umbra, off) ∧ off / 4 ≤ w ∧ w < off / 4 + n

end Sys2Proof
end

