-- ==== Sys2Proof/Certificates/Slice0/Obligations.lean ====
section
/-!
DEFINITION. The statements about the machine that are to be proved.
-/
set_option Elab.async false
open Sys2Proof Sys2Proof.Machine

/-- R152: what each integer instruction, of 32 bits and on pairs, computes in every taking-part lane, that it checks its operand bytes first, and that
nothing else of the machine changes. -/
def Obligations.IntegerResults : Prop :=
  ∀ d a b : Opnd, ∀ imm : BitVec 8,
    (Instr.add d a b).computes2 d a b (fun x y => BitVec.ofNat 32 ((x.toNat + y.toNat) % 2 ^ 32)) ∧
    (Instr.sub d a b).computes2 d a b (fun x y => BitVec.ofInt 32 ((x.toInt - y.toInt) % 2 ^ 32)) ∧
    (Instr.addi d a imm).computes1 d a (fun x => BitVec.ofInt 32 ((x.toInt + imm.toInt) % 2 ^ 32)) ∧
    (Instr.mul d a b).computes2 d a b (fun x y => (x.setWidth 64 * y.setWidth 64).extractLsb' 0 32) ∧
    (Instr.mulhi d a b).computes2 d a b (fun x y => (x.signExtend 64 * y.signExtend 64).extractLsb' 32 32) ∧
    (Instr.mulhu d a b).computes2 d a b (fun x y => (x.setWidth 64 * y.setWidth 64).extractLsb' 32 32) ∧
    (Instr.mad d a b).acts [(.both false, d), (.src false, a), (.src false, b)] (fun _ c k =>
      c.g.res32 d (BitVec.ofNat 32 ((c.g.r32 a k).toNat * (c.g.r32 b k).toNat + (c.g.r32 d k).toNat))) ∧
    (Instr.min d a b).computes2 d a b (fun x y => if x.toInt ≤ y.toInt then x else y) ∧
    (Instr.max d a b).computes2 d a b (fun x y => if x.toInt ≤ y.toInt then y else x) ∧
    (Instr.minu d a b).computes2 d a b (fun x y => if x.toNat ≤ y.toNat then x else y) ∧
    (Instr.maxu d a b).computes2 d a b (fun x y => if x.toNat ≤ y.toNat then y else x) ∧
    (Instr.abs d a).computes1 d a (fun x => BitVec.ofNat 32 x.toInt.natAbs) ∧
    (Instr.adds d a b).computes2 d a b (fun x y =>
      if x.toInt + y.toInt < -2 ^ 31 then 0x80000000 else if 2 ^ 31 - 1 < x.toInt + y.toInt then 0x7FFFFFFF else x + y) ∧
    (Instr.add64 d a b).computes64 d a b (fun x y => BitVec.ofNat 64 ((x.toNat + y.toNat) % 2 ^ 64)) ∧
    (Instr.sub64 d a b).computes64 d a b (fun x y => BitVec.ofInt 64 ((x.toInt - y.toInt) % 2 ^ 64)) ∧
    (Instr.mul64 d a b).computes64 d a b (fun x y => BitVec.ofNat 64 (x.toNat * y.toNat % 2 ^ 64))

/-- R153, R154: what each logic, shift and bit-field instruction computes; a register shift of 32 or more is not taken modulo 32. -/
def Obligations.LogicResults : Prop :=
  ∀ d a b : Opnd,
    (Instr.and d a b).computes2 d a b (· &&& ·) ∧
    (Instr.or d a b).computes2 d a b (· ||| ·) ∧
    (Instr.xor d a b).computes2 d a b (· ^^^ ·) ∧
    (Instr.andn d a b).computes2 d a b (fun x y => x &&& ~~~y) ∧
    (Instr.not d a).computes1 d a (~~~ ·) ∧
    (Instr.shl d a b).computes2 d a b (fun x y => BitVec.ofNat 32 (x.toNat * 2 ^ y.toNat)) ∧
    (Instr.shr d a b).computes2 d a b (fun x y => BitVec.ofNat 32 (x.toNat / 2 ^ y.toNat)) ∧
    (Instr.sar d a b).computes2 d a b (fun x y => BitVec.ofInt 32 (x.toInt / 2 ^ y.toNat)) ∧
    (∀ imm : BitVec 8, imm < 32#8 →
      (Instr.shli d a imm).computes1 d a (fun x => BitVec.ofNat 32 (x.toNat * 2 ^ imm.toNat)) ∧
      (Instr.shri d a imm).computes1 d a (fun x => BitVec.ofNat 32 (x.toNat / 2 ^ imm.toNat)) ∧
      (Instr.sari d a imm).computes1 d a (fun x => BitVec.ofInt 32 (x.toInt / 2 ^ imm.toNat))) ∧
    (Instr.rotl d a b).computes2 d a b (fun x y => (x <<< (y.toNat % 32)) ||| (x >>> (32 - y.toNat % 32))) ∧
    (Instr.popc d a).computes1 d a (fun x => BitVec.ofNat 32 ((List.range 32).countP fun k => x.getLsbD k)) ∧
    (Instr.clz d a).computes1 d a (fun x =>
      BitVec.ofNat 32 ((List.range 32).countP fun k => decide (x.toNat < 2 ^ (31 - k)))) ∧
    (∀ (sx : Bool) (pos : BitVec 5) (len : BitVec 6), (Instr.bfe d a sx pos len).wf →
      (Instr.bfe d a sx pos len).computes1 d a (fun x =>
        let f := x.extractLsb' pos.toNat len.toNat
        if sx then f.signExtend 32 else f.setWidth 32)) ∧
    (∀ (pos : BitVec 5) (len : BitVec 6), (Instr.bfi d a pos len).wf →
      (Instr.bfi d a pos len).acts [(.both false, d), (.src false, a)] (fun _ c k =>
        let m : Word := ((1#32 <<< len.toNat) - 1) <<< pos.toNat
        c.g.res32 d ((c.g.r32 d k &&& ~~~m) ||| ((c.g.r32 a k <<< pos.toNat) &&& m))))

/-- R147, R148, R155: the moves, the select, the moves between predicates and registers, the integer compares and the predicate logic; a predicate result
also enters the latch as 0 or 1. -/
def Obligations.MoveAndCompareResults : Prop :=
  ∀ d a b : Opnd,
    (Instr.mov d a).computes1 d a (fun x => x) ∧
    (∀ imm : BitVec 16, (Instr.movi d imm).acts [(.dst false, d)] (fun _ c _ => c.g.res32 d (BitVec.ofInt 32 imm.toInt))) ∧
    (∀ imm : BitVec 16, (Instr.movh d imm).acts [(.named false, d)] (fun _ c k =>
      c.g.res32 d (BitVec.ofNat 32 (imm.toNat * 2 ^ 16 + (c.g.r32 d k).toNat % 2 ^ 16)))) ∧
    (∀ imm : Word, (Instr.movw d imm).acts [(.dst false, d)] (fun _ c _ => c.g.res32 d imm)) ∧
    (∀ neg : Bool, ∀ p : BitVec 3, (Instr.sel d a b false neg p).acts [(.dst false, d), (.src false, a), (.src false, b)] (fun _ c k =>
      c.g.res32 d (if (c.g.lane k).preds.getLsbD p.toNat ^^ neg then c.g.r32 a k else c.g.r32 b k))) ∧
    (∀ neg : Bool, ∀ p : BitVec 3, (Instr.sel d a b true neg p).acts [(.dst true, d), (.src true, a), (.src true, b)] (fun _ c k =>
      c.g.res64 d (if (c.g.lane k).preds.getLsbD p.toNat ^^ neg then c.g.r64 a k else c.g.r64 b k))) ∧
    (Instr.p2v d a).acts [(.dst false, d), (.predSrc, a)] (fun _ c k => c.g.res32 d (if c.g.rPred a k then 1 else 0)) ∧
    (Instr.v2p d a).acts [(.predDst, d), (.src false, a)] (fun _ c k => resPred d (decide ((c.g.r32 a k).toNat ≠ 0))) ∧
    (Instr.cmpeq d a b).tests d a b (fun x y => decide (x.toNat = y.toNat)) ∧
    (Instr.cmpne d a b).tests d a b (fun x y => decide (x.toNat ≠ y.toNat)) ∧
    (Instr.cmplt d a b).tests d a b (fun x y => decide (x.toInt < y.toInt)) ∧
    (Instr.cmple d a b).tests d a b (fun x y => decide (x.toInt ≤ y.toInt)) ∧
    (Instr.cmpltu d a b).tests d a b (fun x y => decide (x.toNat < y.toNat)) ∧
    (Instr.cmpleu d a b).tests d a b (fun x y => decide (x.toNat ≤ y.toNat)) ∧
    (Instr.pand d a b).acts [(.predDst, d), (.predSrc, a), (.predSrc, b)] (fun _ c k => resPred d (c.g.rPred a k && c.g.rPred b k)) ∧
    (Instr.por d a b).acts [(.predDst, d), (.predSrc, a), (.predSrc, b)] (fun _ c k => resPred d (c.g.rPred a k || c.g.rPred b k)) ∧
    (Instr.pxor d a b).acts [(.predDst, d), (.predSrc, a), (.predSrc, b)] (fun _ c k => resPred d (c.g.rPred a k ^^ c.g.rPred b k)) ∧
    (Instr.pnot d a).acts [(.predDst, d), (.predSrc, a)] (fun _ c k => resPred d !c.g.rPred a k)

/-- R145, R156: the floating-point compares of both widths: an unordered pair is false for EQ, LT and LE and true for UN; LT and LE raise NV for any
NaN, EQ and UN for a signalling one only. Two FP32 or FP64 patterns that are no NaN compare as their sign-and-magnitude integers do, −0 equal to +0. -/
def Obligations.FloatCompareResults : Prop :=
  let quiet (x y : FVal) : Flags := if x.isSNan || y.isSNan then fNV else 0
  let loud (x y : FVal) : Flags := if x.isNan || y.isNan then fNV else 0
  let lt (x y : FVal) : Bool := !(x.isNan || y.isNan) && x.lt y
  let eq (x y : FVal) : Bool := !(x.isNan || y.isNan) && !(x.lt y || y.lt x)
  (∀ d a b : Opnd,
    (Instr.fcmpeq d a b).floatTests false d a b (fun x y => (eq x y, quiet x y)) ∧
    (Instr.fcmplt d a b).floatTests false d a b (fun x y => (lt x y, loud x y)) ∧
    (Instr.fcmple d a b).floatTests false d a b (fun x y => (lt x y || eq x y, loud x y)) ∧
    (Instr.fcmpun d a b).floatTests false d a b (fun x y => (x.isNan || y.isNan, quiet x y)) ∧
    (Instr.dcmpeq d a b).floatTests true d a b (fun x y => (eq x y, quiet x y)) ∧
    (Instr.dcmplt d a b).floatTests true d a b (fun x y => (lt x y, loud x y)) ∧
    (Instr.dcmple d a b).floatTests true d a b (fun x y => (lt x y || eq x y, loud x y)) ∧
    (Instr.dcmpun d a b).floatTests true d a b (fun x y => (x.isNan || y.isNan, quiet x y))) ∧
  ∀ f ∈ [f32, f64], ∀ x y : Nat, x < 2 ^ (1 + f.ew + f.mw) → y < 2 ^ (1 + f.ew + f.mw) →
    (f.decode x).isNan = false → (f.decode y).isNan = false →
    let h := 2 ^ (f.ew + f.mw)
    let key (b : Nat) : Int := if b < h then b else -((b - h : Nat) : Int)
    (f.decode x).lt (f.decode y) = decide (key x < key y)

/-- R145, R157: a finite result of FP32 or FP64 that is not zero is rounded once. Its magnitude, in units of the least subnormal, is a fraction
between two neighbouring patterns; the mode chooses one of them, NX says that it is not exact and UF that it is tiny after rounding, and past the largest number it
is the mode's overflow result with OF and NX. -/
def Obligations.RoundedOnce : Prop :=
  ∀ f ∈ [f32, f64], ∀ (rm : RM) (neg : Bool) (num den : Nat) (e : Int), 0 < num → 0 < den →
    let p := scaled num den (e - f.umin)
    let mag (b : Nat) : Nat := if b < 2 ^ f.mw then b else (2 ^ f.mw + b % 2 ^ f.mw) * 2 ^ (b / 2 ^ f.mw - 1)
    let r := f.round rm neg num den e
    ∃ b : Nat, mag b * p.2 ≤ p.1 ∧ p.1 < mag (b + 1) * p.2 ∧
      let exact : Bool := decide (mag b * p.2 = p.1)
      let mid := (mag b + mag (b + 1)) * p.2
      let up : Bool := !exact && (if rm = 0 then decide (mid < 2 * p.1) || (decide (mid = 2 * p.1) && b % 2 == 1)
        else if rm = 1 then false else if rm = 2 then neg else !neg)
      let c := if up then b + 1 else b
      let tiny : Bool := decide (b < 2 ^ f.mw) && (decide (c < 2 ^ f.mw) ||
        (if rm = 0 then decide (4 * p.1 < (2 ^ (f.mw + 2) - 1) * p.2) else decide (2 * p.1 ≤ (2 ^ (f.mw + 1) - 1) * p.2)))
      (c < f.infBits → r = (f.signBit neg + c, if exact then 0 else if tiny then fNX ||| fUF else fNX)) ∧
      (f.infBits ≤ c → r = (f.signBit neg + (if rm = 0 ∨ (rm = 2 ∧ neg = true) ∨ (rm = 3 ∧ neg = false) then f.infBits else f.infBits - 1), fOF ||| fNX))

/-- R145, R157, R158, R159: the FP32 instructions: sources, rounding mode, destination, the flags they add and the trap of an enabled flag. A sum, a product, a
fused sum and a quotient of finite numbers are the exact result rounded, an exact zero has the sign of R145, and every NaN result is the canonical one; the
special operands give the results of R159. -/
def Obligations.FloatResults : Prop :=
  (∀ d a b : Opnd,
    (Instr.fadd d a b).floats2 d a b (fun rm x y => f32.sum rm [x, y]) ∧
    (Instr.fsub d a b).floats2 d a b (fun rm x y => f32.sum rm [x, y.negate]) ∧
    (Instr.fmul d a b).floats2 d a b f32.mul ∧
    (Instr.fdiv d a b).floats2 d a b f32.div ∧
    (Instr.ffma d a b).floats [(.both false, d), (.src false, a), (.src false, b)]
      (fun g k => (f32.fma g.rm (g.rF32 a k) (g.rF32 b k) (g.rF32 d k)).2)
      (fun g k => g.res32 d (BitVec.ofNat 32 (f32.fma g.rm (g.rF32 a k) (g.rF32 b k) (g.rF32 d k)).1)) ∧
    (Instr.fmin d a b).floats [(.dst false, d), (.src false, a), (.src false, b)]
      (fun g k => nvOf [g.rF32 a k, g.rF32 b k])
      (fun g k => g.res32 d (BitVec.ofNat 32 (f32.minMax false (g.r32 a k).toNat (g.r32 b k).toNat).1)) ∧
    (Instr.fmax d a b).floats [(.dst false, d), (.src false, a), (.src false, b)]
      (fun g k => nvOf [g.rF32 a k, g.rF32 b k])
      (fun g k => g.res32 d (BitVec.ofNat 32 (f32.minMax true (g.r32 a k).toNat (g.r32 b k).toNat).1)) ∧
    (Instr.fabs d a).computes1 d a (fun x => if (f32.decode x.toNat).isNan then 0x7FC00000 else x &&& 0x7FFFFFFF) ∧
    (Instr.fneg d a).computes1 d a (fun x => if (f32.decode x.toNat).isNan then 0x7FC00000 else x ^^^ 0x80000000) ∧
    (Instr.frcp d a).floats1 d a (fun rm x => f32.div rm (.fin false 1 0) x) ∧
    (Instr.frsq d a).floats1 d a f32.rsqrt ∧
    (Instr.fsqrt d a).floats1 d a f32.sqrt ∧
    (Instr.flog2 d a).floats1 d a (fun rm x => f32.logVal rm false x) ∧
    (Instr.fexp2 d a).floats1 d a (fun rm x => f32.expVal rm false x) ∧
    (Instr.fln d a).floats1 d a (fun rm x => f32.logVal rm true x) ∧
    (Instr.fexp d a).floats1 d a (fun rm x => f32.expVal rm true x)) ∧
  ∀ f ∈ [f32, f64], ∀ (rm : RM) (s t : Bool) (m k : Nat) (e d : Int) (x y z : FVal),
    let u := min (min 0 e) d
    let v := signedAt s m e u + signedAt t k d u
    let nv (vs : List FVal) : Flags := if ∃ w ∈ vs, w.isSNan = true then fNV else 0
    (v ≠ 0 → f.sum rm [.fin s m e, .fin t k d] = f.round rm (decide (v < 0)) v.natAbs 1 u) ∧
    (v = 0 → f.sum rm [.fin s m e, .fin t k d] = (f.signBit (if m = 0 ∧ k = 0 ∧ s = t then s else decide (rm = 2)), 0)) ∧
    (x.isNan = true ∨ y.isNan = true → f.sum rm [x, y] = (f.nanBits, nv [x, y]) ∧ f.mul rm x y = (f.nanBits, nv [x, y]) ∧
      f.div rm x y = (f.nanBits, nv [x, y])) ∧
    (x.isNan = true → f.sqrt rm x = (f.nanBits, nv [x]) ∧ f.rsqrt rm x = (f.nanBits, nv [x]) ∧
      ∀ natural, f.logVal rm natural x = (f.nanBits, nv [x]) ∧ f.expVal rm natural x = (f.nanBits, nv [x])) ∧
    (f.sum rm [.inf s, .inf t] = if s = t then (f.signBit s + f.infBits, 0) else (f.nanBits, fNV)) ∧
    (f.sum rm [.inf s, .fin t k d] = (f.signBit s + f.infBits, 0)) ∧ (f.sum rm [.fin t k d, .inf s] = (f.signBit s + f.infBits, 0)) ∧
    (m * k ≠ 0 → f.mul rm (.fin s m e) (.fin t k d) = f.round rm (s != t) (m * k) 1 (e + d) ∧
      f.div rm (.fin s m e) (.fin t k d) = f.round rm (s != t) m k (e - d)) ∧
    (m * k = 0 → f.mul rm (.fin s m e) (.fin t k d) = (f.signBit (s != t), 0)) ∧
    (f.mul rm (.inf s) (.inf t) = (f.signBit (s != t) + f.infBits, 0)) ∧
    (k ≠ 0 → f.mul rm (.inf s) (.fin t k d) = (f.signBit (s != t) + f.infBits, 0) ∧
      f.mul rm (.fin t k d) (.inf s) = (f.signBit (s != t) + f.infBits, 0)) ∧
    (k = 0 → f.mul rm (.inf s) (.fin t k d) = (f.nanBits, fNV) ∧ f.mul rm (.fin t k d) (.inf s) = (f.nanBits, fNV) ∧
      f.fma rm (.inf s) (.fin t k d) z = (f.nanBits, fNV) ∧ f.fma rm (.fin t k d) (.inf s) z = (f.nanBits, fNV)) ∧
    (f.fma rm (.fin s m e) (.fin t k d) z = f.sum rm [.fin (s != t) (m * k) (e + d), z]) ∧
    (m ≠ 0 → k = 0 → f.div rm (.fin s m e) (.fin t k d) = (f.signBit (s != t) + f.infBits, fDZ)) ∧
    (m = 0 → k ≠ 0 → f.div rm (.fin s m e) (.fin t k d) = (f.signBit (s != t), 0)) ∧
    (m = 0 → k = 0 → f.div rm (.fin s m e) (.fin t k d) = (f.nanBits, fNV)) ∧ (f.div rm (.inf s) (.inf t) = (f.nanBits, fNV)) ∧
    (f.div rm (.fin s m e) (.inf t) = (f.signBit (s != t), 0)) ∧ (f.div rm (.inf s) (.fin t k d) = (f.signBit (s != t) + f.infBits, 0)) ∧
    (m = 0 → f.sqrt rm (.fin s m e) = (f.signBit s, 0) ∧ f.rsqrt rm (.fin s m e) = (f.signBit s + f.infBits, fDZ) ∧ ∀ natural,
      f.logVal rm natural (.fin s m e) = (f.signBit true + f.infBits, fDZ) ∧ f.expVal rm natural (.fin s m e) = f.round rm false 1 1 0) ∧
    (m ≠ 0 → f.sqrt rm (.fin true m e) = (f.nanBits, fNV) ∧ f.rsqrt rm (.fin true m e) = (f.nanBits, fNV) ∧
      ∀ natural, f.logVal rm natural (.fin true m e) = (f.nanBits, fNV)) ∧
    (f.sqrt rm (.inf s) = if s then (f.nanBits, fNV) else (f.infBits, 0)) ∧ (f.rsqrt rm (.inf s) = if s then (f.nanBits, fNV) else (0, 0)) ∧
    (∀ natural, (f.logVal rm natural (.inf s) = if s then (f.nanBits, fNV) else (f.infBits, 0)) ∧
      (f.expVal rm natural (.inf s) = if s then (0, 0) else (f.infBits, 0)) ∧ f.logVal rm natural (.fin false 1 0) = (0, 0)) ∧
    (e ≠ 0 → f.logVal rm false (.fin false 1 e) = f.round rm (decide (e < 0)) e.natAbs 1 0) ∧
    (m ≠ 0 → m < 2 ^ 16 → f.expVal rm false (.fin s m 0) = f.round rm false 1 1 (if s then -(m : Int) else m))

/-- R157 to R162: the FP64 instructions, the roundings to integral values and the conversions. A conversion between floating formats rounds once, an integer
becomes the number rounded, and a number becomes the integer that the mode chooses, held within the destination's range with NV. -/
def Obligations.DoubleAndConversionResults : Prop :=
  (∀ d a b : Opnd,
    (Instr.dadd d a b).doubles2 d a b (fun rm x y => f64.sum rm [x, y]) ∧
    (Instr.dsub d a b).doubles2 d a b (fun rm x y => f64.sum rm [x, y.negate]) ∧
    (Instr.dmul d a b).doubles2 d a b f64.mul ∧
    (Instr.ddiv d a b).doubles2 d a b f64.div ∧
    (Instr.dfma d a b).floats [(.both true, d), (.src true, a), (.src true, b)]
      (fun g k => (f64.fma g.rm (g.rF64 a k) (g.rF64 b k) (g.rF64 d k)).2)
      (fun g k => g.res64 d (BitVec.ofNat 64 (f64.fma g.rm (g.rF64 a k) (g.rF64 b k) (g.rF64 d k)).1)) ∧
    (Instr.dmin d a b).floats [(.dst true, d), (.src true, a), (.src true, b)]
      (fun g k => nvOf [g.rF64 a k, g.rF64 b k])
      (fun g k => g.res64 d (BitVec.ofNat 64 (f64.minMax false (g.r64 a k).toNat (g.r64 b k).toNat).1)) ∧
    (Instr.dmax d a b).floats [(.dst true, d), (.src true, a), (.src true, b)]
      (fun g k => nvOf [g.rF64 a k, g.rF64 b k])
      (fun g k => g.res64 d (BitVec.ofNat 64 (f64.minMax true (g.r64 a k).toNat (g.r64 b k).toNat).1)) ∧
    (Instr.dsqrt d a).floats [(.dst true, d), (.src true, a)] (fun g k => (f64.sqrt g.rm (g.rF64 a k)).2)
      (fun g k => g.res64 d (BitVec.ofNat 64 (f64.sqrt g.rm (g.rF64 a k)).1)) ∧
    (∀ (dyn : Bool) (rnd : BitVec 2), (Instr.frnd d a false dyn rnd).floats [(.dst false, d), (.src false, a)]
      (fun g k => (f32.rint (if dyn then g.rm else rnd) (g.r32 a k).toNat).2)
      (fun g k => g.res32 d (BitVec.ofNat 32 (f32.rint (if dyn then g.rm else rnd) (g.r32 a k).toNat).1))) ∧
    (∀ (dyn : Bool) (rnd : BitVec 2), (Instr.frnd d a true dyn rnd).floats [(.dst true, d), (.src true, a)]
      (fun g k => (f64.rint (if dyn then g.rm else rnd) (g.r64 a k).toNat).2)
      (fun g k => g.res64 d (BitVec.ofNat 64 (f64.rint (if dyn then g.rm else rnd) (g.r64 a k).toNat).1))) ∧
    (∀ (dyn : Bool) (rnd : BitVec 2) (src dst : BitVec 4),
      let r (g : Gang) (k : Nat) :=
        cvtOp (if dyn then g.rm else rnd) src dst (if cvtBits src = 64 then g.r64 a k else (g.r32 a k).setWidth 64)
      (Instr.cvt d a dyn rnd src dst).floats [(.dst (cvtBits dst == 64), d), (.src (cvtBits src == 64), a)] (fun g k => (r g k).2)
        (fun g k => if cvtBits dst = 64 then g.res64 d (r g k).1 else g.res32 d ((r g k).1.setWidth 32)))) ∧
  ∀ (rm : RM) (src dst : BitVec 4) (x : DWord),
    let n := x.toNat % 2 ^ cvtBits src
    let f := cvtFmt dst
    let hold (i : Int) : Int := min (max i (cvtMin dst)) (cvtMax dst)
    (src < 4#4 → dst < 4#4 →
      (∀ q, (cvtFmt src).decode n = .nan q → cvtOp rm src dst x = (BitVec.ofNat 64 f.nanBits, if q then fNV else 0)) ∧
      (∀ s, (cvtFmt src).decode n = .inf s → cvtOp rm src dst x = (BitVec.ofNat 64 (f.signBit s + f.infBits), 0)) ∧
      (∀ s m e, (cvtFmt src).decode n = .fin s m e → cvtOp rm src dst x =
        if m = 0 then (BitVec.ofNat 64 (f.signBit s), 0) else (BitVec.ofNat 64 (f.round rm s m 1 e).1, (f.round rm s m 1 e).2))) ∧
    (src < 4#4 → 4#4 ≤ dst →
      (∀ q, (cvtFmt src).decode n = .nan q → cvtOp rm src dst x = (0, fNV)) ∧
      (∀ s, (cvtFmt src).decode n = .inf s → cvtOp rm src dst x = (BitVec.ofInt 64 (if s then cvtMin dst else cvtMax dst), fNV)) ∧
      (∀ s m e, (cvtFmt src).decode n = .fin s m e →
        let p := scaled m 1 e
        let q := p.1 / p.2
        let r := p.1 % p.2
        let up : Bool := r != 0 && (if rm = 0 then decide (p.2 < 2 * r) || (decide (p.2 = 2 * r) && q % 2 == 1)
          else if rm = 1 then false else if rm = 2 then s else !s)
        let a : Int := if up then q + 1 else q
        let i := if s then -a else a
        cvtOp rm src dst x = (BitVec.ofInt 64 (hold i), if hold i ≠ i then fNV else if r ≠ 0 then fNX else 0))) ∧
    (4#4 ≤ src →
      let i : Int := if src < 8#4 ∧ 2 ^ (cvtBits src - 1) ≤ n then (n : Int) - 2 ^ cvtBits src else n
      (dst < 4#4 → cvtOp rm src dst x = if i = 0 then (0, 0)
        else (BitVec.ofNat 64 (f.round rm (decide (i < 0)) i.natAbs 1 0).1, (f.round rm (decide (i < 0)) i.natAbs 1 0).2)) ∧
      (4#4 ≤ dst → cvtOp rm src dst x = (BitVec.ofInt 64 (hold i), 0)))

/-- R163 to R165: PKLN6 and UPLN6: their checks, the flags, the three bytes of the group or the four registers, and the latch. The four codes stand one after
another; each is NaR, zero, the greatest code or the multiple of 1/4 nearest to log2 q, a tie going to the even one; and the value of a code under a scale is its
power of two, taken from the table T and rounded once. -/
def Obligations.Ln6Results : Prop :=
  (∀ (d a b : Opnd) (j : BitVec 3),
    (Instr.pkln6 d a b j).floatsIf (fun c => c.ln6Check d a b j.toNat true) (fun c k => (c.g.pack6 a b k).2) (fun c k l =>
      let v := (c.g.pack6 a b k).1
      match c.g.group6 d j.toNat with
      | some (u, off) => { c.g.writeBytes l u false off (leBytes 3 v) with latch := some (BitVec.ofNat 64 v) }
      | none => l) ∧
    (Instr.upln6 d a b j).floatsIf (fun c => c.ln6Check a d b j.toNat false)
      (fun c k => (c.g.unpack6 a b j.toNat k).foldl (fun x r => x ||| r.2) 0) (fun c k l =>
      let vs := (c.g.unpack6 a b j.toNat k).map fun r => BitVec.ofNat 32 r.1
      { vs.zipIdx.foldl (fun l p => c.g.put32 (d + BitVec.ofNat 8 p.2) p.1 l) l with latch := some ((vs.headD 0).setWidth 64) })) ∧
  (∀ (g : Gang) (a b : Opnd) (k : Nat),
    let code (m : Nat) : Nat × Flags := ln6Code ((g.r32 b k).toNat % 256) (f32.decode (g.vReg (g.lane k) (a.toNat + m)).toNat)
    g.pack6 a b k = ((code 0).1 + 64 * (code 1).1 + 4096 * (code 2).1 + 262144 * (code 3).1, (code 0).2 ||| (code 1).2 ||| (code 2).2 ||| (code 3).2)) ∧
  (∀ (scale : Nat) (n : Bool) (m : Nat) (e : Int) (v : FVal),
    let at_ (t : Int) : Nat × Nat := scaled (m ^ 8) 1 (8 * (e + 127 - scale) - t)
    let ge (t : Int) : Prop := (at_ t).2 ≤ (at_ t).1
    let le (t : Int) : Prop := (at_ t).1 ≤ (at_ t).2
    ln6Code 255 v = (0x30, fNV) ∧
    (scale ≠ 255 → ∀ q, ln6Code scale (.nan q) = (0x30, fNV)) ∧
    (scale ≠ 255 → ln6Code scale (.inf n) = (32 * n.toNat + 15, fOF ||| fNX)) ∧
    (scale ≠ 255 → ln6Code scale (.fin n 0 e) = (0x10, 0)) ∧
    (scale ≠ 255 → m ≠ 0 →
      (ge 31 → ln6Code scale (.fin n m e) = (32 * n.toNat + 15, fOF ||| fNX)) ∧
      (le (-31) → ln6Code scale (.fin n m e) = (0x10, fUF ||| fNX)) ∧
      (¬ge 31 → ¬le (-31) → ∃ l : Int, ge (2 * l - 1) ∧ le (2 * l + 1) ∧ (le (2 * l - 1) ∨ ge (2 * l + 1) → l % 2 = 0) ∧
        ln6Code scale (.fin n m e) = (32 * n.toNat + (l % 32).toNat, if ge (2 * l) ∧ le (2 * l) then 0 else fNX)))) ∧
  ∀ (rm : RM) (scale code : Nat), code < 64 →
    ln6Value rm scale code =
      if scale = 255 ∨ code = 0x30 then (0x7FC00000, fNV) else if code = 0x10 then (0, 0)
      else f32.round rm (decide (32 ≤ code)) ([0x800000, 0x9837F0, 0xB504F3, 0xD744FD].getD (code % 4) 0) 1
        ((BitVec.ofNat 3 (code / 4)).toInt - 23 + ((scale : Int) - 127))

/-- R168 to R171: the shuffles, the votes, the ballot, the match and the reductions.
The model's choices that it rests on: log entry 52, for the floating-point sum of R171. -/
def Obligations.CrossLaneResults : Prop :=
  ∀ d a b : Opnd,
    (∀ (wide : Bool) (pv : BitVec 3),
      (Instr.shfl d a b wide pv).shuffles d a b wide pv (fun _ n => some n) ∧
      (Instr.shflup d a b wide pv).shuffles d a b wide pv (fun k n => if k < n then none else some (k - n)) ∧
      (Instr.shfldn d a b wide pv).shuffles d a b wide pv (fun k n => some (k + n)) ∧
      (Instr.shflx d a b wide pv).shuffles d a b wide pv (fun k n => some (k ^^^ n))) ∧
    (Instr.voteall d a).acts [(.predDst, d), (.predSrc, a)] (fun _ c _ => resPred d (decide (∀ j ∈ c.act, c.g.rPred a j))) ∧
    (Instr.voteany d a).acts [(.predDst, d), (.predSrc, a)] (fun _ c _ => resPred d (decide (∃ j ∈ c.act, c.g.rPred a j))) ∧
    (Instr.ballot d a).acts [(.dst true, d), (.predSrc, a)] (fun _ c _ => c.g.res64 d (maskOf (c.act.filter (c.g.rPred a)))) ∧
    (Instr.matchLanes d a).acts [(.dst true, d), (.src false, a)] (fun _ c k =>
      c.g.res64 d (maskOf (c.act.filter fun j => c.g.r32 a j == c.g.r32 a k))) ∧
    (∀ (wide : Bool) (op : BitVec 4),
      (Instr.gred d a wide op).reduces d a wide op.toNat (fun act _ => act) ∧
      (Instr.gscan d a wide op).reduces d a wide op.toNat (fun act k => act.filter (· ≤ k)))

/-- R170: the integer operators of the reductions: a sum modulo 2^n, the least and the greatest value by either order, and the bitwise
operators, whatever the number of lanes. -/
def Obligations.ReductionOperators : Prop :=
  ∀ (n : Nat) (v : BitVec n) (vs : List (BitVec n)),
    redAll 0 (v :: vs) = BitVec.ofNat n (((v :: vs).map BitVec.toNat).sum) ∧
    (redAll 2 (v :: vs) ∈ v :: vs ∧ ∀ x ∈ v :: vs, (redAll 2 (v :: vs)).toInt ≤ x.toInt) ∧
    (redAll 3 (v :: vs) ∈ v :: vs ∧ ∀ x ∈ v :: vs, x.toInt ≤ (redAll 3 (v :: vs)).toInt) ∧
    (redAll 4 (v :: vs) ∈ v :: vs ∧ ∀ x ∈ v :: vs, (redAll 4 (v :: vs)).toNat ≤ x.toNat) ∧
    (redAll 5 (v :: vs) ∈ v :: vs ∧ ∀ x ∈ v :: vs, x.toNat ≤ (redAll 5 (v :: vs)).toNat) ∧
    (∀ k : Nat, (redAll 6 (v :: vs)).getLsbD k = (v :: vs).all (·.getLsbD k)) ∧
    (∀ k : Nat, (redAll 7 (v :: vs)).getLsbD k = (v :: vs).any (·.getLsbD k)) ∧
    (∀ k : Nat, (redAll 8 (v :: vs)).getLsbD k = ((v :: vs).countP (·.getLsbD k) % 2 == 1))

/-- R147, R149, R181, R186, R188 to R190: the words without a register result and those that read time and random numbers. -/
def Obligations.ServiceWordResults : Prop :=
  Instr.nop.doesIf (fun _ _ => True) (fun s c => s.put c c.emptied) ∧
  Instr.yield.doesIf (fun _ _ => True) (fun s c => s.put c c.emptied) ∧
  Instr.accclr.doesIf (fun _ _ => True) (fun s c => s.put c { c.emptied with accn := 0, propn := 0 }) ∧
  (∀ (which : BitVec 8) (imm : BitVec 16),
    (Instr.view which imm).trapsIf (fun _ c => 2#8 < which ∨ viewOk c.g.inHandler which.toNat imm = false) (fun _ _ => illOpnd) ∧
    (Instr.view which imm).doesIf (fun _ c => which ≤ 2#8 ∧ viewOk c.g.inHandler which.toNat imm = true)
      (fun s c => s.put c ((c.g.setView which.toNat (imm.setWidth 32)).mapLanes c.act fun _ l => { l with latch := none }))) ∧
  ∀ (d a : Opnd) (tag : BitVec 16),
    (Instr.rand d).acts [(.dst false, d)] (fun _ c k l =>
      let z := (c.g.lane k).rand + 0x9E3779B97F4A7C15
      let x := (z ^^^ (z >>> 30)) * 0xBF58476D1CE4E5B9
      let y := (x ^^^ (x >>> 27)) * 0x94D049BB133111EB
      { c.g.res32 d ((y ^^^ (y >>> 31)).extractLsb' 32 32) l with rand := z }) ∧
    (Instr.rseed a).acts [(.src true, a)] (fun _ c k l => { l with rand := c.g.r64 a k, latch := none }) ∧
    (Instr.time d).acts [(.dst true, d)] (fun s c _ => c.g.res64 d s.pkg.time) ∧
    (Instr.cycle d).acts [(.dst true, d)] (fun s c _ => c.g.res64 d (s.cycle c.g.core)) ∧
    (Instr.accrd d).acts [(.dst true, d)] (fun _ c _ => c.g.res64 d (c.g.propn ++ c.g.accn)) ∧
    (Instr.trace a tag).trapsIf (fun _ c => 220#8 < a ∨ c.g.place c.g.vbNow (4 * a.toNat) 16 = none) (fun _ _ => illOpnd) ∧
    (Instr.trace a tag).doesIf
      (fun _ c => a ≤ 220#8 ∧ c.g.place c.g.vbNow (4 * a.toNat) 16 ≠ none ∧ c.g.poisonAt [c.low] a 4 = none)
      (fun s c => (s.put c c.emptied).trace (16 + c.g.die) 0 (coreNum c.g.core) 1 tag.toNat
        (wordBytes ((List.range 4).map fun j => c.g.vReg (c.g.lane c.low) (a.toNat + j))))

/-- R150, R151: RDSR of each register of the table: its value in a lane; a privileged number outside privileged state traps PRIV, and a number
of no register traps ILLOPND. -/
def Obligations.SpecialRegisterReads : Prop :=
  ∀ (d : Opnd) (num : BitVec 16),
    (Instr.rdsr d num).trapsIf (fun _ c => srPriv num.toNat = true ∧ c.g.privileged = false) (fun _ _ => priv) ∧
    (Instr.rdsr d num).trapsIf (fun s c => (srPriv num.toNat = true → c.g.privileged = true) ∧ s.pairSr c.g num.toNat = none ∧
      s.wordSr c.g c.idx 0 num.toNat = none) (fun _ _ => illOpnd) ∧
    (∀ p : Nat × (State → Gang → DWord),
      p ∈ ([(0x000, fun s _ => s.pkg.time), (0x002, fun s g => s.cycle g.core), (0x00B, fun _ g => g.argBase),
        (0x021, fun _ g => g.trapPc), (0x024, fun _ g => g.trapArg), (0x027, fun _ g => g.tvec), (0x100, fun s g => (s.ctx g.ctx).pvec),
        (0x105, fun s g => (s.ctx g.ctx).spBase), (0x108, fun s g => (s.ctx g.ctx).spillBase)] : List (Nat × (State → Gang → DWord))) →
      (Instr.rdsr d (BitVec.ofNat 16 p.1)).actsIf
        (fun _ c => if srPriv p.1 && !c.g.privileged then some priv else if d == 0xE9 then some illOpnd else c.check [(.dst true, d)])
        (fun s c _ => c.g.res64 d (p.2 s c.g)) ∧
      (Instr.rdsr d (BitVec.ofNat 16 (p.1 + 1))).actsIf
        (fun _ c => if srPriv (p.1 + 1) && !c.g.privileged then some priv else c.check [(.dst false, d)])
        (fun s c _ => c.g.res32 d (field (p.2 s c.g) 32 32))) ∧
    (∀ p : Nat × (State → Issue → Nat → Word),
      p ∈ ([(0x004, fun _ c _ => BitVec.ofNat 32 c.g.id),
        (0x005, fun s c _ => ((s.team c.g.teamKey).map Team.teamid).getD 0),
        (0x006, fun _ c _ => BitVec.ofNat 32 (coreX c.g.core + 256 * coreY c.g.core)), (0x007, fun _ c _ => BitVec.ofNat 32 c.g.width),
        (0x008, fun _ c _ => BitVec.ofNat 32 (c.g.splitCount + 65536 * c.g.ovf)), (0x009, fun _ c _ => BitVec.ofNat 32 c.idx),
        (0x00A, fun _ c _ => c.g.launch), (0x00D, fun s c _ => ((s.team c.g.teamKey).map Team.cluster).getD 0),
        (0x00E, fun _ c _ => BitVec.ofNat 32 (c.g.slice + 256 * c.g.level)), (0x010, fun _ c _ => c.g.vbNow),
        (0x011, fun _ c _ => c.g.tbNow), (0x012, fun _ c _ => c.g.abNow),
        (0x013, fun _ c _ => if c.g.inHandler then 256 else BitVec.ofNat 32 c.g.regBytes), (0x020, fun _ c _ => c.g.trapCode),
        (0x023, fun _ c k => if k < 32 then field c.g.trapMask 0 32 else field c.g.trapMask 32 32), (0x026, fun _ c _ => c.g.trapSplit),
        (0x029, fun _ c _ => c.g.fuseTmo), (0x02A, fun _ c _ => c.g.fpctl), (0x02B, fun _ c _ => c.g.fpflags),
        (0x030, fun _ c _ => c.g.accn), (0x031, fun _ c _ => c.g.propn), (0x032, fun _ c k => c.g.shstate k),
        (0x040, fun _ c _ => c.g.batch), (0x050, fun s c _ => (s.progress c.g).1), (0x051, fun s c _ => (s.progress c.g).2.1),
        (0x052, fun s c _ => (s.progress c.g).2.2.1), (0x053, fun s c _ => (s.progress c.g).2.2.2),
        (0x102, fun s c _ => (s.ctx c.g.ctx).ctxid), (0x103, fun s c _ => (s.ctx c.g.ctx).partid.setWidth 32),
        (0x104, fun s c _ => (s.ctx c.g.ctx).drainLim), (0x107, fun s c _ => (s.ctx c.g.ctx).spLim)] : List (Nat × (State → Issue → Nat → Word))) →
      (Instr.rdsr d (BitVec.ofNat 16 p.1)).actsIf
        (fun _ c => if srPriv p.1 && !c.g.privileged then some priv else c.check [(.dst false, d)])
        (fun s c k => c.g.res32 d (p.2 s c k)))

/-- R83, R149, R150, R151, R205: WRSR writes the value of the lowest-numbered taking-part lane: the writable registers, whole or but for their reserved
bits, bits 63:32 of a pair at its second number, and nothing where the register is read-only. A number of no register, a view that may not be and a window
outside the scratchpad trap ILLOPND. -/
def Obligations.SpecialRegisterWrites : Prop :=
  ∀ (d : Opnd) (num : BitVec 16),
    (Instr.wrsr d num).trapsIf (fun _ c => srPriv num.toNat = true ∧ c.g.privileged = false) (fun _ _ => priv) ∧
    (∀ p : Nat × (State → Issue → DWord → State),
      p ∈ ([(0x000, fun s _ _ => s), (0x002, fun s _ _ => s), (0x00B, fun s _ _ => s), (0x024, fun s _ _ => s), (0x108, fun s _ _ => s),
        (0x021, fun s c v => s.put c (c.g.setTrapPc v)), (0x027, fun s c v => s.put c { c.g with tvec := v &&& ~~~3#64 }),
        (0x100, fun s c v => s.setCtx c.g.ctx { s.ctx c.g.ctx with pvec := v &&& ~~~3#64 })] :
          List (Nat × (State → Issue → DWord → State))) →
      (Instr.wrsr d (BitVec.ofNat 16 p.1)).doesIf
        (fun _ c => (srPriv p.1 = true → c.g.privileged = true) ∧ c.one.check [(.src true, d)] = none)
        (fun s c => (p.2 s c (c.g.r64 d c.low)).dropLatch c)) ∧
    (∀ p : Nat × (State → Issue → Word → State),
      p ∈ ([(0x004, fun s _ _ => s), (0x005, fun s _ _ => s), (0x006, fun s _ _ => s), (0x007, fun s _ _ => s), (0x008, fun s _ _ => s),
        (0x009, fun s _ _ => s), (0x00A, fun s _ _ => s), (0x00D, fun s _ _ => s), (0x00E, fun s _ _ => s), (0x013, fun s _ _ => s),
        (0x020, fun s _ _ => s), (0x023, fun s _ _ => s), (0x030, fun s _ _ => s), (0x031, fun s _ _ => s), (0x032, fun s _ _ => s),
        (0x040, fun s _ _ => s), (0x050, fun s _ _ => s), (0x051, fun s _ _ => s), (0x052, fun s _ _ => s),
        (0x053, fun s _ _ => s), (0x102, fun s _ _ => s), (0x103, fun s _ _ => s),
        (0x026, fun s c v => if c.g.inHandler then s.put c { c.g with trapSplit := setBit c.g.trapSplit 4 (bit v 4) } else s),
        (0x029, fun s c v => s.put c { c.g with fuseTmo := v }), (0x02A, fun s c v => s.put c { c.g with fpctl := v &&& 0x1F03 }),
        (0x02B, fun s c v => s.put c { c.g with fpflags := v &&& 0x1F }),
        (0x104, fun s c v => s.setCtx c.g.ctx { s.ctx c.g.ctx with drainLim := v })] : List (Nat × (State → Issue → Word → State))) →
      (Instr.wrsr d (BitVec.ofNat 16 p.1)).doesIf
        (fun _ c => (srPriv p.1 = true → c.g.privileged = true) ∧ c.one.check [(.src false, d)] = none)
        (fun s c => (p.2 s c (c.g.r32 d c.low)).dropLatch c)) ∧
    (∀ p : Nat × (State → Issue → Word → State),
      p ∈ ([(0x001, fun s _ _ => s), (0x003, fun s _ _ => s), (0x00C, fun s _ _ => s), (0x025, fun s _ _ => s), (0x109, fun s _ _ => s),
        (0x022, fun s c v => s.put c (c.g.setTrapPc (v ++ field c.g.trapPc 0 32))),
        (0x028, fun s c v => s.put c { c.g with tvec := v ++ field c.g.tvec 0 32 }),
        (0x101, fun s c v => s.setCtx c.g.ctx { s.ctx c.g.ctx with pvec := v ++ field (s.ctx c.g.ctx).pvec 0 32 })] :
          List (Nat × (State → Issue → Word → State))) →
      (Instr.wrsr d (BitVec.ofNat 16 p.1)).doesIf
        (fun _ c => (srPriv p.1 = true → c.g.privileged = true) ∧ c.one.check [(.src false, d)] = none)
        (fun s c => (p.2 s c (c.g.r32 d c.low)).dropLatch c)) ∧
    (Instr.wrsr d num).trapsIf (fun s c => (srPriv num.toNat = true → c.g.privileged = true) ∧ c.one.check [(.src false, d)] = none ∧
      s.pairSr c.g num.toNat = none ∧ s.wordSr c.g c.idx 0 num.toNat = none) (fun _ _ => illOpnd) ∧
    (∀ which : Nat, which ≤ 2 →
      let good (c : Issue) : Prop := (c.g.r32 d c.low).toNat < 2 ^ 16 ∧ viewOk c.g.inHandler which (field (c.g.r32 d c.low) 0 16) = true
      (Instr.wrsr d (BitVec.ofNat 16 (0x010 + which))).doesIf (fun _ c => c.one.check [(.src false, d)] = none ∧ good c)
        (fun s c => (s.put c (c.g.setView which (c.g.r32 d c.low))).dropLatch c) ∧
      (Instr.wrsr d (BitVec.ofNat 16 (0x010 + which))).trapsIf (fun _ c => c.one.check [(.src false, d)] = none ∧ ¬good c) (fun _ _ => illOpnd)) ∧
    (Instr.wrsr d 0x105).trapsIf
      (fun s c => c.g.privileged = true ∧ c.one.check [(.src true, d)] = none ∧ windowOk (c.g.r64 d c.low) (s.ctx c.g.ctx).spLim = false)
      (fun _ _ => illOpnd) ∧
    (Instr.wrsr d 0x107).trapsIf
      (fun s c => c.g.privileged = true ∧ c.one.check [(.src false, d)] = none ∧ windowOk (s.ctx c.g.ctx).spBase (c.g.r32 d c.low) = false)
      (fun _ _ => illOpnd) ∧
    (∀ base : State → Issue → DWord, (base = fun s c => c.g.r32 d c.low ++ field (s.ctx c.g.ctx).spBase 0 32) →
      (Instr.wrsr d 0x106).doesIf
        (fun s c => c.g.privileged = true ∧ c.one.check [(.src false, d)] = none ∧ windowOk (base s c) (s.ctx c.g.ctx).spLim = true)
        (fun s c => (s.setCtx c.g.ctx { s.ctx c.g.ctx with spBase := base s c }).dropLatch c) ∧
      (Instr.wrsr d 0x106).trapsIf
        (fun s c => c.g.privileged = true ∧ c.one.check [(.src false, d)] = none ∧ windowOk (base s c) (s.ctx c.g.ctx).spLim = false)
        (fun _ _ => illOpnd)) ∧
    (Instr.wrsr d 0x105).doesIf
      (fun s c => c.g.privileged = true ∧ c.one.check [(.src true, d)] = none ∧
        windowOk (c.g.r64 d c.low) (s.ctx c.g.ctx).spLim = true)
      (fun s c => (s.setCtx c.g.ctx { s.ctx c.g.ctx with spBase := c.g.r64 d c.low }).dropLatch c) ∧
    (Instr.wrsr d 0x107).doesIf
      (fun s c => c.g.privileged = true ∧ c.one.check [(.src false, d)] = none ∧
        windowOk (s.ctx c.g.ctx).spBase (c.g.r32 d c.low) = true)
      (fun s c => (s.setCtx c.g.ctx { s.ctx c.g.ctx with spLim := c.g.r32 d c.low }).dropLatch c)

/-- R21, R22, R80: the issue of a clause header: a header of no meaning traps, an unsatisfied wait waits, a satisfied one delivers the oldest failure of its
counter, and otherwise the lanes of the split enter the clause with an empty latch, the live ones that the guard admits taking part; every other lane is as it was. R107:
a split of age 64 is promoted.
The model's choices that it rests on: log entries 11, 14 and 20. -/
def Obligations.HeaderIssue : Prop :=
  (∀ (s : State) (c : Issue) (hdr : Word), s.issuer = some c → decodeHeader hdr = none →
    exec (.clauseIssue hdr) s = .next (s.takeTrap c.key c.idx cILLCLAUSE 0 (hdr.setWidth 64) c.sp.mask false none)) ∧
  (∀ (s : State) (c : Issue) (hdr : Word) (h : Header), s.issuer = some c → decodeHeader hdr = some h →
    h.we = true → h.wthr.toNat < c.g.pending h.wctr.toNat →
    exec (.clauseIssue hdr) s = .next (s.hold c .wait)) ∧
  (∀ (s : State) (c : Issue) (hdr : Word) (h : Header) (f : Failure), s.issuer = some c → decodeHeader hdr = some h →
    h.we = true → c.g.pending h.wctr.toNat ≤ h.wthr.toNat → c.g.failures.find? (fun x => x.ctr == h.wctr.toNat) = some f →
    exec (.clauseIssue hdr) s = .next ((s.put c (c.g.consume f)).takeTrap c.key c.idx f.code f.cause f.arg f.mask false (some f))) ∧
  (∀ (s : State) (c : Issue) (hdr : Word) (h : Header), s.issuer = some c → decodeHeader hdr = some h →
    (h.we = true → c.g.pending h.wctr.toNat ≤ h.wthr.toNat ∧ c.g.failures.all (fun f => f.ctr != h.wctr.toNat)) →
    ∃ g : Gang, exec (.clauseIssue hdr) s = .next (s.put c g) ∧
      g = { c.g with lanes := g.lanes, splits := c.g.splits.set c.idx (some { headerAt (c.sp.pc + 4) c.sp.mask with incl := true, hdr := hdr }) } ∧
      g.lanes.length = c.g.lanes.length ∧
      ∀ k < c.g.lanes.length, g.lane k =
        if k < c.g.width ∧ c.sp.mask.getLsbD k then
          { c.g.lane k with latch := none, takes := (c.g.lane k).live && (!h.ge || ((c.g.lane k).preds.getLsbD h.gp.toNat != h.gn)) }
        else c.g.lane k) ∧
  (∀ (s : State) (gang entry : Nat) (g : Gang) (sp : Split), s.gang gang = some g → g.split entry = some sp → 64 ≤ sp.age →
    exec (.issueAgePromotion gang entry) s = .next (s.setGang gang (g.setSplit entry (some { sp with promoted := true }))))

/-- R27, R35, R112, R173 to R176: where each control transfer sends the lanes of its split; the lanes that do not go there go on at the header that
follows the clause. The latch of the taking-part lanes is emptied, or holds the link that CALL and CALLX write. EXIT outside a handler takes its lanes out of
the gang; inside one they leave the interrupted table and the overflow records too, a record without a lane being removed, and a record that cannot be read or
written traps.
The model's choices that it rests on: log entries 11, 12, 14 and 52. -/
def Obligations.ControlTransfers : Prop :=
  let same : State → Issue → State := fun s c => s.put c c.emptied
  (∀ disp : BitVec 24, (Instr.bra disp).transfersTo (fun _ => none) same fun c =>
    [(c.sp.header + 4 * disp.signExtend 64, c.mask), (c.sp.after, c.sp.mask &&& ~~~c.mask)]) ∧
  (∀ (neg : Bool) (p : BitVec 3) (disp : BitVec 20), (Instr.brp neg p disp).transfersTo (fun _ => none) same fun c =>
    let take := maskOf (c.act.filter fun k => (c.g.lane k).preds.getLsbD p.toNat ^^ neg)
    [(c.sp.header + 4 * disp.signExtend 64, take), (c.sp.after, c.sp.mask &&& ~~~take)]) ∧
  (∀ (neg : Bool) (p : BitVec 3) (disp : BitVec 20), (Instr.bru neg p disp).transfersTo (fun _ => none) same fun c =>
    let take := if ∀ k ∈ c.act, ((c.g.lane k).preds.getLsbD p.toNat ^^ neg) = true then c.mask else 0
    [(c.sp.header + 4 * disp.signExtend 64, take), (c.sp.after, c.sp.mask &&& ~~~take)]) ∧
  (∀ a : Opnd, (Instr.brx a).transfersTo (fun c => (c.check [(.src true, a)]).or (c.badTarget a)) same (·.byTarget a)) ∧
  (∀ disp : BitVec 24, (Instr.call disp).transfersTo (fun _ => none)
    (fun s c => s.put c (c.g.mapLanes c.act fun _ => c.g.res64 0xE6 c.sp.after)) fun c =>
    [(c.sp.header + 4 * disp.signExtend 64, c.mask), (c.sp.after, c.sp.mask &&& ~~~c.mask)]) ∧
  (∀ d a : Opnd, (Instr.callx d a).transfersTo (fun c => (c.check [(.dst true, d), (.src true, a)]).or (c.badTarget a))
    (fun s c => s.put c (c.g.mapLanes c.act fun _ => c.g.res64 d c.sp.after)) (·.byTarget a)) ∧
  (∀ a : Opnd, (Instr.ret a).transfersTo (fun c => (c.check [(.src true, a)]).or (c.badTarget a)) same (·.byTarget a)) ∧
  Instr.exit.waitsIf (fun _ c => c.g.handler = none) (fun s c =>
    let rest := c.sp.mask &&& ~~~c.mask
    let g := c.g.mapLanes c.act fun _ l => { l with live := false, written := 0, latch := none, takes := false }
    let g := g.setSplit c.idx (if rest = 0 then none else some (headerAt c.sp.after rest))
    ((s.put c (if g.liveList = [] then { g.settled with failures := [] } else g)).arrive c.key c.idx).exitChecks c.g.teamKey c.g.core) ∧
  ∀ (s : State) (c : Issue) (h : Handler), s.issues c .exit → c.g.handler = some h →
    let rest := c.sp.mask &&& ~~~c.mask
    let g := c.g.mapLanes c.act fun _ l => { l with live := false, written := 0, latch := none, takes := false }
    let g := { g.setSplit c.idx (if rest = 0 then none else some (headerAt c.sp.after rest)) with
      handler := some { h with splits := h.splits.map fun o => o.bind fun sp =>
        if sp.mask &&& ~~~c.mask = 0 then none else some { sp with mask := sp.mask &&& ~~~c.mask } } }
    let g := if g.liveList = [] then { g.settled with failures := [] } else g
    let freed := (List.range 4).filter fun i => (h.splits.getD i none).any fun sp => sp.mask &&& ~~~c.mask == 0
    let kept := (List.range g.ovf).filter fun r => match (s.put c g).readOvf g r with
      | .ok x => x.2 &&& ~~~c.mask != 0
      | .error _ => false
    (c.g.ovf = 0 → exec .exit s = .next (((s.put c g).arrive c.key c.idx).exitChecks c.g.teamKey c.g.core)) ∧
    (∀ t, (s.put c g).dropOvf c.key c.mask = .error t → exec .exit s = .next (s.trapped c .exit t)) ∧
    (∀ t, (s.put c g).dropOvf c.key c.mask = .ok t → t.gang c.key = some { g with ovf := kept.length } ∧
      exec .exit s = .next (((t.popInterrupted c.key freed).arrive c.key c.idx).exitChecks c.g.teamKey c.g.core))

/-- R35, R112, R173, R174: a branch that only some of a split's lanes take divides it: the lanes that take it keep the split's index, the others
take the lowest free entry at the following header, the latch of the lanes that take part is emptied, and, where no other split stands at either place, nothing
else of the machine changes.
The model's choices that it rests on: log entry 52. -/
def Obligations.BranchDivides : Prop :=
  ∀ (s : State) (c : Issue) (neg : Bool) (p : BitVec 3) (disp : BitVec 20) (j : Nat),
    s.issues c (.brp neg p disp) →
    let take := maskOf (c.act.filter fun k => (c.g.lane k).preds.getLsbD p.toNat ^^ neg)
    let target := c.sp.header + 4 * disp.signExtend 64
    take ≠ 0 → c.sp.mask &&& ~~~take ≠ 0 → target ≠ c.sp.after →
    c.g.splits.length = 4 → c.idx < 4 → j < 4 → c.g.split j = none → (∀ k < j, c.g.split k ≠ none) →
    (∀ k o, k ≠ c.idx → c.g.split k = some o → o.incl = true ∨ (o.pc ≠ target ∧ o.pc ≠ c.sp.after)) →
    exec (.brp neg p disp) s = .next (s.put c ((c.emptied.setSplit c.idx (some (headerAt target take))).setSplit j
      (some (headerAt c.sp.after (c.sp.mask &&& ~~~take)))))

/-- R177, R178: TRAP and BRK trap, and RTT resumes past them; RTT outside a handler traps; inside one its lanes stand at it, with their latch emptied, and the
handler returns when every split of it stands at its RTT. Lanes of the split that do not take part go on at the following header as a split of their own, for
which a table without a free entry traps.
The model's choices that it rests on: log entries 11 and 12. -/
def Obligations.TrapInstructions : Prop :=
  let rest (c : Issue) : BitVec 64 := c.sp.mask &&& ~~~c.mask
  let stands (c : Issue) : Gang := c.emptied.setSplit c.idx (some { c.sp with mask := c.mask, hold := .rtt })
  (∀ imm : BitVec 16, (Instr.trap imm).trapsIf (fun _ _ => True)
    (fun _ _ => { code := cSWTRAP, arg := some (imm.setWidth 64), skip := true })) ∧
  Instr.brk.trapsIf (fun _ _ => True) (fun _ _ => { code := cDEBUG, arg := some 0, skip := true }) ∧
  Instr.rtt.trapsIf (fun _ c => c.g.handler = none) (fun _ _ => illOpnd) ∧
  Instr.rtt.waitsIf (fun _ c => c.g.handler ≠ none ∧ rest c = 0 ∧ ∃ k o, k ≠ c.idx ∧ c.g.split k = some o ∧ o.hold ≠ .rtt)
    (fun s c => s.put c (stands c)) ∧
  Instr.rtt.waitsIf (fun _ c => c.g.handler ≠ none ∧ rest c = 0 ∧ ∀ k o, k ≠ c.idx → c.g.split k = some o → o.hold = .rtt)
    (fun s c => (s.put c (stands c)).returnTrap c.key) ∧
  Instr.rtt.trapsIf (fun _ c => c.g.handler ≠ none ∧ rest c ≠ 0 ∧ ∀ k < 4, c.g.split k ≠ none)
    (fun s c => { code := cDIVOVF, arg := some (s.ovfRow c.g c.g.ovf) }) ∧
  (∀ j : Nat, Instr.rtt.waitsIf (fun _ c => c.g.handler ≠ none ∧ rest c ≠ 0 ∧ c.g.splits.length = 4 ∧ j < 4 ∧ c.g.split j = none ∧
      (∀ k < j, c.g.split k ≠ none) ∧ ∀ k o, k ≠ c.idx → c.g.split k = some o → o.incl = true ∨ o.pc ≠ c.sp.after)
    (fun s c => s.put c ((stands c).setSplit j (some (headerAt c.sp.after (rest c))))))

/-- R82, R83: taking a trap: the trap registers hold the code, the position, the lanes and the argument; the gang's splits, predicates, latches and
taking-part bits are kept; one split of every live lane stands at TVEC; the handler's predicates are 0 and no register of the gang changes.
The model's choices that it rests on: log entries 11 and 21. -/
def Obligations.TrapEntry : Prop :=
  ∀ (s : State) (key idx code cause : Nat) (arg : DWord) (mask : BitVec 64) (skip : Bool) (f : Option Failure) (g : Gang) (sp : Split),
    s.gang key = some g → g.split idx = some sp → g.handler = none → g.tvec ≠ 0 → s.umbraTaken (g.setSplit idx (some { sp with hold := .run })) = false →
    ∃ h : Gang, s.takeTrap key idx code cause arg mask skip f = (s.setGang key h).trapTrace h ∧
      h.trapCode = BitVec.ofNat 32 (code + 256 * cause) ∧ h.trapPc = sp.pc ∧ h.trapMask = mask ∧ h.trapArg = arg ∧
      h.trapSplit = BitVec.ofNat 32 (idx + (if skip then 16 else 0) + 256 * sp.midx + (if sp.mvalid then 8192 else 0)) ∧
      h.splits = [some { pc := g.tvec, mask := g.live }, none, none, none] ∧
      (∃ hd : Handler, h.handler = some hd ∧ hd.splits = g.splits.set idx (some { sp with hold := .run }) ∧ hd.reason = none ∧ hd.failure = f ∧
        hd.lanes = g.lanes.map fun l => ⟨l.preds, l.latch, l.takes⟩) ∧
      h.lanes.length = g.lanes.length ∧
      ∀ k < g.lanes.length, (h.lane k).preds = 0 ∧ (h.lane k).latch = none ∧ (h.lane k).regs = (g.lane k).regs ∧
        (h.lane k).ofile = (g.lane k).ofile ∧ (h.lane k).live = (g.lane k).live ∧ (h.lane k).shadow = (g.lane k).shadow

/-- R84, R87, R178: the return from a trap handler whose interrupted table is good: the gang's own splits stand again, at the words where they stood, and every
lane has the predicates, latch and taking-part bit it had; a split goes on once its clause's header has been read again. Where SKIP is set the trapped one is
past its word at once, so that a forced save finds it there.
The model's choices that it rests on: log entries 12 and 13. -/
def Obligations.TrapReturn : Prop :=
  (∀ (s : State) (key : Nat) (g : Gang) (h : Handler),
    s.gang key = some g → g.handler = some h → h.reason = none → g.saving = none → s.asks = [] → (∀ r < g.ovf, ∃ x, s.readOvf g r = .ok x) →
    tableOk g.live ((h.splits.filterMap fun o => o.map (·.mask)) ++ s.ovfMasks g) 0 = true → h.lanes.length = g.lanes.length →
    bit g.trapSplit 4 = false → (∀ sp, h.splits.getD (bits g.trapSplit 0 2) none = some sp → sp.resume ≠ some true) →
    ∃ g' : Gang, s.returnTrap key = (s.setGang key g').retryTraps g.core ∧ g'.handler = none ∧ g'.splits.length = h.splits.length ∧
      (∀ k sp, h.splits.getD k none = some sp → ∃ sp', g'.split k = some sp' ∧ sp'.pc = sp.pc ∧ sp'.mask = sp.mask ∧ sp'.incl = sp.incl ∧
        (sp.incl = true → sp'.widx = sp.widx ∧ sp'.mvalid = sp.mvalid ∧ sp'.midx = sp.midx ∧ sp'.mparams = sp.mparams ∧
          ∃ past, sp'.resume = some past ∧ (past = true ↔ sp.resume = some true))) ∧
      ∀ k < g.lanes.length, (g'.lane k).preds = (h.lanes.getD k ⟨0, none, false⟩).preds ∧
        (g'.lane k).latch = (h.lanes.getD k ⟨0, none, false⟩).latch ∧ (g'.lane k).takes = (h.lanes.getD k ⟨0, none, false⟩).takes ∧
        (g'.lane k).regs = (g.lane k).regs ∧ (g'.lane k).ofile = (g.lane k).ofile) ∧
  (∀ (s : State) (key : Nat) (g : Gang) (h : Handler),
    s.gang key = some g → g.handler = some h → h.reason = none → g.saving = none → s.asks = [] → (∀ r < g.ovf, ∃ x, s.readOvf g r = .ok x) →
    tableOk g.live ((h.splits.filterMap fun o => o.map (·.mask)) ++ s.ovfMasks g) 0 = true → h.lanes.length = g.lanes.length → h.splits.length = 4 →
    bit g.trapSplit 4 = true → ∀ (sp : Split) (hdr : Word) (n : Nat), h.splits.getD (bits g.trapSplit 0 2) none = some sp →
    s.fetch g.die g.ctx sp.header = .ok hdr → sp.incl = true → sp.mvalid = false →
    let past : Split := { sp with hdr := hdr, resume := none, hold := sp.hold.kept }
    s.wordsAt (g.leave h) past = .ok n → (past.next n).incl = true →
    ∃ g' : Gang, s.returnTrap key = (s.setGang key g').retryTraps g.core ∧ g'.handler = none ∧
      g'.split (bits g.trapSplit 0 2) = some (past.next n)) ∧
  (∀ (s : State) (c : Issue) (hdr : Word), s.fetch c.g.die c.g.ctx c.sp.header = .ok hdr → c.sp.incl = true → c.sp.mvalid = false →
    let sp := { c.sp with hdr := hdr, resume := none }
    s.resumeSplit c false = s.put c (c.g.setSplit c.idx (some sp)) ∧
    ∀ n, s.wordsAt c.g sp = .ok n → (sp.next n).incl = true → s.resumeSplit c true = s.put c (c.g.setSplit c.idx (some (sp.next n))))

/-- R45, R46, R95, R179 to R181: MCALL of an empty entry traps, and otherwise fixes its parameters and the microprogram as it stands, FORK starts the core's sequencer or says why not, JOINE
waits for it in mode 0 and reads its status, DOZE waits for TIME and DOZE_WAKE ends the wait.
The model's choices that it rests on: log entries 13 and 16. -/
def Obligations.EngineCallWords : Prop :=
  (∀ (n : BitVec 8) (b : Opnd) (params : Word),
    (Instr.mcall n b params).trapsIf (fun s c => tgetD (s.core c.g.core).control n.toNat [] = [])
      (fun _ _ => illOp) ∧
    (Instr.mcall n b params).waitsIf
      (fun s c => c.one.check [(.src false, b)] = none ∧ tgetD (s.core c.g.core).control n.toNat [] ≠ [])
      (fun s c => s.put c (c.g.setSplit c.idx (some { c.sp with
        mvalid := true, midx := 0, mparams := c.g.r32 b c.low ++ params, mprog := tgetD (s.core c.g.core).control n.toNat [], hold := .run })))) ∧
  (∀ (d a b : Opnd) (ctr : BitVec 4),
    let ok (c : Issue) : Prop := c.check [(.dst false, d)] = none ∧ c.one.check [(.src true, a), (.src false, b)] = none ∧
      field (c.g.r64 a c.low) 0 2 = 0
    (Instr.fork d a b ctr).trapsIf (fun _ c => c.check [(.dst false, d)] = none ∧
      c.one.check [(.src true, a), (.src false, b)] = none ∧ field (c.g.r64 a c.low) 0 2 ≠ 0)
      (fun _ c => { code := cMISALIGN, arg := some (c.g.r64 a c.low) }) ∧
    (∀ n : Nest, (Instr.fork d a b ctr).doesIf (fun s c => ok c ∧ (s.core c.g.core).nest = some n)
      (fun s c => s.put c (c.g.mapLanes c.act fun _ => c.g.res32 d (if n.gang = c.g.id then 2 else 1)))) ∧
    (Instr.fork d a b ctr).waitsIf (fun s c => ok c ∧ (s.core c.g.core).nest = none ∧ 63 ≤ c.g.outstanding ctr.toNat)
      (fun s c => s.hold c .wait) ∧
    (Instr.fork d a b ctr).doesIf (fun s c => ok c ∧ (s.core c.g.core).nest = none ∧ c.g.outstanding ctr.toNat < 63)
      (fun s c =>
        let nest : Nest := { gang := c.g.id, ctr := ctr.toNat, ppc := c.g.r64 a c.low, pblk := (c.g.r32 b c.low).toNat,
                             word := wordArg (encode (.fork d a b ctr)).2, since := s.cycle c.g.core, stepOp := s.nextOp }
        let g := (c.g.mapLanes c.act fun _ => c.g.res32 d 0).setCtr ctr.toNat (c.g.outstanding ctr.toNat + 1)
        ((s.setCore c.g.core { s.core c.g.core with nest := some nest }).put c g).kick (.tileStep c.g.core))) ∧
  (∀ (d : Opnd) (mode : BitVec 8),
    let busy (s : State) (c : Issue) : Prop := ∃ n, s.nestOf c.g = some n ∧ n.state = 1
    (Instr.joine d mode).waitsIf (fun s c => c.check [(.dst false, d)] = none ∧ mode = 0 ∧ busy s c) (fun s c => s.hold c .wait) ∧
    (Instr.joine d mode).doesIf (fun s c => c.check [(.dst false, d)] = none ∧ (mode = 0 → ¬busy s c))
      (fun s c => s.put c (c.g.mapLanes c.act fun _ => c.g.res32 d (s.progress c.g).2.2.2))) ∧
  (∀ a : Opnd,
    (Instr.doze a).doesIf (fun s c => c.check [(.src true, a)] = none ∧ ∀ k ∈ c.act, c.g.r64 a k ≤ s.pkg.time) (fun s c => s.put c c.emptied) ∧
    (Instr.doze a).waitsIf (fun s c => c.check [(.src true, a)] = none ∧ c.sp.hold ≠ .woken ∧ ∃ k ∈ c.act, s.pkg.time < c.g.r64 a k)
      (fun s c => s.hold c (.doze (c.latest a)))) ∧
  (∀ (s : State) (gang entry : Nat) (g : Gang) (sp : Split) (t : DWord),
    s.gang gang = some g → g.split entry = some sp → sp.hold = .doze t → t ≤ s.pkg.time → g.frozen = false →
    exec (.dozeWake gang entry) s = .next (s.setGang gang (g.setSplit entry (some { sp with hold := .woken }))))

/-- R115 to R119, R114: CONVERGE waits for the gang's splits and joins them in the lowest entry; SPLIT traps where it may not be, waits for a gathered, drained
gang, and divides it into parts or gives status 1; FUSE gives the status of a failed check, waits for its buddy, or, with a buddy of equal views, joins the two
gangs and gives status 0; FUSETMO_EXPIRY ends that wait; GANG_END frees the gang once no lane of it lives, and reports what failed since.
The model's choices that it rests on: log entries 13, 14, 15 and 16. -/
def Obligations.WidthChanges : Prop :=
  (∀ (s : State) (c : Issue), s.issues c .converge →
    (c.gathered = false → exec .converge s = .next (s.hold c .converge)) ∧
    (∀ first : Nat, c.gathered = true → first < 4 → c.g.split first ≠ none → (∀ k < first, c.g.split k = none) →
      let g := { c.g with splits := (List.replicate 4 none).set first (some { c.sp with mask := c.g.allMask, hold := .run }) }
      exec .converge s = .next ((s.put c (g.dropLatch c.g.allActive)).advance c.key first 1))) ∧
  (∀ (s : State) (c : Issue) (d : Opnd) (w : BitVec 8), s.issues c (.split d w) → c.check [(.dst false, d)] = none →
    let needed : Nat := ((List.range (c.g.width / w.toNat)).filter fun j =>
      j != 0 && ((c.g.lanes.drop (j * w.toNat)).take w.toNat).any (·.live)).length
    let status (v : Word) : Gang := c.g.mapLanes c.g.allActive fun _ => c.g.res32 d v
    (c.g.handler ≠ none ∨ c.g.width ≤ w.toNat → exec (.split d w) s = .next (s.trapped c (.split d w) illOpnd)) ∧
    (c.g.handler = none → w.toNat < c.g.width → c.g.proposal ≠ none → exec (.split d w) s = .next (s.trapped c (.split d w) shadowErr)) ∧
    (c.g.handler = none → w.toNat < c.g.width → c.g.proposal = none →
      (c.gathered = false ∨ c.g.drained = false → exec (.split d w) s = .next (s.hold c .converge)) ∧
      (c.gathered = true → c.g.drained = true → needed ≤ (s.freeIds c.g.core).length →
        exec (.split d w) s = .next (s.placeParts (status 0) (c.sp.next 1) w.toNat)) ∧
      (c.gathered = true → c.g.drained = true → (s.freeIds c.g.core).length < needed →
        exec (.split d w) s = .next ([0, 1, 2, 3].foldl (fun t i => if c.g.split i ≠ none then t.advance c.key i 1 else t) (s.put c (status 1)))))) ∧
  (∀ (s : State) (c : Issue) (d : Opnd), s.issues c (.fuse d) → c.check [(.dst false, d)] = none →
    let gives (v : Word) : Prop := exec (.fuse d) s = .next ((s.put c (c.g.mapLanes (c.g.active c.sp) fun _ => c.g.res32 d v)).past c (.fuse d))
    let late : Bool := c.sp.hold.overdue c.g.fuseTmo (s.cycle c.g.core)
    (c.g.handler ≠ none → exec (.fuse d) s = .next (s.trapped c (.fuse d) illOpnd)) ∧
    (c.g.handler = none →
      (c.sp.hold = .fuseTmo ∨ late = true → gives 6) ∧ (c.sp.hold = .fuseGone → gives 1) ∧
      (c.sp.hold ≠ .fuseTmo → c.sp.hold ≠ .fuseGone → late = false →
        (∀ v, s.fuseCheck c.g = some v → gives v) ∧
        (s.fuseCheck c.g = none → c.g.drained = false → exec (.fuse d) s = .next (s.hold c .wait)) ∧
        (s.fuseCheck c.g = none → c.g.drained = true →
          (s.buddy c.g = none → c.g.fuseTmo = 0 → gives 6) ∧
          (s.buddy c.g = none → c.g.fuseTmo ≠ 0 → (∀ t e, c.sp.hold ≠ .fuse t e) →
            exec (.fuse d) s = .next (s.hold c (.fuse (s.cycle c.g.core) d))) ∧
          (∀ t e, s.buddy c.g = none → c.g.fuseTmo ≠ 0 → c.sp.hold = .fuse t e → exec (.fuse d) s = .next s) ∧
          (∀ k b j sp e, s.buddy c.g = some (k, b, j, sp, e) →
            (∀ v, pairCheck c.g b = some v → exec (.fuse d) s =
              .next ((((s.put c (c.g.fuseStatus c.sp d v)).setGang k (b.fuseStatus sp e v)).advance k j 1).past c (.fuse d))) ∧
            (pairCheck c.g b = none → exec (.fuse d) s = .next (
              if c.g.slice < b.slice then s.joinGangs (c.g.fuseStatus c.sp d 0) (b.fuseStatus sp e 0) (some (c.sp.next 1)) (some (sp.next 1))
              else s.joinGangs (b.fuseStatus sp e 0) (c.g.fuseStatus c.sp d 0) (some (sp.next 1)) (some (c.sp.next 1))))))))) ∧
  (∀ (s : State) (gang entry : Nat) (g : Gang) (sp : Split), s.gang gang = some g → g.split entry = some sp →
    (∀ t d, sp.hold = .fuse t d → g.fuseTmo.toNat ≤ (s.cycle g.core - t).toNat → g.frozen = false →
      exec (.fusetmoExpiry gang entry) s = .next (s.setGang gang (g.setSplit entry (some { sp with hold := .fuseTmo })))) ∧
    (sp.hold.overdue g.fuseTmo (s.cycle g.core) = false ∨ g.frozen = true → exec (.fusetmoExpiry gang entry) s = .next s)) ∧
  (∀ (s : State) (gang : Nat) (g : Gang), s.gang gang = some g →
    (s.gangDone g = false → exec (.gangEnd gang) s = .next s) ∧
    (s.gangDone g = true → g.failures = [] → exec (.gangEnd gang) s = .next ((s.dropGang gang false).retryTraps g.core)) ∧
    (∀ f fs, s.gangDone g = true → g.failures = f :: fs → exec (.gangEnd gang) s = .next
      ((({ s with launches := tmod s.launches g.launch.toNat fun l =>
        if l.status = 0 then { l with status := 1, code := f.code + 256 * f.cause } else l } : State).dropGang gang false).retryTraps g.core)))

/-- R117, R119: the parts of a divided gang hold its lanes in order, each part the lanes, the slices and the width of its place; a fused gang holds
the lanes of the lower gang and then those of the upper one, the OR of their flags and the sums of their proposal counts. -/
def Obligations.WidthKeepsLanes : Prop :=
  (∀ (g : Gang) (sp : Split) (w id : Nat), 0 < w → g.lanes.length = g.width → w ∣ g.width →
    (List.range (g.width / w)).flatMap (fun j => (g.part sp w j id).lanes) = g.lanes) ∧
  (∀ (g : Gang) (sp : Split) (w j id : Nat) (k : Nat), k < w →
    (g.part sp w j id).lane k = g.lane (j * w + k) ∧ (g.part sp w j id).width = w ∧ (g.part sp w j id).slice = g.slice + j * (w / 4)) ∧
  (∀ (a b : Gang) (sa sb : Option Split) (k : Nat), a.lanes.length = a.width →
    ((fuseGangs a b sa sb).lane k = if k < a.width then a.lane k else b.lane (k - a.width)) ∧
    (fuseGangs a b sa sb).fpflags = a.fpflags ||| b.fpflags ∧ (fuseGangs a b sa sb).accn = a.accn + b.accn ∧
    (fuseGangs a b sa sb).propn = a.propn + b.propn)

/-- R122, R183 to R186: the words of a proposal: SHBEGIN opens it, ACCEPT decides it lane by lane and closes it, SHABORT discards it, SHREAD reads a
group word; out of place each traps SHADOWERR. -/
def Obligations.ProposalWords : Prop :=
  (∀ (vb : Opnd) (n : BitVec 8),
    (Instr.shbegin vb n).trapsIf (fun _ c => c.g.proposal ≠ none ∨ c.g.handler ≠ none) (fun _ _ => shadowErr) ∧
    (Instr.shbegin vb n).doesIf (fun _ c => c.g.proposal = none ∧ c.g.handler = none ∧ n ≠ 0 ∧ n.toNat ≤ 16 ∧ vb.toNat < 224 ∧
      vb.toNat + n.toNat ≤ 224 ∧ c.g.vb.toNat + 4 * (vb.toNat + n.toNat) ≤ c.g.regBytes)
      (fun s c => s.put c (({ c.g with
        proposal := some ⟨vb.toNat, n.toNat, c.g.vb.toNat⟩
        lanes := c.g.lanes.map fun l => { l with written := 0 } } : Gang).dropLatch c.act))) ∧
  (∀ (d a b : Opnd) (natural : Bool),
    (Instr.accept d a b natural).trapsIf (fun _ c => c.g.proposal = none ∨ c.g.handler ≠ none) (fun _ _ => shadowErr) ∧
    (∀ p : Proposal, (Instr.accept d a b natural).doesIf
      (fun _ c => c.g.proposal = some p ∧ c.g.handler = none ∧ c.check [(.predDst, d), (.src false, a), (.src false, b)] = none)
      (fun s c =>
        let yes (k : Nat) : Bool := accepts natural (c.g.r32 a k) (c.g.r32 b k)
        let g := c.g.mapLanes c.act fun k l => resPred d (yes k) (if yes k then l.accept p else l)
        s.put c { g with
          lanes := g.lanes.map fun l => { l with written := 0 }
          proposal := none
          accn := c.g.accn + BitVec.ofNat 32 (c.act.countP yes)
          propn := c.g.propn + BitVec.ofNat 32 c.act.length }))) ∧
  Instr.shabort.trapsIf (fun _ c => c.g.proposal = none ∨ c.g.handler ≠ none) (fun _ _ => shadowErr) ∧
  Instr.shabort.doesIf (fun _ c => c.g.proposal ≠ none ∧ c.g.handler = none) (fun s c =>
    s.put c (({ c.g with proposal := none, lanes := c.g.lanes.map fun l => { l with written := 0 } } : Gang).dropLatch c.act)) ∧
  (∀ d a : Opnd,
    (Instr.shread d a).trapsIf (fun _ c => c.g.proposal = none) (fun _ _ => shadowErr) ∧
    (∀ p : Proposal, (Instr.shread d a).trapsIf (fun _ c => c.g.proposal = some p ∧ (a.toNat < p.vbase ∨ p.vbase + p.n ≤ a.toNat))
      (fun _ _ => illOpnd)) ∧
    (∀ p : Proposal, (Instr.shread d a).doesIf
      (fun _ c => c.g.proposal = some p ∧ p.vbase ≤ a.toNat ∧ a.toNat < p.vbase + p.n ∧ c.check [(.dst false, d)] = none ∧
        ∀ k ∈ c.act, (c.g.groupRead p (a.toNat - p.vbase) k).2 = false)
      (fun s c => s.put c (c.g.mapLanes c.act fun k => c.g.res32 d (c.g.groupRead p (a.toNat - p.vbase) k).1))))

/-- R122, R184: a lane that accepts exchanges the two copies of each group word it has written, a lane that does not keeps the committed copies:
outside the group's written words no register of the lane changes. -/
def Obligations.AcceptExchanges : Prop :=
  ∀ (p : Proposal) (l : Lane), p.n ≤ 16 →
    (∀ j < p.n, l.written.getLsbD j = true →
      tgetD (l.accept p).regs (p.base + j) 0 = tgetD l.shadow j 0 ∧ tgetD (l.accept p).shadow j 0 = tgetD l.regs (p.base + j) 0 ∧
        (l.accept p).bank.getLsbD j = !l.bank.getLsbD j ∧ ((l.accept p).poison.contains (p.base + j) = l.shPoison.getLsbD j) ∧
        (l.accept p).shPoison.getLsbD j = l.poison.contains (p.base + j)) ∧
    (∀ w : Nat, (∀ j < p.n, w = p.base + j → l.written.getLsbD j = false) →
      tgetD (l.accept p).regs w 0 = tgetD l.regs w 0 ∧ ((l.accept p).poison.contains w = l.poison.contains w)) ∧
    (l.accept p).preds = l.preds ∧ (l.accept p).ofile = l.ofile ∧ (l.accept p).latch = l.latch ∧ (l.accept p).rand = l.rand ∧
      (l.accept p).written = 0

/-- R203, R206, R207, R227: the accesses of team memory and of barrier words: their checks in order, and what each lane's part of the access is.
The model's choices that it rests on: log entries 46 and 48. -/
def Obligations.TeamMemoryAccesses : Prop :=
  let pa (s : State) (c : Issue) (a : Opnd) (j : Nat) : Nat := (s.teamMem c.g).1 + (c.g.r64 a j).toNat
  (∀ (d a : Opnd) (ctr size : BitVec 4),
    let n := sizeBytes size.toNat
    let acc (s : State) (c : Issue) (k : AccKind) (dest : Dest) (data : Nat → Nat) : Access :=
      { kind := k, space := .team, dest := dest, size := size.toNat
        parts := c.act.map fun j => { lane := j, va := c.g.r64 a j, pa := pa s c a j, len := n, data := data j } }
    (Instr.ldt d a ctr size).accesses ctr.toNat
      (fun s c => (firstTrap [c.dataTrap false true d n, c.check [(.src true, a)], c.offsetTrap a n (s.teamMem c.g).2 cPERMFAULT]).or
        (s.clobTrap (acc s c .load (c.g.destOf d n) fun _ => 0)))
      (fun s c => acc s c .load (c.g.destOf d n) fun _ => 0) ∧
    (Instr.stt d a ctr size).accesses ctr.toNat
      (fun s c => (firstTrap [c.dataTrap true false d n, c.check [(.src true, a)], c.offsetTrap a n (s.teamMem c.g).2 cPERMFAULT]).or
        (s.clobTrap (acc s c .store .none (c.g.dataVal d n))))
      (fun s c => acc s c .store .none (c.g.dataVal d n))) ∧
  (∀ (d a b : Opnd) (wide : Bool) (op ctr : BitVec 4),
    let n := if wide then 8 else 4
    let acc (s : State) (c : Issue) : Access :=
      { kind := .atomic op.toNat, space := .team, dest := c.g.destOf d n, size := if wide then 3 else 2, rm := c.g.rm
        parts := c.act.map fun j =>
          { lane := j, va := c.g.r64 a j, pa := pa s c a j, len := n
            data := if wide then (c.g.r64 b j).toNat else (c.g.r32 b j).toNat
            cmp := if op = 10#4 then c.g.dataVal d n j else 0 } }
    (Instr.atomt d a b wide op ctr).accesses ctr.toNat
      (fun s c => (firstTrap [if 10#4 < op then some illOpnd else none, c.dataTrap (op == 10) true d n,
        c.check [(.src true, a), (.src wide, b)], c.offsetTrap a n (s.teamMem c.g).2 cPERMFAULT]).or (s.clobTrap (acc s c)))
      acc) ∧
  (∀ (d a b : Opnd) (logs : BitVec 4) (logn : BitVec 5) (ctr : BitVec 4),
    let acc (s : State) (c : Issue) : Access :=
      { kind := .ring c.act.length logs.toNat logn.toNat, space := .team, dest := c.g.destOf d 4, size := 2
        parts := c.act.map fun j =>
          { lane := j, va := c.g.r64 a c.low, pa := pa s c a c.low, len := 4, data := (c.g.r32 b j).toNat, cmp := c.act.idxOf j } }
    (Instr.ringrot d a b logs logn ctr).accesses ctr.toNat
      (fun s c => (firstTrap [if logs < 2#4 || 10#4 < logs || logn < 1#5 || 20#5 < logn then some illOpnd else none,
        c.dataTrap false true d 4, c.check [(.src false, b)], c.one.check [(.src true, a)],
        c.whole (c.one.offsetTrap a 4 (s.teamMem c.g).2 cPERMFAULT)]).or (s.clobTrap (acc s c)))
      acc) ∧
  (∀ (d a : Opnd) (ctr : BitVec 4),
    let acc (s : State) (c : Issue) (k : AccKind) : Access :=
      let w := s.barrierWord c.g (c.g.r64 a c.low)
      { kind := k, space := if w.1 then .pad else .team, dest := .none, size := 3
        parts := [{ lane := c.low, va := c.g.r64 a c.low, pa := w.2.2.1, len := 8, data := (c.g.r32 d c.low).toNat }] }
    (Instr.mbinit d a ctr).accesses ctr.toNat (fun s c => s.barrierTrap c d a) (fun s c => acc s c .mbinit) ∧
    (Instr.mbarv d a ctr).accesses ctr.toNat (fun s c => s.barrierTrap c d a) (fun s c => acc s c .mbarv))

/-- R204, R205, R208 to R213: the accesses of the spill stack, of the scratchpad and of virtual memory.
The model's choices that it rests on: log entries 46 and 49. -/
def Obligations.VirtualMemoryAccesses : Prop :=
  (∀ (d a : Opnd) (ctr size : BitVec 4),
    let n := sizeBytes size.toNat
    let small : Option Trap := if 3#4 < size then some illOpnd else none
    (Instr.ldsp d a ctr size).accesses ctr.toNat
      (fun _ c => firstTrap [small, c.dataTrap false true d n, c.check [(.src true, a)], c.offsetTrap a n (c.g.spBytes - 128) cSPILLOVF])
      (fun s c => { kind := .load, space := .virt, dest := c.g.destOf d n, size := size.toNat, parts := s.spillParts c a n fun _ => 0 }) ∧
    (Instr.stsp d a ctr size).accesses ctr.toNat
      (fun _ c => firstTrap [small, c.dataTrap true false d n, c.check [(.src true, a)], c.offsetTrap a n (c.g.spBytes - 128) cSPILLOVF])
      (fun s c => { kind := .store, space := .virt, dest := .none, size := size.toNat, parts := s.spillParts c a n (c.g.dataVal d n) }) ∧
    (Instr.ldp d a ctr size).accesses ctr.toNat
      (fun s c => firstTrap [c.dataTrap false true d n, c.check [(.src true, a)], c.offsetTrap a n (s.padMem c.g).2 cPERMFAULT])
      (fun s c => { kind := .load, space := .pad, dest := c.g.destOf d n, size := size.toNat
                    parts := c.partsAt a (s.padMem c.g).1 n (fun _ => 0) fun _ => 0 }) ∧
    (Instr.stp d a ctr size).accesses ctr.toNat
      (fun s c => firstTrap [c.dataTrap true false d n, c.check [(.src true, a)], c.offsetTrap a n (s.padMem c.g).2 cPERMFAULT])
      (fun s c => { kind := .store, space := .pad, dest := .none, size := size.toNat
                    parts := c.partsAt a (s.padMem c.g).1 n (c.g.dataVal d n) fun _ => 0 })) ∧
  (∀ (d a : Opnd) (ctr size : BitVec 4) (gx : MemGx),
    let n := sizeBytes size.toNat
    let none_ : Gang → Nat → Nat := fun _ _ => 0
    (Instr.ldg d a ctr size gx).globalAccess .load false true d a ctr gx gx.offset n n none_ none_ ∧
    (Instr.stg d a ctr size gx).globalAccess .store true false d a ctr gx gx.offset n n (fun g => g.dataVal d n) none_ ∧
    (Instr.atomg d a ctr size gx).globalAccess (.atomic (gx.offset.toNat % 16)) true true d a ctr gx (gx.offset &&& 0xFFF0) n n
      (fun g => g.dataVal d n) none_ ∧
    (Instr.faddg d a ctr size gx).globalAccess .fadd true true d a ctr gx gx.offset n n (fun g => g.dataVal d n) none_ ∧
    (Instr.casg d a ctr size gx).globalAccess .cas true true d a ctr gx gx.offset n (2 * n)
      (fun g j => g.dataVal d (2 * n) j / 2 ^ (8 * n)) (fun g j => g.dataVal d (2 * n) j % 2 ^ (8 * n)) ∧
    (Instr.acq d a ctr gx).globalAccess .acq false true d a ctr gx gx.offset 8 8 none_ none_ ∧
    (Instr.rel d a ctr gx).globalAccess .rel true false d a ctr gx gx.offset 8 8 (fun g => g.dataVal d 8) none_ ∧
    (Instr.prefg a ctr size gx).accesses ctr.toNat (fun _ c => c.check [(.src true, a)]) (fun _ c =>
      let va (j : Nat) : DWord := c.g.r64 a j + gx.offset.signExtend 64
      { kind := .pref, space := .virt, dest := .none, size := 5, scope := gx.scope.toNat, lat := gx.lat, nt := gx.nt
        parts := (c.act.filter fun j => canonical (va j)).map fun j =>
          { lane := j, va := BitVec.ofNat 64 ((va j).toNat / 64 * 64), len := 64 } }))

/-- R60 to R63, R65, R66, R219, R220, R222, R229: the waits, fences, batches and bindings, and the query and the release of a token, which waits until the
region's lines are at their home.
The model's choices that it rests on: log entries 22, 27 and 49. -/
def Obligations.OrderingWords : Prop :=
  (∀ (ctr : BitVec 4) (n : BitVec 8),
    (Instr.waitc ctr n).waitsIf (fun _ c => n.toNat < c.g.pending ctr.toNat) (fun s c => s.hold c .wait) ∧
    (∀ f : Failure, (Instr.waitc ctr n).waitsIf
      (fun _ c => c.g.pending ctr.toNat ≤ n.toNat ∧ c.g.failures.find? (fun x => x.ctr == ctr.toNat) = some f)
      (fun s c => (s.put c (c.g.consume f)).takeTrap c.key c.idx f.code f.cause f.arg f.mask false (some f))) ∧
    (Instr.waitc ctr n).doesIf
      (fun _ c => c.g.pending ctr.toNat ≤ n.toNat ∧ ∀ f ∈ c.g.failures, f.ctr ≠ ctr.toNat) (fun s c => s.put c c.emptied)) ∧
  (∀ scope : BitVec 2,
    (Instr.fence scope).waitsIf (fun s c => s.lanesBusy c.key scope.toNat c.act = true) (fun s c => s.hold c .wait) ∧
    (Instr.fence scope).doesIf (fun s c => s.lanesBusy c.key scope.toNat c.act = false)
      (fun s c => (if scope = 0 then s else s.dropL1 c.g.core).put c c.emptied)) ∧
  (∀ d : Opnd, (Instr.bseal d).doesIf (fun _ c => c.check [(.dst false, d)] = none)
    (fun s c => s.put c { c.g.mapLanes c.act fun _ => c.g.res32 d (c.g.batch + 1) with batch := c.g.batch + 1 })) ∧
  (∀ (d : Opnd) (imm : BitVec 16),
    let n (c : Issue) : Word := c.g.r32 d c.low + imm.setWidth 32
    let closed (c : Issue) : Prop := (n c - c.g.batch).toNat = 0 ∨ 2 ^ 31 < (n c - c.g.batch).toNat
    (Instr.bwait d imm).trapsIf (fun _ c => c.one.check [(.src false, d)] = none ∧ ¬closed c) (fun _ _ => illOpnd) ∧
    (Instr.bwait d imm).waitsIf (fun s c => c.one.check [(.src false, d)] = none ∧ closed c ∧ s.copiesDue c.key (n c) = true)
      (fun s c => s.hold c .wait) ∧
    (Instr.bwait d imm).doesIf (fun s c => c.one.check [(.src false, d)] = none ∧ closed c ∧ s.copiesDue c.key (n c) = false)
      (fun s c => (s.put c { c.emptied with
        wbatch := n c
        waited := if (n c).toNat ∈ c.g.waited then c.g.waited else (n c).toNat :: c.g.waited }).dropL1 c.g.core)) ∧
  (∀ (d a b : Opnd) (scope : BitVec 2),
    let base (c : Issue) : Nat := (c.g.r64 a c.low).toNat
    let len (c : Issue) : Nat := (c.g.r64 (a + 2) c.low).toNat
    let ok (c : Issue) : Prop := c.check [(.dst false, d)] = none ∧ c.one.check [(.src true, b)] = none ∧ c.one.dataTrap true true a 16 = none ∧
      len c ≠ 0 ∧ base c + len c ≤ 2 ^ 57 ∧ (c.g.r64 b c.low).toNat % 8 = 0
    (Instr.bind d a b scope).doesIf (fun s c => ok c ∧ tfree (s.ctx c.g.ctx).bindings 64 = none)
      (fun s c => (s.setCtx c.g.ctx (s.ctx c.g.ctx)).put c (c.g.mapLanes c.act fun _ => c.g.res32 d 0xFFFFFFFF)) ∧
    (∀ k : Nat, (Instr.bind d a b scope).doesIf (fun s c => ok c ∧ tfree (s.ctx c.g.ctx).bindings 64 = some k) (fun s c =>
      let new : Binding := ⟨base c / 64 * 64, (base c + len c + 63) / 64 * 64, c.g.r64 b c.low, scope.toNat⟩
      (s.setCtx c.g.ctx { s.ctx c.g.ctx with bindings := tput (s.ctx c.g.ctx).bindings k new }).put c
        (c.g.mapLanes c.act fun _ => c.g.res32 d (BitVec.ofNat 32 k)))) ∧
    (Instr.unbind a).doesIf (fun _ c => c.one.check [(.src false, a)] = none) (fun s c =>
      (s.setCtx c.g.ctx { s.ctx c.g.ctx with bindings := tdel (s.ctx c.g.ctx).bindings (c.g.r32 a c.low).toNat }).dropLatch c)) ∧
  (∀ (d a : Opnd),
    let ok (c : Issue) : Prop := c.check [(.dst false, d)] = none ∧ c.one.check [(.src true, a)] = none ∧ canonical (c.g.r64 a c.low) = true
    (Instr.tokqry d a).doesIf (fun _ c => ok c) (fun s c => s.put c (c.g.mapLanes c.act fun _ =>
      c.g.res32 d (match s.peerRegion c.g (c.g.r64 a c.low) with | none => 4 | some r => s.tokenState r))) ∧
    let fresh (c : Issue) : Prop := ∀ r v, c.sp.hold ≠ .tokrel r v
    let held (s : State) (c : Issue) (r : Nat) : Word := match tget s.pkg.tokens r with | some t => if c.g.ctx ∈ t.ctxs then 0 else 1 | none => 1
    (Instr.tokrel d a).doesIf (fun s c => ok c ∧ fresh c ∧ s.peerRegion c.g (c.g.r64 a c.low) = none)
      (fun s c => s.put c (c.g.mapLanes c.act fun _ => c.g.res32 d 1)) ∧
    (∀ r : Nat,
      (Instr.tokrel d a).doesIf
        (fun s c => ok c ∧ fresh c ∧ s.peerRegion c.g (c.g.r64 a c.low) = some r ∧ (s.releaseToken r c.g.ctx).returning r = false)
        (fun s c => (s.releaseToken r c.g.ctx).put c (c.g.mapLanes c.act fun _ => c.g.res32 d (held s c r))) ∧
      (Instr.tokrel d a).waitsIf
        (fun s c => ok c ∧ fresh c ∧ s.peerRegion c.g (c.g.r64 a c.low) = some r ∧ (s.releaseToken r c.g.ctx).returning r = true)
        (fun s c => (s.releaseToken r c.g.ctx).hold c (.tokrel r (held s c r))) ∧
      ∀ v : Word,
        (Instr.tokrel d a).waitsIf (fun s c => ok c ∧ c.sp.hold = .tokrel r v ∧ s.returning r = true) (fun s _ => s) ∧
        (Instr.tokrel d a).doesIf (fun s c => ok c ∧ c.sp.hold = .tokrel r v ∧ s.returning r = false)
          (fun s c => s.put c (c.g.mapLanes c.act fun _ => c.g.res32 d v))))

/-- R85, R225 to R227: the barriers: an arrival that does not complete its phase holds its split until the phase changes, of a team barrier and of the
cluster's; one that completes it goes on; BARARV arrives without a hold and BARWT waits for the phase it recorded; MBWAIT waits behind the accesses that it
follows, and while its word is live in the expected phase. In a handler
the waiting words are a double fault. A barrier completes exactly when the arrivals of its phase reach its target; its count then starts again from
0, and no other barrier of the team changes.
The model's choices that it rests on: log entries 15, 22 and 48. -/
def Obligations.BarrierWords : Prop :=
  (∀ (k : BitVec 4) (pub : Bool) (n4 : BitVec 8),
    let fresh (c : Issue) : Prop := c.g.handler = none ∧ ∀ j p, c.sp.hold ≠ .bar j p
    let phase (s : State) (c : Issue) : Nat := s.barPhase c.g.teamKey k.toNat
    let after (s : State) (c : Issue) : State := s.barArrive c k.toNat pub (4 * n4.toNat)
    (Instr.bar k pub n4).trapsIf (fun s c => c.g.handler ≠ none ∨ (fresh c ∧ s.barClash c.g.teamKey k.toNat (4 * n4.toNat) = true))
      (fun _ _ => illOpnd) ∧
    (Instr.bar k pub n4).waitsIf
      (fun s c => fresh c ∧ s.barClash c.g.teamKey k.toNat (4 * n4.toNat) = false ∧ phase (after s c) c = phase s c)
      (fun s c => (after s c).hold c (.bar k.toNat (phase s c))) ∧
    (Instr.bar k pub n4).doesIf
      (fun s c => fresh c ∧ s.barClash c.g.teamKey k.toNat (4 * n4.toNat) = false ∧ phase (after s c) c ≠ phase s c)
      (fun s c => (after s c).put c c.emptied) ∧
    (∀ j p : Nat, (Instr.bar k pub n4).waitsIf (fun s c => c.g.handler = none ∧ c.sp.hold = .bar j p ∧ phase s c = p) (fun s _ => s)) ∧
    (∀ j p : Nat, (Instr.bar k pub n4).doesIf (fun s c => c.g.handler = none ∧ c.sp.hold = .bar j p ∧ phase s c ≠ p)
      (fun s c => s.put c c.emptied)) ∧
    (Instr.bararv k pub n4).trapsIf (fun s c => s.barClash c.g.teamKey k.toNat (4 * n4.toNat) = true) (fun _ _ => illOpnd) ∧
    (Instr.bararv k pub n4).doesIf (fun s c => s.barClash c.g.teamKey k.toNat (4 * n4.toNat) = false) (fun s c =>
      (after s c).put c { c.emptied with arv := tput c.g.arv k.toNat (phase s c) })) ∧
  (∀ k : BitVec 4,
    let due (s : State) (c : Issue) : Prop := tget c.g.arv k.toNat = some (s.barPhase c.g.teamKey k.toNat)
    (Instr.barwt k).trapsIf (fun _ c => c.g.handler ≠ none) (fun _ _ => illOpnd) ∧
    (Instr.barwt k).waitsIf (fun s c => c.g.handler = none ∧ due s c) (fun s c => s.hold c .wait) ∧
    (Instr.barwt k).doesIf (fun s c => c.g.handler = none ∧ ¬due s c) (fun s c => s.put c c.emptied)) ∧
  (∀ (pub : Bool) (t : Team),
    (Instr.clbar pub).trapsIf (fun s c => s.team c.g.teamKey = some t ∧ c.g.handler ≠ none) (fun _ _ => illOpnd) ∧
    (∀ p : Nat, (Instr.clbar pub).waitsIf (fun s c => s.team c.g.teamKey = some t ∧ c.g.handler = none ∧ c.sp.hold = .clbar p ∧ t.clPhase = p)
      (fun s _ => s)) ∧
    (∀ p : Nat, (Instr.clbar pub).doesIf (fun s c => s.team c.g.teamKey = some t ∧ c.g.handler = none ∧ c.sp.hold = .clbar p ∧ t.clPhase ≠ p)
      (fun s c => s.put c c.emptied)) ∧
    (∀ t' : Team,
      let fresh (s : State) (c : Issue) : Prop := s.team c.g.teamKey = some t ∧ c.g.handler = none ∧ ∀ p, c.sp.hold ≠ .clbar p
      let after (s : State) (c : Issue) : State :=
        ((s.setTeam c.g.teamKey { t with clPubs := t.clPubs ++ c.g.pubs pub }).hold c (.clbar t.clPhase)).clusterCheck c.g.teamKey
      (Instr.clbar pub).waitsIf (fun s c => fresh s c ∧ (after s c).team c.g.teamKey = some t' ∧ t'.clPhase = t.clPhase) after ∧
      (Instr.clbar pub).doesIf (fun s c => fresh s c ∧ (after s c).team c.g.teamKey = some t' ∧ t'.clPhase ≠ t.clPhase)
        (fun s c => (after s c).put c c.emptied))) ∧
  (∀ d a : Opnd,
    let place (s : State) (c : Issue) : Nat := (s.barrierWord c.g (c.g.r64 a c.low)).2.2.1 % 2 ^ 44
    let word (s : State) (c : Issue) : DWord := BitVec.ofNat 64 (s.mem.readNat (place s c) 8)
    let due (s : State) (c : Issue) : Prop := (word s c).getLsbD 63 = true ∧ field (word s c) 48 15 = field (c.g.r32 d c.low) 0 15
    let behind (s : State) (c : Issue) : Bool :=
      let w := s.barrierWord c.g (c.g.r64 a c.low)
      let p : Part := { lane := c.low, va := c.g.r64 a c.low, pa := w.2.2.1, len := 8 }
      s.holdsBack c { kind := .load, space := if w.1 then .pad else .team, dest := .none, size := 3, parts := [p] } p
    let ok (s : State) (c : Issue) : Prop :=
      s.barrierTrap c d a = none ∧ c.g.handler = none ∧ behind s c = false ∧ s.mem.isBad (place s c) = false
    (Instr.mbwait d a).waitsIf (fun s c => s.barrierTrap c d a = none ∧ c.g.handler = none ∧ behind s c = true) (fun s c => s.hold c .wait) ∧
    (Instr.mbwait d a).trapsIf (fun s c => s.barrierTrap c d a = none ∧ c.g.handler ≠ none) (fun _ _ => illOpnd) ∧
    (Instr.mbwait d a).waitsIf (fun s c => ok s c ∧ due s c) (fun s c => s.hold c .wait) ∧
    (Instr.mbwait d a).doesIf (fun s c => ok s c ∧ ¬due s c)
      (fun s c => (s.dropL1 c.g.core).put c c.emptied)) ∧
  (∀ (s : State) (tk k n : Nat) (t : Team), s.team tk = some t → (t.bar k).target = some n →
    ∃ t' : Team, (s.barCheck tk k).team tk = some t' ∧ (∀ j, j ≠ k → t'.bar j = t.bar j) ∧
      (if (t.bar k).count < s.barTarget tk n then t' = t
       else (t'.bar k).phase = (t.bar k).phase + 1 ∧ (t'.bar k).count = 0 ∧ (t'.bar k).target = none))

/-- R216, R217, R221, R223, R224: TOKACQ and COLL put their request in flight under a counter, and SIGNAL subtracts at a signal object once the accesses that
it follows are performed; a held fault of it that has been cancelled fails it.
The model's choices that it rests on: log entries 27 and 49. -/
def Obligations.SplitRequests : Prop :=
  (∀ (d a : Opnd) (ex : Bool) (ctr : BitVec 4),
    let ok (c : Issue) : Prop := c.dataTrap false true d 4 = none ∧ c.one.check [(.src true, a)] = none ∧ canonical (c.g.r64 a c.low) = true
    let back (s : State) (c : Issue) : Prop := ∃ r, s.peerRegion c.g (c.g.r64 a c.low) = some r ∧ s.returning r = true
    (Instr.tokacq d a ex ctr).waitsIf (fun s c => ok c ∧ (63 ≤ c.g.outstanding ctr.toNat ∨ back s c)) (fun s c => s.hold c .wait) ∧
    ∀ s c, s.issues c (.tokacq d a ex ctr) → ok c → c.g.outstanding ctr.toNat < 63 → ¬back s c → ∃ (t : State) (p : Part),
      exec (.tokacq d a ex ctr) s = .next ((({ t with
        flight := tput t.flight s.nextOp ⟨c.key, c.g.ctx, ctr.toNat, .token (c.g.destOf d 4) c.act ex p none⟩ } : State).askToken s.nextOp).past c
          (.tokacq d a ex ctr)) ∧
      p.lane = c.low ∧ p.va = c.g.r64 a c.low ∧ t.nextOp = s.nextOp + 1 ∧ t.flight = s.flight ∧
      t.gang c.key = some ((c.g.setCtr ctr.toNat (c.g.outstanding ctr.toNat + 1)).mapLanes c.act fun _ l => { l with latch := none })) ∧
  (∀ (d a b : Opnd) (sock ctr : BitVec 4),
    let ok (c : Issue) : Prop := firstTrap [c.dataTrap false true d 4, c.one.check [(.src true, a), (.src false, b)],
      if field (c.g.r32 b c.low) 14 18 != 0 then some illOpnd else none, c.whole (c.one.addrTrap (fun _ => c.g.r64 a c.low) 64)] = none
    let room (s : State) : Prop := (s.base sock.toNat).inReset = true ∨ (s.base sock.toNat).starts.length < 64
    (Instr.coll d a b sock ctr).waitsIf (fun s c => ok c ∧ (63 ≤ c.g.outstanding ctr.toNat ∨ ¬room s)) (fun s c => s.hold c .wait) ∧
    ∀ s c, s.issues c (.coll d a b sock ctr) → ok c → c.g.outstanding ctr.toNat < 63 → room s → ∃ (t : State) (p : Part),
      exec (.coll d a b sock ctr) s = .next ((({ t with
        flight := tput t.flight s.nextOp
          ⟨c.key, c.g.ctx, ctr.toNat, .coll (c.g.destOf d 4) c.act sock.toNat (c.g.r32 b c.low).toNat p none⟩ } : State).enterStart s.nextOp).past c
          (.coll d a b sock ctr)) ∧
      p.lane = c.low ∧ p.va = c.g.r64 a c.low ∧ t.nextOp = s.nextOp + 1 ∧ t.flight = s.flight ∧
      t.gang c.key = some ((c.g.setCtr ctr.toNat (c.g.outstanding ctr.toNat + 1)).mapLanes c.act fun _ l => { l with latch := none })) ∧
  (∀ a b : Opnd,
    let ok (c : Issue) : Prop := firstTrap [c.one.check [(.src true, a), (.src false, b)],
      c.whole (c.one.addrTrap (fun _ => c.g.r64 a c.low) 16)] = none
    let part (c : Issue) : Part := { lane := c.low, va := c.g.r64 a c.low, len := 8 }
    let acc (c : Issue) : Access := { kind := .store, space := .virt, dest := .none, size := 3, ord := 2, scope := 2, parts := [part c] }
    let waits (s : State) (c : Issue) : Prop := s.holdsBack c (acc c) (s.resolve c.g.die c.g.ctx .store (part c)) = true
    let fresh (c : Issue) : Prop := ∀ code va, c.sp.hold ≠ .cancelled code va
    (∀ code va, (Instr.signal a b).trapsIf (fun _ c => c.sp.hold = .cancelled code va) (fun _ _ => { code := code, arg := some va })) ∧
    (Instr.signal a b).waitsIf (fun s c => fresh c ∧ ok c ∧ waits s c) (fun s c => s.hold c .wait) ∧
    (∀ t p cause seq level, (Instr.signal a b).waitsIf
      (fun s c => fresh c ∧ ok c ∧ ¬waits s c ∧ s.translateParts c.g .store [part c] = (t, [p]) ∧ p.st = .held cause seq level)
      (fun _ c => t.hold c (.fault (BitVec.ofNat 32 seq) cause (c.g.r64 a c.low)))) ∧
    ∀ s c t p u, s.issues c (.signal a b) → fresh c → ok c → ¬waits s c →
      s.translateParts c.g .store [part c] = (t, [p]) → p.isHeld = false →
      t.signalSub c.g.die c.g.ctx (c.g.r64 a c.low) ((c.g.r32 b c.low).setWidth 64) = .ok u →
      exec (.signal a b) s = .next ((((u.countRange c.g.die c.g.ctx (c.g.r64 a c.low) 8).dropLine c.g.core (p.memAt u)).dropLatch c).past c (.signal a b)))

/-- R201, R202, R36: the completion of an access all of whose parts are performed or have failed: the data of the performed parts lands at the
destination, the counter falls by one unless a failed load of it may still be completed by REPLV, and the failures wait for their delivery.
The model's choices that it rests on: log entries 14 and 22. -/
def Obligations.AccessCompletion : Prop :=
  ∀ (s : State) (op : Nat) (f : Flight) (g : Gang) (a : Access),
    tget s.flight op = some f → f.job = .access a → s.gang f.gang = some g → a.parts.all (fun p => !p.isOpen) = true →
    let fs := a.failures op f.ctr
    exec (.accessComplete op) s = .next ((({ s with flight := tdel s.flight op } : State).setGang f.gang
      { (if ∃ x ∈ fs, x.repl ≠ none then g.landParts a else (g.landParts a).setCtr f.ctr (g.outstanding f.ctr - 1)) with
        failures := g.failures ++ fs }).sendAll g.core)

/-- R53, R59, R203: a direct store to a line that is good and not guarded: the stored bytes read back, every other byte reads as before, and beside memory only the
core's own L1 line of that place changes: it goes. -/
def Obligations.DirectStore : Prop :=
  ∀ (s : State) (core ctx : Nat) (a : Access) (p : Part),
    a.kind = .store → s.mem.isBad (p.pa % 2 ^ 44) = false → s.mem.touchesTag (p.pa % 2 ^ 44) p.len = false →
    let t := (s.performDirect core ctx a p).1
    t.mem.readNat (p.pa % 2 ^ 44) p.len = p.data % 2 ^ (8 * p.len) ∧
    (∀ x, x < p.pa % 2 ^ 44 ∨ p.pa % 2 ^ 44 + p.len ≤ x → t.mem.byte x = s.mem.byte x) ∧
    t = { s.dropLine core (p.pa % 2 ^ 44) with mem := t.mem } ∧ t.mem.tags = s.mem.tags ∧ t.mem.bad = s.mem.bad

/-- R206, R211, R212, R227: what each atomic operator leaves in memory: the sum, the minimum and maximum by either order, the bitwise operators, the
exchange and the compare-and-swap, on n-byte values. An arrival on a memory barrier word that is not live changes nothing; otherwise it lowers the
pending count, or, where it is the phase's last, advances the phase modulo 2^15 and sets the pending count to the expected one. -/
def Obligations.MemoryOperators : Prop :=
  (∀ (w c phase expect pending : Nat), phase < 2 ^ 15 → expect < 2 ^ 16 → pending < 2 ^ 32 →
    (w < 2 ^ 63 → barArrival w c = w) ∧
    barArrival (barWord phase expect pending) c =
      if pending ≤ c then barWord ((phase + 1) % 2 ^ 15) expect expect else barWord phase expect (pending - c)) ∧
  ∀ (n : Nat) (rm : RM) (old data cmp : Nat), old < 2 ^ (8 * n) → data < 2 ^ (8 * n) →
    let i (v : Nat) : Int := (BitVec.ofNat (8 * n) v).toInt
    atomicOp n rm 0 old data cmp = (old + data) % 2 ^ (8 * n) ∧
    (n = 4 → atomicOp n rm 1 old data cmp = (f32.sum rm [f32.decode old, f32.decode data]).1) ∧
    (n = 8 → atomicOp n rm 1 old data cmp = (f64.sum rm [f64.decode old, f64.decode data]).1) ∧
    atomicOp n rm 2 old data cmp = (if i old < i data then old else data) ∧
    atomicOp n rm 3 old data cmp = (if i old < i data then data else old) ∧
    atomicOp n rm 4 old data cmp = (if old < data then old else data) ∧
    atomicOp n rm 5 old data cmp = (if old < data then data else old) ∧
    atomicOp n rm 6 old data cmp = Nat.land old data ∧ atomicOp n rm 7 old data cmp = Nat.lor old data ∧
    atomicOp n rm 8 old data cmp = Nat.xor old data ∧ atomicOp n rm 9 old data cmp = data ∧
    atomicOp n rm 10 old data cmp = (if old = cmp then data else old)

/-- R22, R26, R40, R47: a word of no taking-part lane only goes on; outside privileged state every word of opcodes 0xC0 to 0xC8 traps PRIV; a control
transfer that is not the last word of its clause traps ILLCLAUSE, and one inside a microprogram, like an MCALL there, traps ILLOP. -/
def Obligations.WordsOutOfPlace : Prop :=
  ∀ (s : State) (c : Issue) (i : Instr), s.issuer = some c →
    ((encode i).1 < 3 → c.act = [] → exec i s = .next (s.past c i)) ∧
    (c.act ≠ [] →
      (isPrivileged i = true → c.g.privileged = false → exec i s = .next (s.trapped c i priv)) ∧
      (isTransfer i = true → c.sp.mvalid = false → c.sp.widx + i.span ≠ c.sp.count → exec i s = .next (s.trapped c i illClause)) ∧
      (isTransfer i = true → c.sp.mvalid = true → exec i s = .next (s.trapped c i illOp)) ∧
      (∀ (n : BitVec 8) (b : Opnd) (p : Word), i = .mcall n b p → c.sp.mvalid = true → exec i s = .next (s.trapped c i illOp)))

/-- R191 to R198: the privileged instructions in a handler: what each writes, installs or reads, and the traps of an image that may not be; the lines of an
image are counted on their page (R290).
The model's choices that it rests on: log entries 9, 14, 19 and 42. -/
def Obligations.PrivilegedWords : Prop :=
  ∀ (a b d : Opnd) (h : Handler),
    let one (c : Issue) (us : List (Use × Opnd)) : Prop := c.g.handler = some h ∧ c.one.check us = none
    let va (c : Issue) : DWord := c.g.r64 a c.low
    (Instr.xsave a).waitsIf (fun _ c => one c [(.src true, a)] ∧ (va c).toNat % 256 = 0 ∧ c.g.drained = false) (fun s c => s.hold c .wait) ∧
    let image (c : Issue) : List Byte := c.g.imageHeader h ++ (List.range c.g.width).flatMap (c.g.imageLane h)
    (∀ t : State, (Instr.xsave a).doesIf (fun s c => one c [(.src true, a)] ∧ (va c).toNat % 256 = 0 ∧ c.g.drained = true ∧
        s.vwrite c.g.die c.g.ctx (va c) (image c) = .ok t)
      (fun _ c => ((t.countRange c.g.die c.g.ctx (va c) (image c).length).dropL1 c.g.core).dropLatch c)) ∧
    (∀ img : List Byte, (Instr.xrstr a).doesIf (fun s c => one c [(.src true, a)] ∧ (va c).toNat % 256 = 0 ∧
        s.vread c.g.die c.g.ctx (va c) c.g.imageSize = .ok img ∧ c.g.imageOk img = true)
      (fun s c => ((s.countRange c.g.die c.g.ctx (va c) c.g.imageSize).put c (c.g.install h img)).dropLatch c)) ∧
    (∀ img : List Byte, (Instr.xrstr a).trapsIf (fun s c => one c [(.src true, a)] ∧ (va c).toNat % 256 = 0 ∧
        s.vread c.g.die c.g.ctx (va c) c.g.imageSize = .ok img ∧ c.g.imageOk img = false) (fun _ _ => illOpnd)) ∧
    (Instr.splrd d a).doesIf (fun _ c => c.check [(.dst true, d)] = none ∧ one c [(.src false, a)] ∧ (c.g.r32 a c.low).toNat < 16)
      (fun s c => s.put c (c.g.mapLanes c.act fun _ => c.g.res64 d (
        let e := h.entry ((c.g.r32 a c.low).toNat % 4)
        match (c.g.r32 a c.low).toNat / 4 with
        | 0 => e.1
        | 1 => e.2.1
        | 2 => BitVec.ofNat 64 e.2.2
        | _ => BitVec.ofNat 64 (c.g.nsplitOf h)))) ∧
    (Instr.splwr a b).doesIf (fun _ c => one c [(.src false, a), (.src true, b)] ∧ (c.g.r32 a c.low).toNat < 12 ∧
        ((c.g.r32 a c.low).toNat < 4 → (c.g.r64 b c.low).toNat % 4 = 0))
      (fun s c => (s.put c (c.g.setItem h ((c.g.r32 a c.low).toNat % 4) ((c.g.r32 a c.low).toNat / 4) (c.g.r64 b c.low))).dropLatch c) ∧
    (∀ (f : Failure) (dest : Dest) (n : Nat), (Instr.replv a).doesIf
      (fun _ c => c.g.handler = some h ∧ h.failure = some f ∧ f.repl = some (dest, n) ∧ bits c.g.trapCode 0 8 = cMEMUE ∧
        (bits c.g.trapCode 8 8 = 1 ∨ bits c.g.trapCode 8 8 = 2) ∧ c.g.regsOk a n = true ∧
        c.g.poisonAt (c.act.filter fun k => c.g.trapMask.getLsbD k) a ((n + 3) / 4) = none)
      (fun s c =>
        let ls := c.act.filter fun k => c.g.trapMask.getLsbD k
        let g := c.g.mapLanes ls fun k => c.g.land dest (c.g.regBytesFrom a n k)
        let f' := { f with mask := f.mask &&& ~~~maskOf ls }
        let fs := if f'.mask = 0 then c.g.failures.erase f else c.g.failures.map fun x => if x = f then f' else x
        let g := { g with
          failures := fs
          handler := some { h with failure := some f' } }
        let g := if f.counted = true ∧ f.mask ≠ 0 ∧ f'.mask = 0 ∧ ∀ x ∈ fs, x.op = f.op → x.repl = none then g.setCtr f.ctr (c.g.outstanding f.ctr - 1) else g
        (s.put c g).dropLatch c)) ∧
    (Instr.tlbinv a b).doesIf (fun _ c => c.one.check [(.src true, a), (.src false, b)] = none ∧ (c.g.r32 b c.low).toNat ≤ 1)
      (fun s c => (s.dropTlb c.g.ctx (if c.g.r32 b c.low = 0 then some (va c) else none)).dropLatch c) ∧
    (Instr.tlbinv a b).trapsIf (fun _ c => c.one.check [(.src true, a), (.src false, b)] = none ∧ 1 < (c.g.r32 b c.low).toNat)
      (fun _ _ => illOpnd) ∧
    let shadow (s : State) (c : Issue) : List Byte :=
      leBytes 4 (match c.g.proposal with | none => 0 | some p => 65536 * p.vbase + 2 ^ 24 * p.n + 2 ^ 31)
        ++ leBytes 4 (match c.g.proposal with | none => (field (Config.freeValue (s.steps * 2 ^ 16 + 4096)) 0 32).toNat | some p => p.gvb)
        ++ leBytes 4 c.g.accn.toNat ++ leBytes 4 c.g.propn.toNat ++ leBytes 4 c.g.width ++ List.replicate 44 0
        ++ (List.range c.g.width).flatMap (c.g.shadowLane fun n => Config.freeValue (s.steps * 2 ^ 16 + n))
    (∀ t : State, (Instr.shsave a).doesIf (fun s c => one c [(.src true, a)] ∧ (va c).toNat % 64 = 0 ∧
        s.vwrite c.g.die c.g.ctx (va c) (shadow s c) = .ok t)
      (fun s c => ((t.countRange c.g.die c.g.ctx (va c) (shadow s c).length).dropL1 c.g.core).dropLatch c)) ∧
    (∀ img : List Byte, (Instr.shrstr a).doesIf (fun s c => one c [(.src true, a)] ∧ c.g.proposal = none ∧ (va c).toNat % 64 = 0 ∧
        s.vread c.g.die c.g.ctx (va c) (64 + c.g.width * 160) = .ok img ∧ c.g.shadowOk img = true)
      (fun s c =>
        let st := BitVec.ofNat 32 (fieldBytes img 0 4)
        let p : Option Proposal := if bit st 31 then some ⟨bits st 16 8, bits st 24 5, fieldBytes img 4 4⟩ else none
        ((s.countRange c.g.die c.g.ctx (va c) (64 + c.g.width * 160)).put c { c.g with
          proposal := p
          accn := BitVec.ofNat 32 (fieldBytes img 8 4)
          propn := BitVec.ofNat 32 (fieldBytes img 12 4)
          lanes := c.g.lanes.zipIdx.map fun (x : Lane × Nat) => shadowLaneIn img p (64 + 160 * x.2) x.1 }).dropLatch c)) ∧
    (∀ img : List Byte, ∀ first count : Nat, (Instr.mstore a b).doesIf
      (fun s c => c.one.check [(.src true, a), (.src false, b)] = none ∧ field (c.g.r32 b c.low) 16 16 = 0 ∧
        first = bits (c.g.r32 b c.low) 0 8 ∧ count = (if bits (c.g.r32 b c.low) 8 8 = 0 then 256 else bits (c.g.r32 b c.low) 8 8) ∧
        first + count ≤ 256 ∧ (va c).toNat % 4 = 0 ∧ s.vread c.g.die c.g.ctx (va c) (132 * count) = .ok img ∧ entriesOk img count = true)
      (fun s c => ((s.countRange c.g.die c.g.ctx (va c) (132 * count)).setCore c.g.core { s.core c.g.core with
        control := (List.range count).foldl (fun t e => tput t (first + e) (imageEntry img e)) (s.core c.g.core).control }).dropLatch c))

/-- R192, R193: a save image gives every lane back as it was: its registers, operand file, random state and live bit, and the predicates, the latch and
the taking-part bit of its interrupted split.
The model's choices that it rests on: log entry 19. -/
def Obligations.SaveImageRoundTrip : Prop :=
  ∀ (g : Gang) (h : Handler) (j k : Nat) (blank : Lane), j < g.width → g.regBytes % 4 = 0 → (g.lane j).poison = [] →
    let img := g.imageHeader h ++ (List.range g.width).flatMap (g.imageLane h)
    let r := imageLaneIn img (256 + j * (g.regBytes + 64)) g.regBytes blank
    let sv := h.lanes.getD j ⟨0, none, false⟩
    img.length = g.imageSize ∧
    (k < g.regBytes / 4 → tgetD r.1.regs k 0 = tgetD (g.lane j).regs k 0) ∧
    (k < 8 → tgetD r.1.ofile k 0 = tgetD (g.lane j).ofile k 0) ∧
    r.1.live = (g.lane j).live ∧ r.1.rand = (g.lane j).rand ∧ r.1.poison = [] ∧
    r.2.preds = sv.preds ∧ r.2.latch = sv.latch ∧ r.2.takes = h.partakes j

/-- R86 to R88, R216: a drain that has run its time is escalated; a gang to be saved that has no operation, no held access and no running program enters at
PVEC with the reason; without a PVEC the context ends; and a save held up beyond its bound is a drain failure.
The model's choices that it rests on: log entries 12 and 33. -/
def Obligations.Preemption : Prop :=
  (∀ (s : State) (x : Nat) (d : Drain) (before after : List Drain), (s.ctx x).drains = before ++ d :: after →
    (∀ e ∈ before ++ after, s.drainOver x e = false) → d.escalated = none → s.hasTeams x d.die = true →
    1000 * (s.ctx x).drainLim.toNat ≤ (s.pkg.time - d.since).toNat →
    exec (.drainlimExpiry x) s = .next (s.escalate x d (if (s.ctx x).immSave then 1 else 0))) ∧
  (∀ (s : State) (k reason idx : Nat) (g : Gang) (sp : Split), s.gang k = some g → g.saving = some reason → g.handler = none →
    g.pendingTrap = none → g.skipping = false → g.split idx = some sp → idx < 4 → (∀ j < idx, g.split j = none) → (s.core g.core).nest = none →
    g.drained = true → s.gangHeld k g = false → s.umbraTaken g = false →
    ((s.ctx g.ctx).pvec = 0 → exec (.preemptEntry k) s = .next (s.drainFailure g.ctx)) ∧
    ((s.ctx g.ctx).pvec ≠ 0 → (∀ j o, g.split j = some o → ∀ b p, o.hold ≠ .bar b p) →
      ∃ h : Gang, exec (.preemptEntry k) s = .next (((s.setGang k h).trapTrace h).preemptTrace g.ctx g.die 0 (coreNum g.core) 2 g.launch) ∧
        h.trapCode = BitVec.ofNat 32 cPREEMPT ∧ h.trapPc = sp.pc ∧ h.trapArg = BitVec.ofNat 64 reason ∧ h.trapMask = g.live ∧
        h.saving = none ∧ h.splits = [some { pc := (s.ctx g.ctx).pvec, mask := g.live }, none, none, none] ∧
        ∃ hd : Handler, h.handler = some hd ∧ hd.reason = some reason ∧ hd.lanes = g.lanes.map fun l => ⟨l.preds, l.latch, l.takes⟩)) ∧
  (∀ (s : State) (x k : Nat) (g : Gang), s.saveOverdue x g.die = true → (k, g) ∈ s.gangs → g.ctx = x →
    (g.frozen = true → s.gangHeld k g = true → exec (.forcedSaveHeldTimeout x) s = .next (s.drainFailure x)) ∧
    (g.saving ≠ none → g.handler ≠ none → exec (.handlerRttTimeout x) s = .next (s.drainFailure x)))

/-- R258 to R268: the hand-off of the words of the matrix engine on rows: their checks in order, and the job that the engine then holds.
The model's choices that it rests on: log entry 17. -/
def Obligations.MatrixRowHandOffs : Prop :=
  let same : Issue → State → State := fun _ s => s
  ∀ (acc tile bsrc ctr : BitVec 4) (f : Opnd) (mode : BitVec 2),
    let pl (c : Issue) : Bool × Nat := (c.g.accPlace acc.toNat).getD (false, 0)
    let accOk (c : Issue) : Option Trap := needs (c.g.accPlace acc.toNat).isSome
    let team (s : State) (c : Issue) (n align : Nat) : Option Trap := c.addrChecks bsrc n align (s.teamMem c.g).2
    let accJob (c : Issue) (op m : Nat) (addr : Nat → Nat) : MJob :=
      { op := op, mode := m, lanes := c.act.map fun k => { lane := k, addr := addr k }, quarters := quartersOf c.act
        acc := acc.toNat, umbra := (pl c).1, off := (pl c).2, addr := addr c.low }
    let skip := if bit mode 0 then 64 else 0
    let tl := tileMove mode
    (Instr.tmma acc tile bsrc f ctr mode).handsOffMatrix ctr
      (fun s c => firstTrap [s.mmaTrap c acc bsrc f mode, needs (decide (tile.toNat + aSpan (fwAF (c.g.r32 f c.low)) ≤ 16)),
        c.placePoison ((c.g.tilePlace tile.toNat (32 * aSpan (fwAF (c.g.r32 f c.low)))).map fun x => (x.1, x.2 + skip))
          (aRowBytes (fwAF (c.g.r32 f c.low)))])
      (fun s c => s.mmaJob c 1 acc bsrc f mode fun k => c.g.tileBytes tile.toNat skip (aRowBytes (fwAF (c.g.r32 f c.low))) k) same ∧
    (Instr.tgmma acc tile bsrc f ctr mode).handsOffMatrix ctr
      (fun s c => firstTrap [s.mmaTrap c acc bsrc f mode, c.placePoison (c.g.tilePlace tile.toNat 16) 16,
        needs (c.act.all fun k => decide (fieldBytes (c.g.tileBytes tile.toNat 0 16 k) 12 4 < 2))])
      (fun s c => s.mmaJob c 2 acc bsrc f mode fun k => c.g.tileBytes tile.toNat 0 16 k) same ∧
    (Instr.tzero acc ctr).handsOffMatrix ctr (fun _ c => accOk c) (fun _ c => accJob c 3 0 fun _ => 0) same ∧
    (Instr.tld tile bsrc ctr mode).handsOffMatrix ctr (fun s c => s.tileTrap c tile bsrc mode)
      (fun _ c => c.tileJob 4 tile bsrc mode fun _ => []) same ∧
    (Instr.tst tile bsrc ctr mode).handsOffMatrix ctr
      (fun s c => firstTrap [s.tileTrap c tile bsrc mode, c.placePoison (c.g.tilePlace tile.toNat tl.1) tl.1])
      (fun _ c => c.tileJob 5 tile bsrc mode fun k => c.g.tileBytes tile.toNat 0 tl.1 k) same ∧
    (Instr.accst acc bsrc ctr mode).handsOffMatrix ctr
      (fun s c => firstTrap [accOk c, team s c (if mode = 0 then 128 else 64) 8])
      (fun _ c => accJob c 6 mode.toNat (c.addrAt bsrc)) same ∧
    (Instr.accld acc bsrc ctr mode).handsOffMatrix ctr
      (fun s c => firstTrap [accOk c, team s c (if mode = 0 then 128 else 64) 8])
      (fun _ c => accJob c 7 mode.toNat (c.addrAt bsrc)) same ∧
    (Instr.tamax acc bsrc ctr mode).handsOffMatrix ctr
      (fun s c => firstTrap [needs (decide (mode < 2#2)), accOk c,
        c.whole (c.one.addrChecks bsrc (if mode = 0 then 4 else 8) (if mode = 0 then 4 else 8) (s.teamMem c.g).2)])
      (fun _ c => accJob c 8 mode.toNat (c.addrAt bsrc)) same

/-- R250, R251, R258, R264 to R273: the hand-off of the words of whole objects, streams and saved programs; MLOOP and MEND belong to a program of the
sequencer and trap ILLOPND in a gang.
The model's choices that it rests on: log entry 17, for STRUNSUB at the end of its stream among others, and log entry 16, for an MSAVE behind another. -/
def Obligations.MatrixWholeHandOffs : Prop :=
  let same : Issue → State → State := fun _ s => s
  let job (c : Issue) (op : Nat) : MJob := { op := op, lanes := c.act.map fun k => { lane := k }, quarters := [c.low / 8] }
  Instr.mloop.trapsIf (fun _ _ => True) (fun _ _ => illOpnd) ∧
  Instr.mend.trapsIf (fun _ _ => True) (fun _ _ => illOpnd) ∧
  ∀ (bsrc ctr : BitVec 4) (f : Opnd) (release : Bool),
    let h := bsrc.toNat - 8
    let named (s : State) (c : Issue) : Option (Nat × Nat) := (s.subAt c.g.teamKey h).map fun x => (x.1, x.2.consumed)
    let mis (x : Nat) : Option Trap := if x % 8 = 0 then none else some { code := cMISALIGN, arg := some (BitVec.ofNat 64 x) }
    (Instr.ttrans bsrc f ctr).handsOffMatrix ctr
      (fun _ c =>
        let a := c.addrAt bsrc c.low
        let b := c.addrAt (bsrc + 1) c.low
        let n := 8 + 32 * rowBytes (fwAF (c.g.r32 f c.low))
        firstTrap [c.check [(.src false, f)], c.voteTrap f, needs (decide (fwAF (c.g.r32 f c.low) ≤ 3)), mis a, mis b,
          needs (a == b || decide (a + n ≤ b) || decide (b + n ≤ a))])
      (fun _ c => { job c 9 with fmt := c.g.r32 f c.low, addr := c.addrAt bsrc c.low, addr2 := c.addrAt (bsrc + 1) c.low }) same ∧
    (Instr.tbmap bsrc f ctr).handsOffMatrix ctr
      (fun s c => firstTrap [c.check [(.src false, f)], c.voteTrap f, needs (decide (fwAF (c.g.r32 f c.low) ≤ 5)), s.bTrap c bsrc])
      (fun _ c => { job c 10 with fmt := c.g.r32 f c.low, addr := c.addrAt bsrc c.low }) same ∧
    (Instr.strdef f ctr).handsOffMatrix ctr
      (fun _ c =>
        let hi := (c.quad f 4).getD 3 0
        let n := ((c.quad f 4).getD 2 0).toNat
        firstTrap [needs (f.toNat % 4 == 0 && c.g.quadOk f),
          (c.g.poisonAt [c.low] f 4).map fun p => { code := cPOISON, arg := some (BitVec.ofNat 64 p.1), lanes := some (maskOf p.2) },
          needs (bits hi 22 10 == 0 && bits hi 13 3 == 0 && decide (8 ≤ bits hi 0 13) && decide (bits hi 0 13 ≤ 4096)
            && bits hi 0 3 == 0 && decide (1 ≤ n) && decide (n ≤ 2 ^ 24) && bits ((c.quad f 4).getD 0 0) 0 3 == 0)])
      (fun _ c => { job c 11 with quad := c.quad f 4 }) same ∧
    (Instr.strsub bsrc f ctr).handsOffMatrix ctr
      (fun s c =>
        let lo := (c.quad f 2).getD 0 0
        firstTrap [c.one.check [(.named true, f)],
          needs (bits lo 12 20 == 0 && bits lo 6 2 == 0 && decide (1 ≤ bits lo 8 4) && decide (bits lo 8 4 ≤ 8)
            && (s.subAt c.g.teamKey h).isNone), mis ((c.quad f 2).getD 1 0).toNat])
      (fun s c => { job c 12 with quad := c.quad f 2, tile := some (s.nextOp, 0) })
      (fun c s => s.setSub c.g.teamKey (s.nextOp - 1) {
        handle := some h
        stream := bits ((c.quad f 2).getD 0 0) 0 6
        window := bits ((c.quad f 2).getD 0 0) 8 4
        buf := ((c.quad f 2).getD 1 0).toNat }) ∧
    (Instr.stradv bsrc ctr).handsOffMatrix ctr (fun s c => s.handleTrap c.g h) (fun s c => { job c 13 with tile := named s c }) (fun c s =>
      match s.subAt c.g.teamKey h with
      | some (k, x) => (s.setSub c.g.teamKey k { x with consumed := x.consumed + 1 }).kickPrism c.g.teamKey
      | none => s) ∧
    (Instr.strunsub bsrc ctr).handsOffMatrix ctr (fun s c => s.handleTrap c.g h) (fun s c => { job c 14 with tile := named s c }) (fun c s =>
      match s.subAt c.g.teamKey h with
      | some (k, x) => (s.setSub c.g.teamKey k { x with handle := none }).dropSubs c.g.teamKey
      | none => s) ∧
    (Instr.msave f ctr release).handsOffBehind ctr
      (fun s c => s.flight.any fun x => x.2.gang == c.key && x.2.matrix.any fun m => m.op == 18)
      (fun s c => firstTrap [c.one.check [(.named true, f)],
        needs (match s.nestOf c.g with | some n => n.state == 3 || n.state == 4 | none => false), c.imageTrap f])
      (fun _ c => { job c 18 with mode := release.toNat, quad := c.quad f 2 }) same ∧
    (Instr.mresume f ctr).doesIf
      (fun s c => firstTrap [c.one.check [(.named true, f)], needs (match s.nestOf c.g with | some n => n.state != 1 | none => true),
          c.imageTrap f] = none ∧ c.g.outstanding ctr.toNat < 63 ∧ (∀ n, (s.core c.g.core).nest = some n → n.gang = c.g.id) ∧
        (∀ x ∈ s.flight, x.2.gang = c.key → ∀ m, x.2.matrix = some m → m.op ≠ 18))
      (fun s c =>
        let nest : Nest := { gang := c.g.id, ctr := ctr.toNat, ppc := 0, pblk := 0, image := some (c.g.r64 f c.low), word := wordArg (encode (.mresume f ctr)).2,
                             order := s.nextOp, since := s.cycle c.g.core, stepOp := s.nextOp }
        (({ s.setCore c.g.core { s.core c.g.core with nest := some nest } with nextOp := s.nextOp + 1 } : State).put c
          (c.g.setCtr ctr.toNat (c.g.outstanding ctr.toNat + 1))).kick (.tileStep c.g.core))

/-- R244, R251, R253, R256, R258: the steps of the matrix engine, the sequencer and Prism, where they may act: the next quarter operation of a word
that waits for no other, the word's end with its last one; the start of a running program and its tile step; a tile written for a subscriber; and the reset of an
engine whose oldest work has not completed a step within 2^24 of its cycles.
The model's choices that it rests on: log entries 16, 17 and 18. -/
def Obligations.MatrixEngineSteps : Prop :=
  (∀ (s t : State) (op : Nat) (f : Flight) (m m' : MJob) (g g' : Gang),
    tget s.flight op = some f → f.matrix = some m → s.gang f.gang = some g →
    (s.matrixBlocked op f g m = true → exec (.quarterOpComplete op) s = .next s) ∧
    (s.matrixBlocked op f g m = false → s.runMatrix g m = (t, g', m') → tget t.flight op ≠ none →
      exec (.quarterOpComplete op) s = .next (if m'.quarters = [] then t.endMatrix op f g' m'
        else ({ t.setGang f.gang g' with flight := tput t.flight op { f with
          job := .matrix (if m'.quarters.length = m.quarters.length then m' else { m' with since := s.cycle g.core }) } } : State).kick
          (.quarterOpComplete op)))) ∧
  (∀ (s : State) (core : Nat) (n : Nest) (g : Gang), (s.core core).nest = some n → s.gang (gangKey core n.gang) = some g →
    let goes (t : State) : Prop := exec (.tileStep core) s = .next ((t.touchOldest core (workKey (s.oldestWork core))).kickMatrix g.teamKey)
    (n.state ≠ 1 ∨ s.bootBlocked g.key n = true → exec (.tileStep core) s = .next s) ∧
    (n.state = 1 → s.bootBlocked g.key n = false →
      (∀ t b x, n.fresh = true → s.bootNest g n = (t, b, some x) → goes (t.failNest core b (x.1 % 256) (x.1 / 256) x.2)) ∧
      (∀ t b, n.fresh = true → s.bootNest g n = (t, b, none) →
        goes ((t.setCore core { t.core core with nest := some b }).kick (.tileStep core))) ∧
      (n.fresh = false →
        (n.mt ≤ n.mrow → goes (s.afterStep core g n)) ∧
        (∀ u e, n.mrow < n.mt → s.stepNest g n = (u, .ok e) → goes (u.afterStep core g e)) ∧
        (∀ u x, n.mrow < n.mt → s.stepNest g n = (u, .error x) → goes (u.failNest core n (x.1 % 256) (x.1 / 256) x.2))))) ∧
  (∀ (s : State) (team handle : Nat) (t : Team) (x : Sub) (st : Stream),
    s.team team = some t → tget t.subs handle = some x → s.stream (coreDie t.core) x.stream = some st →
    (s.tileAdmitted team handle x = false ∨ st.count ≤ x.arrived) → exec (.prismTileWrite team handle) s = .next s) ∧
  (∀ (s : State) (team handle : Nat) (t : Team) (x : Sub) (st : Stream) (bs : List Byte),
    s.teams = [(team, t)] → t.subs = [(handle, x)] → s.stream (coreDie t.core) x.stream = some st →
    s.tileAdmitted team handle x = true → x.arrived < st.count →
    let va := st.base + BitVec.ofNat 64 (x.arrived * st.size)
    let s' := (pieces va.toNat st.size).foldl (fun (s : State) p => s.fillTlb (coreDie t.core) st.ctx (BitVec.ofNat 64 p.1)) s
    s'.vread (coreDie t.core) st.ctx va st.size = .ok bs →
    let r := (s'.countRange (coreDie t.core) st.ctx va st.size).writeTile t x st (.ok bs)
    exec (.prismTileWrite team handle) s = .next (((r.1.setSub team handle r.2).kickMatrix team).kickPrism team)) ∧
  (∀ (s : State) (core : Nat),
    (∀ op f m, s.oldestWork core = some (.inl op) → tget s.flight op = some f → f.matrix = some m →
      (2 ^ 24 ≤ (s.cycle core - m.since).toNat → exec (.matrixHang core) s = .next (s.resetEngine core)) ∧
      ((s.cycle core - m.since).toNat < 2 ^ 24 → exec (.matrixHang core) s = .next s)) ∧
    (∀ n, s.oldestWork core = some (.inr n) →
      (2 ^ 24 ≤ (s.cycle core - n.since).toNat → exec (.matrixHang core) s = .next (s.resetEngine core)) ∧
      ((s.cycle core - n.since).toNat < 2 ^ 24 → exec (.matrixHang core) s = .next s)) ∧
    (s.oldestWork core = none → exec (.matrixHang core) s = .next s))

/-- R236, R241 to R243, R253, R264: the tile steps of a program follow each other with the depth innermost, then the column, then the row, each raising the place
by one; TTRANS of a B tile object of 32 rows: element (n, k) of the result is element (k, n) of the object, in each of its formats, and the zero-block map is
transposed with it; a zero element of B gives an exact zero product whatever A holds, a scale of 255 makes a block's sum NaN, an exact zero sum leaves a
floating-point accumulator as it was, an INT32 accumulator wraps, and the product of two LN6 elements that are no zero has the sum of their logarithms. -/
def Obligations.MatrixValues : Prop :=
  (∀ n : Nest, n.mdep < n.kt → n.mcol < n.nt →
    (n.forward.mrow * n.nt + n.forward.mcol) * n.kt + n.forward.mdep = (n.mrow * n.nt + n.mcol) * n.kt + n.mdep + 1 ∧
    n.forward.mdep < n.kt ∧ n.forward.mcol < n.nt ∧ n.forward = { n with mrow := n.forward.mrow, mcol := n.forward.mcol, mdep := n.forward.mdep }) ∧
  (∀ (af : Nat) (geom : Bool) (obj : List Byte), af ≤ 3 → obj.length = 8 + 32 * rowBytes af →
    let row (o : List Byte) (k : Nat) : List Byte := (o.drop (8 + k * rowBytes af)).take (rowBytes af)
    let t := transposeObj af geom obj
    t.length = obj.length ∧
    (∀ k n, k < 32 → n < 32 → elemAt af (row t n) k = elemAt af (row obj k) n) ∧
    (∀ i j, i < 4 → j < 4 → (BitVec.ofNat 16 (fieldBytes t 4 2)).getLsbD (4 * i + j) = (BitVec.ofNat 16 (fieldBytes obj 4 2)).getLsbD (4 * j + i)) ∧
    t.getD 0 0 = obj.getD 0 0 ∧ t.getD 1 0 = obj.getD (if geom then 2 else 1) 0 ∧ t.getD 2 0 = obj.getD (if geom then 1 else 2) 0 ∧
    t.getD 3 0 = obj.getD 3 0) ∧
  (∀ af a b : Nat, isZeroElem af b = true → ∃ e, elemProd af a b = .fin false 0 e) ∧
  (∀ (v : FVal) (sa sb : Nat), sa = 255 ∨ sb = 255 → (scaleSum v sa sb).isNan = true) ∧
  (∀ (accf : Nat) (rnd : RM) (acc : Nat) (n : Bool) (e : Int), accf < 2 → accAdd accf rnd acc (.fin n 0 e) = acc) ∧
  (∀ (rnd : RM) (acc m : Nat) (n : Bool), acc < 2 ^ 32 →
    accAdd 2 rnd acc (.fin n m 0) = (((acc : Int) + if n then -(m : Int) else m) % 2 ^ 32).toNat) ∧
  (∀ (a b : Nat), a < 64 → b < 64 → a ≠ 0x30 → b ≠ 0x30 → a ≠ 0x10 → b ≠ 0x10 →
    ∃ e : Int, ln6Prod a b = .fin ((a / 32 + b / 32) % 2 == 1) (ln6T ((ln6Log a + ln6Log b) % 4).toNat) e ∧
      4 * (e + 23) ≤ ln6Log a + ln6Log b ∧ ln6Log a + ln6Log b < 4 * (e + 23) + 4)

/-- R291 to R304: the hand-off of each copy-class word, by its op; the word that seals closes the gang's batch.
The model's choices that it rests on: log entry 39. -/
def Obligations.CopyHandOffs : Prop :=
  ∀ (d a : Opnd) (ctr : BitVec 4) (sealed : Bool),
    (Instr.copy d a ctr sealed).handsOffCopy 1 d a ctr sealed ∧ (Instr.copyt d a ctr sealed).handsOffCopy 2 d a ctr sealed ∧
    (Instr.copyg d a ctr sealed).handsOffCopy 3 d a ctr sealed ∧ (Instr.copys d a ctr sealed).handsOffCopy 4 d a ctr sealed ∧
    (Instr.copym d a ctr sealed).handsOffCopy 5 d a ctr sealed ∧ (Instr.copyn d a ctr sealed).handsOffCopy 6 d a ctr sealed ∧
    (Instr.fill d a ctr sealed).handsOffCopy 7 d a ctr sealed ∧ (Instr.chain d a ctr sealed).handsOffCopy 8 d a ctr sealed ∧
    (Instr.chstat d a ctr sealed).handsOffCopy 9 d a ctr sealed ∧ (Instr.chabort d a ctr sealed).handsOffCopy 10 d a ctr sealed ∧
    (Instr.migr d a ctr sealed).handsOffCopy 11 d a ctr sealed ∧ (Instr.copyr d a ctr sealed).handsOffCopy 12 d a ctr sealed

/-- R284 to R289, R293, R300, R327: the steps of the copy engine and of its network path, where they may act: a job waits for the earlier ones of its gang that
write, and is performed; a receiver of a multicast takes the block and arrives; a chain record is read, run and ended; an acknowledgement, a refusal and a
retry of a message; and a packet received, written once or answered.
The model's choices that it rests on: log entries 23 and 39. -/
def Obligations.CopyEngineSteps : Prop :=
  (∀ (s : State) (op : Nat) (f : Flight) (j : CJob) (g : Gang), tget s.flight op = some f → f.job = .copy j → s.gang f.gang = some g →
    (j.held ≠ none ∨ s.writesBefore op f.gang j = true → exec (.copyJobComplete op) s = .next s) ∧
    (j.held = none → s.writesBefore op f.gang j = false → j.cause ≠ 0 → j.started = false →
      exec (.copyJobComplete op) s = .next (s.copyEnd op f j j.status)) ∧
    (j.held = none → s.writesBefore op f.gang j = false → j.cause = 0 ∨ j.started = true →
      (j.op ∈ [1, 2, 3, 4, 7, 11] → exec (.copyJobComplete op) s = .next (afterRun op f (runJob (s.whoOf g j) s j))) ∧
      (j.op = 5 → j.due = [] → exec (.copyJobComplete op) s = .next (s.multicast op f g j)) ∧
      (j.op = 6 → j.stage = 0 → exec (.copyJobComplete op) s = .next (s.netCopy op f g j)) ∧
      (j.op = 12 → exec (.copyJobComplete op) s = .next (if j.started = true then s.runFetch op f g j else s.netCopy op f g j)) ∧
      (j.op = 8 → exec (.copyJobComplete op) s = .next
        ((s.chainStart g.die f.ctx j.arg []).1.copyEnd op f j (copyStatus 0 (if (s.chainStart g.die f.ctx j.arg []).2 then 0 else kFAULT)))) ∧
      (j.op = 9 → j.arg.toNat < 64 → exec (.copyJobComplete op) s = .next (s.copyLand op f j ((s.chan g.die j.arg.toNat).quad f.ctx) [])) ∧
      (j.op = 10 → j.arg.toNat < 64 → (s.chan g.die j.arg.toNat).ctx = some f.ctx → exec (.copyJobComplete op) s = .next
        ((s.chainAbort g.die j.arg.toNat (s.chan g.die j.arg.toNat)).copyEnd op f j
          (copyStatus 0 (if (s.chan g.die j.arg.toNat).cur.isSome then kABORTED else 0)))))) ∧
  (∀ (s : State) (op rank : Nat) (f : Flight) (j : CJob) (g : Gang) (t : Team), tget s.flight op = some f → f.job = .copy j →
    s.gang f.gang = some g → rank ∈ j.due → s.team g.teamKey = some t →
    let core := (t.clusterCores).getD rank 512
    let ends (u : State) (i : CJob) : Prop :=
      let a := u.ackArrive g (BitVec.ofNat 64 (j.f 40 8))
      let i' : CJob := { i with due := i.due.erase rank, cause := if a.2 then i.cause else kFAULT }
      exec (.copymReceiverArrive op rank) s = .next (if i'.due = [] then a.1.copyEnd op f i' i'.status else a.1.setJob op f (.copy i'))
    ((s.clusterTeams t).find? (fun x => x.2.core == core) = none → ends s { j with cause := kFAULT }) ∧
    ∀ x : Nat × Team, (s.clusterTeams t).find? (fun x => x.2.core == core) = some x →
      (j.buf.length ≠ j.len → ends s j) ∧
      (j.buf.length = j.len →
        let fit := j.whole j.len (min j.len (x.2.shared - j.dst))
        let r := s.blockWrite (16 + coreDie core) (teamBase core + x.2.base + j.dst) (j.buf.take fit)
        (∀ cause, r.2.2 = some cause → ends r.1 { j with moved := j.moved + r.2.1, cause := cause }) ∧
        (r.2.2 = none → ends r.1 { j with moved := j.moved + r.2.1, clob := j.clob || r.2.1 != fit, cause := if fit < j.len then kFAULT else j.cause }))) ∧
  (∀ (s : State) (die k ctx : Nat), let c := s.chan die k
    let does (t : State) : Prop := exec (.chainRecordStep die k) s = .next t
    c.ctx = some ctx → c.state = 1 →
    (∀ j, c.cur = some j → (j.held ≠ none → does s) ∧ (j.held = none → j.over = true → does (s.recordEnd die ctx k c j)) ∧
      (j.held = none → j.over = false → does (s.recordRun die ctx k c j))) ∧
    (c.cur = none → ∀ rec, s.unitCheck die ctx c.pos 64 .load = none → s.vread die ctx c.pos 64 = .ok rec →
      let t := s.countRange die ctx c.pos 64
      let next := BitVec.ofNat 64 (fieldBytes rec 0 8)
      (c.atNext = true → next = 0 → does (t.walkStop die k c true)) ∧
      (c.atNext = true → next ≠ 0 → does ((t.setChan die k { c with pos := next, atNext := false }).push [.chainRecordStep die k])) ∧
      (c.atNext = false → fieldBytes rec 8 4 < 2 ^ 31 → does (t.walkStop die k c false)) ∧
      (c.atNext = false → 2 ^ 31 ≤ fieldBytes rec 8 4 →
        (∀ j, recordJob rec (t.window ctx) = .ok j → does (t.recordRun die ctx k c j)) ∧
        ∀ cause, recordJob rec (t.window ctx) = .error cause → does (t.recordFailed die ctx k c cause (some (copyStatus 0 cause)))))) ∧
  (∀ (s : State) (msg : Nat) (m : NetMsg), tget s.pkg.net msg = some m →
    exec (.negativeAck msg) s = .next (s.netFail msg m kREMOTE) ∧
    (m.acked.length = m.packets ∨ (s.pkg.time - m.sentAt).toNat < netTimeout m.retries → exec (.netRetryTimeout msg) s = .next s) ∧
    (m.acked.length ≠ m.packets → netTimeout m.retries ≤ (s.pkg.time - m.sentAt).toNat → 8 ≤ m.retries →
      exec (.netRetryTimeout msg) s = .next (s.netFail msg m kNETFAIL)) ∧
    (m.acked.length ≠ m.packets → netTimeout m.retries ≤ (s.pkg.time - m.sentAt).toNat → m.retries < 8 →
      let m' := { m with retries := m.retries + 1, sentAt := s.pkg.time }
      exec (.netRetryTimeout msg) s = .next (({ s with pkg := { s.pkg with net := tput s.pkg.net msg m' } } : State).netSend msg m'
        ((List.range m.packets).filter fun k => k ∉ m.acked))) ∧
    (∀ (pkt : Nat) (data : NetReply) (f : Flight) (j : CJob) (g : Gang), pkt < m.packets → pkt ∉ m.acked →
      tget s.flight m.op = some f → f.job = .copy j → s.gang f.gang = some g →
      let m' := { m with acked := pkt :: m.acked }
      let t : State := { s with pkg := { s.pkg with net := tput s.pkg.net msg m' } }
      let j' := { j with moved := j.moved + m.sizeOf pkt }
      (m.fetch = false → exec (.netAckReceive msg pkt data) s = .next (
        if m.acked.length + 1 = m.packets then (t.dropMsg msg).copyEnd m.op f j' j'.status else t.setJob m.op f (.copy j'))) ∧
      (m.fetch = true → extOk data.ext (s.ctx m.ctx).partid = true →
        exec (.netAckReceive msg pkt data) s = .next (t.netReply m' f g j pkt data.bytes)) ∧
      (m.fetch = true → extOk data.ext (s.ctx m.ctx).partid = false → exec (.netAckReceive msg pkt data) s = .next s.netDrop))) ∧
  (∀ (s : State) (p : NetPacket), tget s.ctxs p.ctx = none ∨ extOk p.ext (s.ctx p.ctx).partid = false →
    exec (.netPacketReceive p) s = .next (({ s with pkg := { s.pkg with netDrops := s.pkg.netDrops + 1 } } : State).errlog 24 0xFF 1 9 0 0 0)) ∧
  (∀ (s : State) (p : NetPacket) (die : Nat), tget s.ctxs p.ctx ≠ none → extOk p.ext (s.ctx p.ctx).partid = true → s.homeDie p.ctx = some die →
    (p.fetch = true → exec (.netPacketReceive p) s = .next (s.netServe die p)) ∧
    (p.fetch = false → (p.src, (s.ctx p.ctx).partid.toNat, p.msg) ∈ s.pkg.recvDone → exec (.netPacketReceive p) s = .next (s.netAck p true)) ∧
    (∀ t, p.fetch = false → s.pkg.recvDone = [] → s.pkg.recv = [] → p.total ≤ 4096 → p.rsig = 0 →
      s.netWrite die p.ctx (p.raddr + BitVec.ofNat 64 p.off) p.data = .ok t → t.pkg.recvDone = [] →
      exec (.netPacketReceive p) s = .next (({ t with pkg := { t.pkg with
        recv := t.pkg.recv.filter (fun x => !(x.src == p.src && x.part == (s.ctx p.ctx).partid.toNat && x.msg == p.msg))
        recvDone := [(p.src, (s.ctx p.ctx).partid.toNat, p.msg)] } } : State).netAck p true)))

/-- R280, R296, R298: the moves of a block copy cover its source and its destination exactly, in ascending order, each within one line of the source; the
address of a box element is linear in its coordinates, which run over the box with dimension 0 fastest. -/
def Obligations.CopyShapes : Prop :=
  (∀ ss a ds b n : Nat,
    let ms := blockMoves ss a ds b n
    (ms.map (·.len)).sum = n ∧
    ∀ k m, ms[k]? = some m →
      let before := ((ms.take k).map (·.len)).sum
      m.src = some (ss, a + before) ∧ m.dst = some (ds, b + before) ∧ 0 < m.len ∧ (a + before) / 64 = (a + before + m.len - 1) / 64) ∧
  (∀ (j : CJob) (m : List Byte) (e : Nat), 0 < j.box 0 → 0 < j.box 1 → 0 < j.box 2 →
    ∃ i0 i1 i2 i3 : Nat, i0 < j.box 0 ∧ i1 < j.box 1 ∧ i2 < j.box 2 ∧ e = i0 + j.box 0 * (i1 + j.box 1 * (i2 + j.box 2 * i3)) ∧
      j.coords e = [j.origin 0 + i0, j.origin 1 + i1, j.origin 2 + i2, j.origin 3 + i3] ∧
      j.elemAddr m e = (fieldBytes m 0 8 : Int) + (j.origin 0 + i0) * mapStride m 0 + (j.origin 1 + i1) * mapStride m 1 +
        (j.origin 2 + i2) * mapStride m 2 + (j.origin 3 + i3) * mapStride m 3)

/-- R331, R332, R337, R342 to R350: the collective words: what each does in its context, where it waits, where it goes and where it ends its program.
The model's choices that it rests on: log entries 23 and 44. -/
def Obligations.AttarWords : Prop :=
  let any : State → ATurn → Prop := fun _ _ => True
  (∀ (i : Instr) (s : State) (t : ATurn), isCollTransfer i = true → s.attarTurn = some t → t.x.left ≠ 1 →
    exec i s = .next (s.attarTrap t.sock t.k cILLCLAUSE 0)) ∧
  ∀ (xd xa xb : BitVec 4) (ld la lb : BitVec 3) (sh k : BitVec 4) (imm : BitVec 14) (base : BitVec 8),
    let va (t : ATurn) : DWord := t.x.xr xa + imm.signExtend 64
    let own (s : State) (t : ATurn) (e : Slot) : Prop :=
      (t.x.xr xa).toNat < 256 ∧ tget (s.base t.sock).slots (t.x.xr xa).toNat = some e ∧ e.owner = t.k
    let target (t : ATurn) : Int := t.x.hdr + imm.toInt
    let jumps (t : ATurn) : Prop := 0 ≤ target t ∧ target t ≤ 16383
    let there (s : State) (t : ATurn) : State := s.setACtx t.sock t.k { t.x with pc := (target t).toNat, left := 0, wait := .run }
    (Instr.cmovi xd sh imm).collSets any xd (fun _ _ => imm.signExtend 64 <<< (4 * sh.toNat)) ∧
    (Instr.caddi xd xa imm).collSets any xd (fun _ t => t.x.xr xa + imm.signExtend 64) ∧
    (Instr.cadd xd xa xb).collSets any xd (fun _ t => t.x.xr xa + t.x.xr xb) ∧
    (∀ u bs, (Instr.cld xd xa imm).collDoes (fun s t => s.attarLoad t.x (va t) 8 = .ok (u, bs))
      (fun _ t => (u, { t.x with x := tput t.x.x xd.toNat (BitVec.ofNat 64 (ofLeBytes bs)) }))) ∧
    (∀ u, (Instr.cst xa xb imm).collDoes (fun s t => s.attarStore t.x (va t) (leBytes 8 (t.x.xr xb).toNat) = .ok u) (fun _ t => (u, t.x))) ∧
    (∀ u bs, (Instr.cldl ld xa imm).collDoes (fun s t => s.attarLoad t.x (va t) 64 = .ok (u, bs))
      (fun _ t => (u, { t.x with l := tput t.x.l ld.toNat ((leWords 8 8 bs).map (BitVec.ofNat 64)) }))) ∧
    (∀ u, (Instr.cstl xa lb imm).collDoes (fun s t => s.attarStore t.x (va t) (dwordBytes (t.x.lr lb)) = .ok u) (fun _ t => (u, t.x))) ∧
    (∀ e : Nat × Nat,
      let ends (n : Nat) (s : State) (t : ATurn) : State :=
        let u := s.failedAt t.x.die t.x.ctx (va t) n e
        if e.1 = cWAIT then u else u.attarTrap t.sock t.k e.1 e.2
      (Instr.cld xd xa imm).collGoes (fun s t => s.attarLoad t.x (va t) 8 = .error e) (ends 8) ∧
      (Instr.cst xa xb imm).collGoes (fun s t => s.attarStore t.x (va t) (leBytes 8 (t.x.xr xb).toNat) = .error e) (ends 8) ∧
      (Instr.cldl ld xa imm).collGoes (fun s t => s.attarLoad t.x (va t) 64 = .error e) (ends 64) ∧
      (Instr.cstl xa lb imm).collGoes (fun s t => s.attarStore t.x (va t) (dwordBytes (t.x.lr lb)) = .error e) (ends 64)) ∧
    (Instr.cvop ld la lb k).collTraps (fun _ _ => 11 < k.toNat) cILLOPND ∧
    (Instr.cvop ld la lb k).collDoes (fun _ _ => k.toNat ≤ 11)
      (fun s t => (s, { t.x with l := tput t.x.l ld.toNat (lineOp k.toNat (t.x.lr la) (t.x.lr lb)) })) ∧
    (∀ j : Nat, (Instr.copen xd xa xb k base).collDoes
      (fun s t => k.toNat ≤ 11 ∧ t.x.xr xa ≠ 0 ∧ (t.x.xr xb).getLsbD 63 = false ∧ base.toNat ≤ j ∧ j < 256 ∧
        tget (s.base t.sock).slots j = none ∧ ∀ m, base.toNat ≤ m → m < j → tget (s.base t.sock).slots m ≠ none)
      (fun s t =>
        let slot : Slot := { state := 1, owner := t.k, tag := field (t.x.xr xd) 0 16, part := (s.ctx t.x.ctx).partid, op := k.toNat
                             expMask := t.x.xr xa, deadline := if t.x.xr xb = 0 then 0 else s.pkg.time + t.x.xr xb }
        (s.setBase t.sock { s.base t.sock with slots := tput (s.base t.sock).slots j slot },
          { t.x with x := tput t.x.x xd.toNat (BitVec.ofNat 64 j) }))) ∧
    (Instr.copen xd xa xb k base).collSets
      (fun s t => k.toNat ≤ 11 ∧ t.x.xr xa ≠ 0 ∧ (t.x.xr xb).getLsbD 63 = false ∧
        ∀ m, base.toNat ≤ m → m < 256 → tget (s.base t.sock).slots m ≠ none) xd (fun _ _ => 0xFFFFFFFFFFFFFFFF) ∧
    (Instr.ccont xd xa lb).collGoes (fun _ t => field (t.x.xr xa) 56 8 = 0 ∧ field (t.x.xr xa) 6 10 = 0)
      (fun s t => s.attarSend t.sock t.k t.x s.pkg.time false (t.x.xr xa) (t.x.lr lb) xd.toNat) ∧
    (Instr.csend xd xa lb).collGoes
      (fun _ t => field (t.x.xr xa) 56 8 = 0 ∧ field (t.x.xr xa) 32 8 = 0 ∧ field (t.x.xr xa) 0 16 = 0)
      (fun s t => s.attarSend t.sock t.k t.x s.pkg.time true (t.x.xr xa) (t.x.lr lb) xd.toNat) ∧
    (∀ e : Slot,
      (Instr.cwait xd xa).collSets (fun s t => own s t e ∧ e.state = 2) xd (fun _ _ => e.status) ∧
      (Instr.cwait xd xa).collGoes (fun s t => own s t e ∧ e.state ≠ 2) (fun s t => s.setACtx t.sock t.k { t.x with wait := .slot }) ∧
      (Instr.cres ld xa).collDoes (fun s t => own s t e ∧ e.state = 2) (fun s t => (s, { t.x with l := tput t.x.l ld.toNat e.value })) ∧
      (Instr.cres ld xa).collTraps (fun s t => own s t e ∧ e.state ≠ 2) cILLOPND ∧
      (Instr.cfree xa).collDoes (fun s t => own s t e)
        (fun s t => (s.setBase t.sock { s.base t.sock with slots := tdel (s.base t.sock).slots (t.x.xr xa).toNat }, t.x)) ∧
      (∀ p : BitVec 14 × DWord, p ∈ [(0, e.expMask), (1, e.arrMask), (2, e.nanMask), (3, e.lateMask), (4, e.status), (5, e.deadline)] →
        (Instr.cstat xd xa p.1).collSets (fun s t => own s t e) xd (fun _ _ => p.2))) ∧
    (Instr.cstat xd xa 8).collSets any xd (fun _ t => t.x.status.setWidth 64) ∧
    (Instr.cstat xd xa 9).collSets any xd (fun s _ => s.pkg.time) ∧
    (∀ m : Stored, (Instr.crecv ld xa xb).collDoes
      (fun s t => field (t.x.xr xa) 16 48 = 0 ∧ (t.x.xr xb).getLsbD 63 = false ∧
        (s.base t.sock).msgs.find? (fun m => s.keeps m && m.tag == field (t.x.xr xa) 0 16 && m.part == (s.ctx t.x.ctx).partid) = some m)
      (fun s t => (s.setBase t.sock { s.base t.sock with msgs := (s.base t.sock).msgs.erase m },
        { t.x with l := tput t.x.l ld.toNat m.line, x := tput t.x.x xb.toNat 0 }))) ∧
    (Instr.crecv ld xa xb).collGoes
      (fun s t => field (t.x.xr xa) 16 48 = 0 ∧ (t.x.xr xb).getLsbD 63 = false ∧
        ∀ m ∈ (s.base t.sock).msgs, s.keeps m = false ∨ m.tag ≠ field (t.x.xr xa) 0 16 ∨ m.part ≠ (s.ctx t.x.ctx).partid)
      (fun s t => ({ s with nextOp := s.nextOp + 1 } : State).setACtx t.sock t.k { t.x with
        wait := .recv s.pkg.time (t.x.xr xb) s.nextOp (field (t.x.xr xa) 0 16) ld.toNat xb.toNat }) ∧
    (Instr.cbz xa imm).collGoes (fun _ t => t.x.xr xa = 0 ∧ jumps t) there ∧
    (Instr.cbz xa imm).collDoes (fun _ t => t.x.xr xa ≠ 0) (fun s t => (s, t.x)) ∧
    (Instr.cbnz xa imm).collGoes (fun _ t => t.x.xr xa ≠ 0 ∧ jumps t) there ∧
    (Instr.cbnz xa imm).collDoes (fun _ t => t.x.xr xa = 0) (fun s t => (s, t.x)) ∧
    (Instr.cbra imm).collGoes (fun _ t => jumps t) there ∧
    (Instr.cbra imm).collTraps (fun _ t => ¬jumps t) cILLCLAUSE ∧
    (Instr.csig xa).collTraps (fun _ t => t.x.status.getLsbD 0 = true) cILLOPND ∧
    (Instr.csig xa).collDoes (fun _ t => t.x.status.getLsbD 0 = false) (fun s t =>
      let status := setBit (setBits t.x.status 16 16 (bits (t.x.xr xa) 0 16)) 0 true
      (s.attarSignal t.x status, { t.x with status := status })) ∧
    Instr.cend.collGoes (fun _ t => t.x.status.getLsbD 0 = true) (fun s t => s.endProgram t.sock t.k 0 0 (t.x.status ||| 1)) ∧
    Instr.cend.collGoes (fun _ t => t.x.status.getLsbD 0 = false) (fun s t =>
      (s.attarSignal t.x (setBits t.x.status 16 16 0)).endProgram t.sock t.k 0 0 (setBits t.x.status 16 16 0 ||| 1))

/-- R330, R338, R339, R348: the steps of a collective engine, where they may act: a start takes the lowest free context with its argument block; a
contribution is accepted, dropped or sent back; a slot ends at its deadline; a message is received, stored or refused, and goes after 2 ms; a
CRECV ends at its timeout; and a send is made again or given up.
The model's choices that it rests on: log entries 25 and 44. -/
def Obligations.AttarEngineSteps : Prop :=
  (∀ (s : State) (sock k : Nat) (st : Start) (rest : List Start),
    (s.base sock).starts = st :: rest → tfree (s.base sock).actxs 16 = some k →
    let core := st.gang / 64
    let started (l : Tab (List DWord)) : State := (s.setBase sock { s.base sock with
      starts := rest
      actxs := tput (s.base sock).actxs k {
        pc := st.entry
        x := [(0, st.va), (1, BitVec.ofNat 64 (16 + coreDie core + 32 * coreNum core + 2048 * (st.gang % 64))), (2, BitVec.ofNat 64 s.pkg.id),
          (3, BitVec.ofNat 64 sock)]
        l := l
        gang := st.gang
        op := st.op
        ctx := st.ctx
        die := st.die
        launch := match s.gang st.gang with | some g => g.launch | none => 0 } }).enterStarts sock
    (∀ bs, s.unitLine st.die st.pte st.pa = .ok bs →
      exec (.attarStart sock) s = .next (started [(0, (leWords 8 8 bs).map (BitVec.ofNat 64))])) ∧
    (∀ code cause, s.unitLine st.die st.pte st.pa = .error (code, cause) →
      (code ≠ cWAIT → exec (.attarStart sock) s = .next ((started []).attarTrap sock k code cause)) ∧
      (code = cWAIT → exec (.attarStart sock) s = .next { s with asks := s.asks ++ s.lineAsks st.die st.ctx st.pte st.pa }))) ∧
  (∀ (s : State) (sock : Nat) (m : AttarMsg),
    ((s.base sock).inReset = true → exec (.contributionAccept sock m) s = .next (s.attarReply sock m 3)) ∧
    ((s.base sock).inReset = false → tget (s.base sock).slots m.slot = none →
      exec (.contributionAccept sock m) s = .next (s.attarReply sock m 2)) ∧
    ∀ e : Slot, (s.base sock).inReset = false → tget (s.base sock).slots m.slot = some e →
      (e.tag ≠ m.tag ∨ e.part ≠ m.part ∨ 4096 ≤ ((s.base sock).slots.map fun x => x.2.lines.length).sum → exec (.contributionAccept sock m) s = .next (s.attarReply sock m 2)) ∧
      (e.tag = m.tag → e.part = m.part → ((s.base sock).slots.map fun x => x.2.lines.length).sum < 4096 →
        (e.state = 2 ∨ (e.deadline ≠ 0 ∧ e.deadline.toNat ≤ s.pkg.time.toNat) ∨ e.expMask.getLsbD m.index = false ∨
          e.arrMask.getLsbD m.index = true → exec (.contributionAccept sock m) s = .next (s.dropContribution sock m e)) ∧
        (e.state ≠ 2 → (e.deadline = 0 ∨ s.pkg.time.toNat < e.deadline.toNat) → e.expMask.getLsbD m.index = true →
          e.arrMask.getLsbD m.index = false →
          let e' := { e with
            arrMask := setBit e.arrMask m.index true
            nanMask := if lineNan e.op m.line then setBit e.nanMask m.index true else e.nanMask
            lines := tput e.lines m.index m.line }
          exec (.contributionAccept sock m) s = .next ((s.setBase sock { s.base sock with
            slots := tput (s.base sock).slots m.slot (if e'.arrMask = e.expMask then e'.complete else e') }).attarReply sock m 0)))) ∧
  (∀ (s : State) (sock slot : Nat) (e : Slot), tget (s.base sock).slots slot = some e → e.state = 1 → e.deadline ≠ 0 →
    e.deadline.toNat ≤ s.pkg.time.toNat →
    exec (.slotDeadline sock slot) s = .next (s.setBase sock { s.base sock with slots := tput (s.base sock).slots slot { e with
      state := 2, lateMask := e.expMask &&& ~~~e.arrMask, value := e.result, lines := [] } })) ∧
  (∀ (s : State) (sock : Nat) (m : AttarMsg), (s.base sock).inReset = false →
    let waiting := ((s.base sock).msgs.filter s.keeps).length
    (1024 ≤ waiting → exec (.messageStore sock m) s = .next (s.attarReply sock m 2)) ∧
    (waiting < 1024 → s.receiver sock m.tag m.part = none → exec (.messageStore sock m) s = .next ((s.setBase sock
      { s.base sock with msgs := (s.base sock).msgs ++ [⟨m.tag, m.part, m.line, s.pkg.time⟩] }).attarReply sock m 0)) ∧
    ∀ k x ld xb, waiting < 1024 → s.receiver sock m.tag m.part = some (k, x, ld, xb) → exec (.messageStore sock m) s = .next ((s.setACtx sock k
      { x with l := tput x.l ld m.line, x := tput x.x xb 0, pc := x.pc + 1, left := x.left - 1, wait := .run }).attarReply sock m 0)) ∧
  (∀ (s : State) (sock : Nat) (m : Stored) (rest : List Stored), (s.base sock).msgs = m :: rest → 2000000 ≤ (s.pkg.time - m.time).toNat →
    exec (.messageExpiry sock) s = .next (s.setBase sock { s.base sock with msgs := rest, drops := (s.base sock).drops + 1 })) ∧
  (∀ (s : State) (sock k : Nat) (x : ACtx) (since timeout : DWord) (order : Nat) (tag : BitVec 16) (ld xb : Nat),
    tget (s.base sock).actxs k = some x → x.wait = .recv since timeout order tag ld xb → timeout ≠ 0 →
    timeout.toNat ≤ (s.pkg.time - since).toNat →
    exec (.crecvTimeout sock k) s = .next (s.setACtx sock k
      { x with x := tput x.x xb 1, pc := x.pc + 1, left := x.left - 1, wait := .run })) ∧
  (∀ (s : State) (sock k : Nat) (x : ACtx) (since last : DWord) (message : Bool) (dest : DWord) (m : AttarMsg) (xd : Nat),
    tget (s.base sock).actxs k = some x → x.wait = .send since last true message dest m xd →
    exec (.contributionRetry sock k) s = .next (
      if 2000000 ≤ (s.pkg.time - since).toNat then s.setACtx sock k
        { x with x := tput x.x xd 2, pc := x.pc + 1, left := x.left - 1, wait := .run }
      else s.attarSend sock k x since message dest m.line xd))

/-- R306, R308, R311, R312, R316 to R318, R326, R407: a packet that arrives at a router is refused, dropped where it answers nothing, or routed: it waits at
its output or combines with the first packet there that it may combine with; with every router in service each hop within the package brings it one link
nearer; an output grants one of its heads: the oldest where one has reached AGEMAX, and otherwise the head at the pointer while its quota lasts.
The model's choices that it rests on: log entries 25, 26, 34 and 45. -/
def Obligations.RouterSteps : Prop :=
  (∀ (s : State) (r inPort : Nat) (p : Packet),
    let does (t : State) : Prop := exec (.routerPacketArrive r inPort p) s = .next t
    let outside : Prop := inPort = 5 ∨ inPort = 6
    let refused : Prop := outside ∧ inPort * 4096 + p.part.toNat ∉ (s.base r).parts
    let at' := s.upRouter r
    ((s.base r).inReset = false → at' = r) ∧
    (reservedPacket p = true → does (s.errlog r p.ssock.toNat 1 4 0 0 p.addr.toNat)) ∧
    (reservedPacket p = false → refused → does (s.ingressDrop r inPort p)) ∧
    (reservedPacket p = false → ¬refused → outside → s.accept p = none → does s) ∧
    (∀ t, reservedPacket p = false → ¬refused → (outside → s.accept p = some t) → (¬outside → t = s) →
      does (t.routePacket at' (if at' = r then inPort else 9) p))) ∧
  (∀ (s : State) (r inPort : Nat) (p : Packet),
    let b := s.base r
    (∀ code cause, s.way r p = .fail code cause → s.routePacket r inPort p = s.failPacket r p code cause) ∧
    (∀ out, s.way r p = .out out →
      let q := tgetD b.outs out []
      let chan := if inPort ≤ 6 then p.vc.toNat else if isResponse p.kind then 8 else 0
      ((∀ x ∈ q, combines x.p p = false) ∨ tfree b.echo 512 = none →
        s.routePacket r inPort p = s.setBase r { b with outs := tput b.outs out (q ++ [⟨inPort, chan, 0, p⟩]) }) ∧
      (∀ before x after i, q = before ++ x :: after → (∀ y ∈ before, combines y.p p = false) → combines x.p p = true → tfree b.echo 512 = some i →
        s.routePacket r inPort p = s.setBase r { b with
          outs := tput b.outs out (before ++ { x with p := mergeFadd s.pkg.id r (i + 512 * tgetD b.gens i 0) x.p p } :: after)
          echo := tput b.echo i {
            addr := p.addr
            part := p.part
            size := p.size.toNat
            leaves := x.p.leaves.toNat + p.leaves.toNat
            firstLeaves := x.p.leaves.toNat
            first := replyEntry x.p
            second := replyEntry p
            firstOp := x.p.opnd } }))) ∧
  (∀ (s : State) (r : Nat) (p : Packet),
    let t := s.destStack p
    let client := if p.dsock.toNat % 8 < 4 then 7 else 8
    p.dpkg.toNat = s.pkg.id → (s.base t).inReset = false → r < 16 → t < 16 →
    (r = t → p.dsock.toNat < 16 → s.way r p = .out 9) ∧
    (r = t → 16 ≤ p.dsock.toNat → (r, client) ∉ s.pkg.down → (r, 10) ∉ s.pkg.down → s.way r p = .out client) ∧
    (r ≠ t → s.pkg.view = [] → ∃ g, s.way r p = .out g ∧ g < 5 ∧
      let w (a : Nat) : Nat := ((List.range 4).filter fun k => (a ^^^ t).testBit k).length
      min (w (neighbour r g)) (5 - w (neighbour r g)) + 1 = min (w r) (5 - w r))) ∧
  (∀ (s : State) (r out : Nat),
    let b := s.base r
    let q := tgetD b.outs out []
    let hs := (headsOf q).filter fun h => s.eligible r out h.2.p
    (hs = [] → exec (.outputGrant r out) s = .next s) ∧
    (hs ≠ [] → ∃ h ptr quota, h ∈ hs ∧ arbitrate b.ageMax (tgetD b.ptr out (0, 0)) hs = some (h.1, ptr, quota) ∧
      let q' := ageQueue hs h.1 q
      exec (.outputGrant r out) s = .next ((s.setBase r { b with
        outs := if q' = [] then tdel b.outs out else tput b.outs out q'
        ptr := tput b.ptr out (ptr, quota) }).depart r out h.2.p))) ∧
  (∀ (ageMax : Nat) (ptr : Nat × Nat) (hs : List (Nat × Queued)), hs ≠ [] → ∃ h ∈ hs, ∃ p q, arbitrate ageMax ptr hs = some (h.1, p, q) ∧
    ((∃ x ∈ hs, ageMax ≤ x.2.age) → ageMax ≤ h.2.age ∧ (∀ x ∈ hs, x.2.age ≤ h.2.age) ∧ (p, q) = ptr) ∧
    ((∀ x ∈ hs, x.2.age < ageMax) → 0 < ptr.2 → (∃ x ∈ hs, x.1 = ptr.1) → h.1 = ptr.1 ∧ q = ptr.2 - 1))

/-- R18, R308, R310, R314, R315, R318 to R320, R322, R389, R407: a combined reply goes on to both destinations, the second with the first's operand added, so that a
combined request does what its two requests would have done in turn; an echo record answers once; a failed reply and a lost record; the flits of a link, its
retraining and its loss, with the recomputation of routes; what a request, a recall and a management message that find no way come to; and the failure of a
request that has left the package and has had no response for 10 ms.
The model's choices that it rests on: log entries 25, 26, 43 and 45. -/
def Obligations.FabricReplies : Prop :=
  (∀ (s : State) (r : Nat) (p : Packet),
    let b := s.base r
    let v := (p.payload.headD 0).toNat
    let leaves := p.payload.drop 1
    let lost (l : List DWord) : State :=
      let t := s.trace r 4 0 6 p.part.toNat (leBytes 8 p.addr.toNat ++ leBytes 8 p.tag.toNat)
      (if p.tag.toNat % 512 ∈ (t.base r).echoBad then t.setBase r ((t.base r).freeEcho p.tag.toNat) else t).failLeaves r p l
    (∀ e, b.echoOf p.tag.toNat = some e →
      exec (.echoReply r p) s = .next ((s.setBase r (b.freeEcho p.tag.toNat)).push [
        .routerPacketArrive r 9 (echoAnswer s.pkg.id r p e.first v (leaves.take e.firstLeaves)),
        .routerPacketArrive r 9 (echoAnswer s.pkg.id r p e.second ((v + e.firstOp.toNat) % 2 ^ (8 * 2 ^ e.size)) (leaves.drop e.firstLeaves))]) ∧
      (p.echo = true → exec (.failedReply r p) s = .next ((s.setBase r (b.freeEcho p.tag.toNat)).push [
        .routerPacketArrive r 9 (echoAnswer s.pkg.id r p e.first 0 (p.payload.take e.firstLeaves)),
        .routerPacketArrive r 9 (echoAnswer s.pkg.id r p e.second 0 (p.payload.drop e.firstLeaves))]))) ∧
    (b.echoOf p.tag.toNat = none → exec (.echoReply r p) s = .next (lost leaves) ∧
      (p.echo = true → exec (.failedReply r p) s = .next (lost p.payload))) ∧
    (p.echo = false → exec (.failedReply r p) s = .next (s.failLeaves r p p.payload))) ∧
  (∀ (b : Base) (id : Nat), (b.freeEcho id).echoOf id = none) ∧
  (∀ (own r id v : Nat) (q p : Packet), q.size.toNat ≤ 3 →
    let n := 8 * 2 ^ q.size.toNat
    (v + (mergeFadd own r id q p).opnd.toNat) % 2 ^ n = ((v + q.opnd.toNat) % 2 ^ n + p.opnd.toNat) % 2 ^ n) ∧
  (∀ (s : State) (r port : Nat) (flit : Flit),
    let l := s.linkAt r port
    let tired (n : Nat) (k : Link) : Link := if n ≤ 16 ∨ k.training = true then k else { k with training := true, since := s.pkg.uptime }
    let heard : Link := tired (l.acknowledged flit).again (l.acknowledged flit)
    let resent (t : State) : State := if flit.again = true then t.resend r port else t
    let missed : State := s.setLink r port (tired (l.fails + 1) { l with fails := l.fails + 1 })
    let up (t : State) (k : Nat) : State := t.setLink k port { t.linkAt k port with fails := 0, again := 0, training := false }
    (flit.seq = l.accepted →
      exec (.linkFlitReceive r port flit true) s = .next (resent (s.setLink r port { heard with accepted := l.accepted + 1, fails := 0 }))) ∧
    (flit.seq ≠ l.accepted → exec (.linkFlitReceive r port flit true) s = .next (resent (s.setLink r port heard))) ∧
    (port < 5 → exec (.linkFlitReceive r port flit false) s = .next (missed.resend (neighbour r port) port)) ∧
    (5 ≤ port → exec (.linkFlitReceive r port flit false) s = .next (missed.emit (.again r port l.accepted))) ∧
    (port < 5 → exec (.linkRetrain r port) s = .next (((up (up s r) (neighbour r port)).resend r port).resend (neighbour r port) port)) ∧
    (5 ≤ port → exec (.linkRetrain r port) s = .next (((up s r).resend r port).emit (.again r port (s.linkAt r port).accepted))) ∧
    (5 ≤ port → s.resend r port = l.kept.foldl (fun t x => t.emit (.ext r port x.2)) s) ∧
    (port < 5 → (s.resend r port).agenda.Perm s.agenda ∧ (s.resend r port).onLink r port = s.onLink r port)) ∧
  (∀ (l : Link) (flit : Flit),
    (∀ x ∈ l.kept, x ∈ (l.acknowledged flit).kept ↔ l.acked < x.1 ∧ flit.ack < x.1) ∧
    (flit.again = true → flit.ack ≤ l.acked → (l.acknowledged flit).again = l.again + 1)) ∧
  (∀ (s : State) (r port : Nat),
    let down : State := { s with pkg := { s.pkg with down := if (r, port) ∈ s.pkg.down then s.pkg.down else (r, port) :: s.pkg.down } }
    (5 ≤ port → exec (.linkDown r port) s = .next ((down.takeBack r port).push [.routeRecompute])) ∧
    (port < 5 → exec (.linkDown r port) s = .next (((down.takeBack r port).takeBack (neighbour r port) port).push [.routeRecompute])) ∧
    (s.takeBack r port).onLink r port = [] ∧ (tgetD ((s.takeBack r port).base r).links port {}).kept = [] ∧
    tgetD ((s.takeBack r port).base r).outs port [] =
      (s.onLink r port ++ (tgetD (s.base r).links port {}).kept.map (·.2)).map
        (fun p => (⟨9, p.vc.toNat, 0, { p with hop := p.hop - 1 }⟩ : Queued)) ++ tgetD (s.base r).outs port []) ∧
  (∀ s : State, exec .routeRecompute s =
    .next ((List.range 16).foldl (fun s r => s.reroute r) { s with pkg := { s.pkg with view := s.pkg.down } })) ∧
  (∀ (s : State) (tag : Nat),
    let late := s.pkg.outbound.filter fun x => x.2.1.tag.toNat == tag && decide (10000000 ≤ s.pkg.uptime - x.2.2)
    (late = [] → exec (.responseTimeout tag) s = .next s) ∧
    (∀ x, late = [x] → exec (.responseTimeout tag) s = .next
      (({ s with pkg := { s.pkg with outbound := s.pkg.outbound.filter (· != x) } } : State).returnFailure x.1 x.2.1 cPERMFAULT 0))) ∧
  (∀ (s : State) (r : Nat) (p : Packet), isResponse p.kind = false →
    s.failPacket r p cPERMFAULT 0 = (s.errlog r p.ssock.toNat 1 4 cPERMFAULT 0 p.addr.toNat).returnFailure r p cPERMFAULT 0 ∧
    (∀ code cause, p.kind ≠ 0x0A → p.kind ≠ 0x0D →
      s.returnFailure r p code cause = (s.dropLock p).push [.routerPacketArrive (s.upRouter r) 9 { responseTo p s.pkg.id r with
        payload := if p.kind = 3 then 0 :: p.payload else [], fail := some (code, cause) }]) ∧
    (∀ code cause, p.kind = 0x0D → p.spkg.toNat = s.pkg.id →
      s.returnFailure r p code cause = s.replyWords (mailOf p) (if code = cMEMUE then 4 else 1) []) ∧
    (p.kind = 0x0A → p.side ≠ 1 → p.dpkg.toNat = s.pkg.id → (s.base (s.upRouter r)).inReset = false →
      s.returnFailure r p cMEMUE 3 = s.push [.tokenRecall (regionOf p.addr.toNat) p.part]))

/-- R52 to R54, R71, R73 to R75, R91, R313, R321, R322, R325, R389, R394, R398: a request performed where its memory is: what it reads, stores and answers, that it waits for
another package's token, and the failures; the host's reads and writes of memory that no one holds locked, through function 0 and outside ROM recovery; the scrubs; and the home directory of tokens, in which an exclusive
holder is never beside another.
The model's choices that it rests on: log entries 27, 28 and 29. -/
def Obligations.MemoryUnits : Prop :=
  (∀ (s : State) (sock : Nat) (p : Packet),
    let pa := p.addr.toNat
    let k := pa % 2 ^ 44
    let line := k / 64 * 64
    let region := regionOf pa
    let own : Prop := pa / 2 ^ 44 = s.pkg.id ∧ sock < 16 ∧ (∃ st, apertureOf k = .hbm st) ∧ s.lineErr k = none
    let plain : Prop := own ∧ p.key = none ∧ tget (s.base (homeOf region)).dir region = none ∧ s.lineLocked sock p = false ∧ s.lockedOut p = false ∧
      tget s.mem.cached (pa / 64) = none
    let n := 2 ^ p.size.toNat
    let old := fieldBytes (s.mem.read line 64) (pa % 64) n
    let stored (bs : List Byte) : State := { s with mem := s.mem.write line bs }
    let ok : Packet := responseTo p s.pkg.id sock
    (plain → p.kind = 1 → p.side = 0 → exec (.memoryRequest sock p) s = .next
      (s.respond sock p { ok with payload := (leWords 8 8 (s.mem.read line 64)).map (BitVec.ofNat 64) })) ∧
    (plain → p.kind = 2 → p.side = 0 → p.payload.length ≤ 8 → s.mem.clobbered line (sizeBytes p.size.toNat) p.opnd = 0 → exec (.memoryRequest sock p) s = .next
      ((stored ((List.range 64).map fun i =>
        if p.opnd.getLsbD i then (dwordBytes p.payload).getD i 0 else (s.mem.read line 64).getD i 0)).respond sock p ok)) ∧
    (plain → p.kind = 3 → s.mem.touchesTag k n = false → exec (.memoryRequest sock p) s = .next
      ((stored (patchBytes (s.mem.read line 64) (pa % 64) (leBytes n ((old + p.opnd.toNat) % 2 ^ (8 * n))))).respond sock p
        { ok with payload := BitVec.ofNat 64 old :: p.payload })) ∧
    (plain → p.kind = 4 → p.gcnt.toNat ≤ 1 → (∀ q ∈ (s.base (sock % 16)).groups, sameGroup p q = false) → s.mem.touchesTag k n = false →
      let r := applyOperands p n old
      exec (.memoryRequest sock p) s = .next
        (((stored (patchBytes (s.mem.read line 64) (pa % 64) (leBytes n r.2))).setBase (sock % 16) (s.base (sock % 16))).respond sock p
          { ok with payload := (leWords 8 (((r.1.flatMap (leBytes n)).length + 7) / 8) (r.1.flatMap (leBytes n))).map (BitVec.ofNat 64) })) ∧
    (∀ e, own → tget (s.base (homeOf region)).dir region = some e → e.writer = none → e.exclusive = true → e.pending = [] →
      (∃ h ∈ e.holders, h ≠ p.spkg.toNat) → exec (.memoryRequest sock p) s = .next
        (s.holdRequest (homeOf region) region e p.spkg.toNat false p (e.holders.filter (· != p.spkg.toNat)))) ∧
    (pa / 2 ^ 44 = s.pkg.id → sock ≠ 24 → ∀ code cause, (∃ st, apertureOf k = .hbm st) ∨ (∃ d o, apertureOf k = .pad d o) ∨ (∃ c o, apertureOf k = .team c o) →
      s.lineErr k = some (code, cause) →
      exec (.memoryRequest sock p) s = .next ((if cause = 5 then s.foundBad (sockOf k) k else s).refuse sock p code cause 0)) ∧
    (pa / 2 ^ 44 = s.pkg.id → sock ≠ 24 → apertureOf k = .none → exec (.memoryRequest sock p) s = .next
      ((s.errlog (if sock < 16 then sock else s.upRouter 0) p.ssock.toNat 1 4 cPERMFAULT 0 pa).refuse sock p cPERMFAULT 0 0)) ∧
    (∀ w off, pa / 2 ^ 44 = s.pkg.id → sock ≠ 24 → apertureOf k = .mmio w off → exec (.memoryRequest sock p) s = .next (s.performReg w off p))) ∧
  (∀ (s : State) (fn a n st : Nat) (bytes : List Byte),
    let mine : Prop := s.pkg.hostq = [] ∧ a % 64 + n ≤ 64 ∧ 0 < n ∧ apertureOf a = .hbm st ∧ s.lineErr a = none ∧
      (∀ l ∈ s.mem.locks, l.1 ≠ (s.pkg.id * 2 ^ 44 + a) / 64) ∧
      tget (s.base (homeOf (regionOf (s.pkg.id * 2 ^ 44 + a)))).dir (regionOf (s.pkg.id * 2 ^ 44 + a)) = none
    let refused : State := (s.errlog (s.upRouter (s.entryStack a)) 24 1 4 cPERMFAULT 0 a).emit (.pcie none)
    (mine → fn = 0 → s.pkg.recovery = false → bytes.length = n → exec (.hostWrite fn a bytes) s = .next { s with mem := s.mem.write a bytes }) ∧
    (mine → fn = 0 → s.pkg.recovery = false → exec (.hostRead fn a n) s = .next (s.emit (.pcie (some (s.mem.read a n))))) ∧
    (mine → fn ≠ 0 → s.pkg.recovery = false → bytes.length = n →
      exec (.hostWrite fn a bytes) s = .next refused ∧ exec (.hostRead fn a n) s = .next refused) ∧
    (mine → s.pkg.recovery = true → bytes.length = n →
      exec (.hostWrite fn a bytes) s = .next (s.emit (.pcie none)) ∧ exec (.hostRead fn a n) s = .next (s.emit (.pcie none))) ∧
    exec (.hostWrite fn a bytes) s = .next (s.hostAccess { fn := fn, addr := a, len := bytes.length, bytes := some bytes }) ∧
    exec (.hostRead fn a n) s = .next (s.hostAccess { fn := fn, addr := a, len := n, bytes := none })) ∧
  (∀ (s : State) (sock : Nat),
    let array (l : Nat) : Bool := arraySock l == some sock
    let dram (l : Nat) : Bool := apertureOf (l * 64) == .hbm sock
    let a := s.correct sock array
    let d := s.correct sock dram
    (16 ≤ sock → exec (.scrubArrays sock) s = .next ((a.mem.bad.filter array).foldl (fun t l => t.foundBad sock (l * 64)) a)) ∧
    (sock < 16 →
      let t := (a.mem.bad.filter array).foldl (fun t l => t.errlog sock 0xFF 1 8 (cMEMUE + 256) 0 (l * 64 % 2 ^ 64)) a
      exec (.scrubArrays sock) s = .next ((t.base sock).echoBad.foldl (fun t i => t.errlog sock 0xFF 1 4 cATOMLOST 0 i) t)) ∧
    exec (.scrubDram sock) s = .next ((d.mem.bad.filter dram).foldl (fun t l => t.errlog sock 0xFF 1 8 (cMEMUE + 256) 0 (l * 64)) d) ∧
    (∀ f : Nat → Bool, (s.correct sock f).mem = { s.mem with weak := s.mem.weak.filter fun l => !f l } ∧
      (s.mem.weak.filter f = [] → s.correct sock f = s))) ∧
  (∀ (s : State) (sock : Nat) (p : Packet),
    let b := s.base sock
    let region := regionOf p.addr.toNat
    let pkg := p.spkg.toNat
    let ex := p.side == 1
    (tget b.dir region = none → b.dir.length < 65536 → exec (.tokenAcquireRequest sock p) s = .next ((s.setBase sock { b with
      dir := tput b.dir region { exclusive := ex, holders := [pkg], granted := b.dirClock }
      dirClock := b.dirClock + 1 }).sendGrant sock p ex)) ∧
    (∀ e, tget b.dir region = some e → e.pending = [] → e.writer = none →
      (e.blockers pkg ex true = [] → exec (.tokenAcquireRequest sock p) s = .next ((s.setBase sock { b with
        dir := tput b.dir region { e with
          exclusive := ex
          holders := if pkg ∈ e.holders then e.holders else e.holders ++ [pkg]
          granted := b.dirClock }
        dirClock := b.dirClock + 1 }).sendGrant sock p ex)) ∧
      (e.blockers pkg ex true ≠ [] → exec (.tokenAcquireRequest sock p) s = .next (s.holdRequest sock region e pkg ex p (e.blockers pkg ex true)))) ∧
    (∀ t, exec (.tokenAcquireRequest sock p) s = .next t →
      (∀ x ∈ b.dir, x.2.exclusive = true → ∀ a ∈ x.2.holders, ∀ c ∈ x.2.holders, a = c) →
      ∀ x ∈ (t.base sock).dir, x.2.exclusive = true → ∀ a ∈ x.2.holders, ∀ c ∈ x.2.holders, a = c)) ∧
  (∀ (s : State) (sock pkg region : Nat) (part : BitVec 12),
    let sent := s.returnToken region part
    ((∀ t, tget s.pkg.tokens region = some t → t.pending = false) → exec (.tokenRecall ⟨region, part⟩) s = .next sent) ∧
    (∀ t, tget s.pkg.tokens region = some t → t.pending = true → exec (.tokenRecall ⟨region, part⟩) s =
      .next { sent with pkg := { sent.pkg with tokens := tput sent.pkg.tokens region ⟨false, [], true⟩ } }) ∧
    (tget (s.base sock).dir region = none → exec (.recallAck sock pkg region) s = .next s) ∧
    (∀ e, tget (s.base sock).dir region = some e →
      let e' : DirEnt := { e with holders := e.holders.filter (· != pkg) }
      (e.pending = [] ∨ e.writer ≠ none → exec (.recallAck sock pkg region) s = .next (s.setDir sock region e')) ∧
      (∀ k ex q rest, e.writer = none → e.pending = (k, ex, q) :: rest → regionOf q.addr.toNat = region → e'.blockers k ex (q.kind == 8) = [] →
        exec (.recallAck sock pkg region) s = .next ((s.setDir sock region { e' with pending := [] }).resumeRequests sock e.pending))))

/-- R13, R16, R216, R365 to R368, R384 to R386, R388, R389, R398: what a store to each register of the front end does: a doorbell moves WRITE or puts its queue in
ERROR, a queue is enabled where its record may be and disabled, the fields of its record take a store as ENABLE lets them, a context record becomes valid or is
refused, ends its context when VALID is cleared and takes nothing else while it is valid but COMPRD, the replay register performs or cancels held accesses, a
store through a window does what the register does and is an addressing error at no register, and the mailbox's doorbell hands its messages on.
The model's choices that it rests on: log entries 29, 30, 32, 33, 35 and 49. -/
def Obligations.FrontEndRegisters : Prop :=
  (∀ (s : State) (die q : Nat) (w : DWord),
    let x := s.queue die q
    let n := w.toNat
    let top := x.read + 2 ^ x.logsize
    (x.state = 3 → exec (.doorbell die q w) s = .next s) ∧
    (x.state ≠ 3 → n < x.write → exec (.doorbell die q w) s = .next (s.queueError die q 2)) ∧
    (x.state ≠ 3 → x.write ≤ n → top < n → exec (.doorbell die q w) s = .next (s.queueError die q 1)) ∧
    (x.state ≠ 3 → n = x.write → n ≤ top → exec (.doorbell die q w) s = .next s) ∧
    (x.state ≠ 3 → x.write < n → n ≤ top → exec (.doorbell die q w) s = .next (
      if x.enable = true ∧ x.state = 0 then (s.setQueue die q { x with write := n }).readyQueue die q else s.setQueue die q { x with write := n })) ∧
    (∀ cause, x.errsig = 0 → s.queueError die q cause = (s.setQueue die q { x with
      state := 3, errinfo := BitVec.ofNat 64 (cause + 256 * x.read), waitFrom := none, lendsTo := none }).irq (1 + die) 3 q)) ∧
  (∀ (s : State) (die q : Nat),
    let x := s.queue die q
    let may : Prop := (s.ctxRec die x.ctx).valid = true ∧ 6 ≤ x.logsize ∧ x.logsize ≤ 20 ∧ 1 ≤ x.tickets ∧ x.base.toNat % (64 * 2 ^ x.logsize) = 0
    let on (st : Nat) : Queue := { x with
      enable := true
      errinfo := 0
      state := st }
    ((x.enable = true ∧ x.state ≠ 4) ∨ ¬may → exec (.queueEnable die q) s = .next s) ∧
    (x.enable = false ∨ x.state = 4 → may → s.stopped x.ctx die = true → exec (.queueEnable die q) s = .next (s.setQueue die q (on 4))) ∧
    (x.enable = false ∨ x.state = 4 → may → s.stopped x.ctx die = false → exec (.queueEnable die q) s = .next (
      if x.read = x.write then s.setQueue die q (on 0) else (s.setQueue die q (on 0)).readyQueue die q)) ∧
    exec (.queueDisable die q) s = .next (s.setQueue die q { x with
      enable := false
      state := 4
      waitFrom := none
      lendsTo := none })) ∧
  (∀ (s : State) (die q off fn : Nat) (bytes : List Byte),
    let x := s.queue die q
    let img := patchBytes x.image off bytes
    let flags := BitVec.ofNat 8 (fieldBytes img 37 1)
    let t := s.setQueue die q (x.store off fn bytes)
    let named : Prop := off ≤ 37 ∧ 37 < off + bytes.length
    let index : Prop := off ≤ 23 ∧ 16 < off + bytes.length
    (¬named → exec (.queueRecordWrite die q off fn bytes) s = .next t) ∧
    (named → flags.getLsbD 0 = true → exec (.queueRecordWrite die q off fn bytes) s = .next (t.enableQueue die q)) ∧
    (named → flags.getLsbD 0 = false → x.enable = true → exec (.queueRecordWrite die q off fn bytes) s = .next (t.disableQueue die q)) ∧
    (named → flags.getLsbD 0 = false → x.enable = false → exec (.queueRecordWrite die q off fn bytes) s = .next t) ∧
    exec (.queueEnable die q) t = .next (t.enableQueue die q) ∧ exec (.queueDisable die q) t = .next (t.disableQueue die q) ∧
    (x.enable = true → x.store off fn bytes = { x with
      tickets := fieldBytes img 32 2
      priv := if fn = 0 ∧ named then flags.getLsbD 1 else x.priv }) ∧
    (x.enable = false → x.store off fn bytes = { x with
      tickets := fieldBytes img 32 2
      priv := if fn = 0 ∧ named then flags.getLsbD 1 else x.priv
      base := BitVec.ofNat 64 (fieldBytes img 0 8)
      logsize := fieldBytes img 34 1
      ctx := fieldBytes img 35 1
      errsig := BitVec.ofNat 64 (fieldBytes img 48 8)
      errinfo := BitVec.ofNat 64 (fieldBytes img 56 8)
      read := if index then fieldBytes img 16 8 else x.read
      write := if index then fieldBytes img 16 8 else x.write })) ∧
  (∀ (s : State) (die c : Nat),
    let r := s.ctxRec die c
    (r.valid = true → exec (.contextValidSet die c) s = .next s) ∧
    (r.valid = false → s.recordOk die c = false → exec (.contextValidSet die c) s = .next (s.setCtxRec die c (r.setValid false))) ∧
    (r.valid = false → s.recordOk die c = true → exec (.contextValidSet die c) s = .next
      ((s.setCtx c (ctxOfImage r.image (s.ctx c))).setCtxRec die c (r.setValid true))) ∧
    (r.valid = false → exec (.contextValidClear die c) s = .next s) ∧
    (r.valid = true → exec (.contextValidClear die c) s = .next (s.endContext c 4 0)) ∧
    ((s.ctx c).ending = none → ∃ t : State, s.endContext c 4 0 = t.leaveContext c) ∧
    ((s.ctx c).ending ≠ none → s.endContext c 4 0 = s) ∧
    ((s.ctx c).ending = none ∨ (∃ k < 8, (s.ctxRec k c).waiting ≠ []) → s.leaveContext c = s) ∧
    ((s.ctx c).ending ≠ none → (∀ k < 8, (s.ctxRec k c).waiting = []) →
      tget (s.leaveContext c).ctxs c = none ∧ ∀ k < 8, ((s.leaveContext c).ctxRec k c).valid = false)) ∧
  (∀ (s : State) (die c off : Nat) (bytes : List Byte),
    let r := s.ctxRec die c
    let n := bytes.length
    let img := patchBytes r.view off bytes
    let on := (BitVec.ofNat 8 (fieldBytes img 16 1)).getLsbD 0
    let flags : Prop := off ≤ 16 ∧ 16 < off + n
    let count : Prop := off ≤ 87 ∧ 80 < off + n
    let t := s.setCtxRec die c { r with bytes := contextOf (patchBytes r.image off bytes) }
    let does (u : State) : Prop := exec (.contextRecordWrite die c off bytes) s = .next u
    (¬count → r.valid = true → ¬flags ∨ on = true → does s) ∧
    (¬count → r.valid = true → flags → on = false → does (s.endContext c 4 0)) ∧
    (¬count → r.valid = false → on = false → does t) ∧
    (¬count → r.valid = false → on = true → does (t.setContext die c) ∧ exec (.contextValidSet die c) t = .next (t.setContext die c)) ∧
    (count → r.valid = true → ¬flags → does (s.setCompRd die c (fieldBytes img 80 8)))) ∧
  (∀ (s : State) (die fn : Nat), die < 8 → fn = 0 ∨ fn = die + 1 → (s.die die).inReset = false → (s.die die).down = false → s.pkg.recovery = false →
    let store (off : Nat) (bytes : List Byte) := exec (.mmioRegisterWrite (16 + die) off fn bytes) s
    (∀ q (w : DWord), q < 2048 → store (0x10000 * q) (leBytes 8 w.toNat) = exec (.doorbell die q w) s) ∧
    (∀ off (bytes : List Byte), off + bytes.length ≤ 0x8000000 → bytes.length ≠ 8 ∨ off % 0x10000 ≠ 0 → store off bytes = .next s) ∧
    (∀ q off (bytes : List Byte), q < 2048 → off + bytes.length ≤ 64 → bytes ≠ [] →
      store (0x8000000 + 64 * q + off) bytes = exec (.queueRecordWrite die q off fn bytes) s) ∧
    (∀ c off (bytes : List Byte), c < 256 → off + bytes.length ≤ 256 → bytes ≠ [] →
      store (0x8020000 + 256 * c + off) bytes = exec (.contextRecordWrite die c off bytes) s) ∧
    (∀ w : DWord, store 0x8030000 (leBytes 8 w.toNat) =
      if w.toNat / 2 ^ 32 % 4 = 1 then exec (.faultReplay die (w.toNat % 2 ^ 32)) s
      else if w.toNat / 2 ^ 32 % 4 = 2 then exec (.faultCancel die (w.toNat % 2 ^ 32)) s else .next s) ∧
    (∀ off (bytes : List Byte), 0x8040000 ≤ off → off + bytes.length ≤ 0x8044000 → store off bytes = .next s)) ∧
  (∀ (s t : State) (sock off fn : Nat) (bytes : List Byte), (sock = 24 → fn = 0 → 0x20 < off + bytes.length) →
    (s.pkg.recovery = true → exec (.mmioRegisterWrite sock off fn bytes) s = .next (s.emit (.pcie none))) ∧
    (s.pkg.recovery = false → s.regWrite sock off fn bytes = some t → exec (.mmioRegisterWrite sock off fn bytes) s = .next t) ∧
    (s.pkg.recovery = false → s.regRead sock off bytes.length fn = none → exec (.mmioRegisterWrite sock off fn bytes) s = .next
      ((s.errlog (s.upRouter (s.entryStack (mmioBase sock + off))) 24 1 4 cPERMFAULT 0 (mmioBase sock + off)).emit (.pcie none)))) ∧
  (∀ (s : State) (v : DWord), s.pkg.mdoor ≤ v.toNat → v.toNat ≤ s.pkg.mdoor + 2 ^ s.pkg.mlog →
    exec (.mmioRegisterWrite 24 16 0 (leBytes 8 v.toNat)) s = .next (({ s with pkg := { s.pkg with mdoor := v.toNat } } : State).push
      ((List.range (v.toNat - s.pkg.mdoor)).map fun i =>
        let m := s.message (s.pkg.mdoor + i)
        .mail m.1 m.2.1 m.2.2))) ∧
  (∀ (s : State) (die seq : Nat),
    exec (.faultReplay die seq) s = .next (((s.flight.foldl (fun t x => t.replayFlight die seq x.1) s).releaseSignals die seq).replayCopies die seq) ∧
    exec (.faultCancel die seq) s = .next
      (((s.flight.foldl (fun t x => t.cancelFlight die seq x.1) s).failSignals die seq).cancelCopies die seq) ∧
    (∀ (sp : Split) (q : Word) (cause : Nat) (va : DWord), sp.hold = .fault q cause va →
      sp.cancelled q.toNat = { sp with hold := .cancelled (cancelCode cause) va } ∧ sp.release q.toNat = { sp with hold := .run } ∧
      (q.toNat ≠ seq → sp.cancelled seq = sp ∧ sp.release seq = sp)) ∧
    (∀ op f g, tget s.flight op = some f → s.gang f.gang = some g →
      (g.die ≠ die ∨ (∀ p ∈ f.job.parts, p.heldBy seq = false) → s.replayFlight die seq op = s ∧ s.cancelFlight die seq op = s) ∧
      (g.die = die → (∃ p ∈ f.job.parts, p.heldBy seq = true) →
        (∀ a, f.job = .access a →
          let r := s.translateParts g a.kind (a.parts.filter (·.heldBy seq))
          s.replayFlight die seq op = ({ r.1 with
            flight := tput r.1.flight op { f with job := .access { a with parts := replaceParts a.parts r.2 } } } : State).sendReady op ∧
          s.cancelFlight die seq op = (({ s with
            flight := tput s.flight op { f with job := .access { a with parts := a.parts.map fun p => p.cancel seq } } } : State).settle op).sendAll g.core) ∧
        (∀ d lanes ex p st, f.job = .token d lanes ex p st →
          let r := s.translatePlain g p
          s.replayFlight die seq op = (r.1.setJob op f (.token d lanes ex r.2 st)).askToken op ∧
          s.cancelFlight die seq op = (s.setJob op f (.token d lanes ex (p.cancel seq) st)).settle op) ∧
        (∀ d lanes sock entry p res, f.job = .coll d lanes sock entry p res →
          let r := s.translateParts g .load [p]
          s.replayFlight die seq op = (r.1.setJob op f (.coll d lanes sock entry (r.2.headD p) res)).enterStart op ∧
          s.cancelFlight die seq op = (s.setJob op f (.coll d lanes sock entry (p.cancel seq) res)).settle op))) ∧
    (∀ (p : Part) (cause t : Nat), p.st = .held cause seq t → p.cancel seq = { p with st := .failed (cancelCode cause) 0 p.va }))

/-- R104, R105, R129, R367, R370 to R376, R378, R381 to R385, R387, R405: a step of the packet processor and what it does with each type of packet, the queues
that it takes, the timeouts and retries, the end of a launch, the bind records and the dispatch of teams, and where a gang may stand.
The model's choices that it rests on: log entries 19 and 30 to 33. -/
def Obligations.FrontEndSteps : Prop :=
  (∀ (s : State) (die : Nat),
    let t := (s.retest die).setDie die ((s.retest die).die die).lend
    let r := t.readLanes die (t.die die).lanes
    let u := [4, 3, 7, 6, 5, 2, 1, 0].foldl (fun s ty => (r.2.filter fun p => p.type == ty).foldl State.decidePacket s) r.1
    exec (.packetProcessorStep die) s = .next (if ∃ q ∈ (u.die die).queues, q.2.state = 1 then u.kick (.packetProcessorStep die) else u)) ∧
  (∀ (s : State) (p : Pk), (s.queue p.die p.q).state = 1 →
    let cmp := BitVec.ofNat 64 (p.f 24 8)
    let index (t : State) : State := (t.took p.die p.q).openPacket p.die p.q p.index
    (p.type = 0 → s.decidePacket p = s.finishPacket p 0 0 0) ∧
    (p.type = 1 → s.ringFull p.die p.ctx = false →
      let n := s.nextLaunch p.die
      let id := BitVec.ofNat 32 n.2
      let made := n.1.decideLaunch p.die p.ctx (s.queue p.die p.q).priv (launchOf (.packet p.die p.q p.index) p.ctx p.tag p.crec p.sig p.addr cmp
        (p.f 32 1) (p.f 33 1) (p.f 34 1) (p.f 35 1) (p.f 36 1))
      (∀ l, made = .open l → s.decidePacket p = (index (n.1.countLaunch p.die p.ctx l)).openLaunch n.2 l) ∧
      (∀ code, code ≠ cPRIV → made = .failed code → s.decidePacket p = n.1.finishPacket p 1 code id) ∧
      (made = .failed cPRIV → s.decidePacket p =
        (n.1.packetDone p.die p.q p.index p.ctx p.tag p.crec p.sig 1 cPRIV id).queueError p.die p.q 3) ∧
      ∀ va k e, e.1 ≠ cWAIT → made = .unread va k e → s.decidePacket p = (n.1.failedAt p.die p.ctx va k e).finishPacket p 1 cPERMFAULT id) ∧
    (p.type = 2 → s.ringFull p.die p.ctx = false → (s.die p.die).graphBusy p.bytes = false → (s.die p.die).graphOk (p.f 16 2) (p.f 18 2) = false →
      s.decidePacket p = s.queueError p.die p.q 3) ∧
    (p.type = 2 → (s.die p.die).graphBusy p.bytes = true → s.decidePacket p = s.block p.die p.q none) ∧
    (∀ v, p.type = 3 → s.sigValue p.die p.ctx p.bytes = .ok v →
      let t := s.countRange p.die p.ctx p.addr 8
      let holds : Prop := if p.f 32 1 = 0 then v = cmp else if p.f 32 1 = 1 then v ≠ cmp else if p.f 32 1 = 2 then v.toInt < cmp.toInt else cmp.toInt ≤ v.toInt
      (holds → s.decidePacket p = t.finishPacket p 0 0 0) ∧
      (¬holds → s.decidePacket p = t.block p.die p.q (some (t.lender p.die p.ctx p.bytes)))) ∧
    (p.type = 4 →
      let r := if p.f 32 1 = 0 then s.signalSet p.die p.ctx p.addr cmp else s.signalAdd p.die p.ctx p.addr (if p.f 32 1 = 1 then cmp else 0 - cmp)
      (∀ u, r = .ok u → s.decidePacket p = ((u.countRange p.die p.ctx p.addr 8).finishPacket p 0 0 0).notify) ∧
      ∀ e, e.1 ≠ cWAIT → r = .error e → s.decidePacket p = (s.failedSignal p.die p.ctx p.addr e).queueError p.die p.q 4) ∧
    (p.type = 5 → s.ringFull p.die p.ctx = false →
      let r := s.chainStart p.die p.ctx p.addr [(p.q, p.index, p.tag, p.crec, p.sig)]
      s.decidePacket p = if r.2 = true then index r.1 else s.queueError p.die p.q 3) ∧
    (∀ u, p.type = 6 → s.vwrite p.die p.ctx p.addr (leBytes 8 s.pkg.time.toNat) = .ok u →
      s.decidePacket p = (u.countRange p.die p.ctx p.addr 8).finishPacket p 0 0 0) ∧
    (p.type = 7 → s.decidePacket p = if (s.queue p.die p.q).open_ = [] then s.finishPacket p 0 0 0 else s.block p.die p.q none) ∧
    (p.type ∈ [1, 2, 5] → s.ringFull p.die p.ctx = true → s.decidePacket p = s.block p.die p.q none)) ∧
  (∀ d : Die, d.lanes.length ≤ 32 ∧ (∀ q ∈ d.lanes, ∃ x, (q, x) ∈ d.queues ∧ x.state = 1) ∧
    ∀ q x, (q, x) ∈ d.queues → x.state = 1 → q ∉ d.lanes → d.lanes.length = 32 ∧
      ∀ p ∈ d.lanes, ∃ y, (p, y) ∈ d.queues ∧ y.state = 1 ∧ (y.pass < x.pass ∨ (y.pass = x.pass ∧ p ≤ q))) ∧
  (∀ (s : State) (die q : Nat),
    ((∀ e, s.packetAt die (s.queue die q) = .error e → e.1 ≠ cWAIT) → s.waitExpired die q = false → exec (.waitsigTimeout die q) s = .next s) ∧
    (s.waitExpired die q = true → s.mustWait die (s.queue die q) = true → exec (.waitsigTimeout die q) s = .next (s.queueError die q 5)) ∧
    (s.waitExpired die q = true → s.mustWait die (s.queue die q) = false → exec (.waitsigTimeout die q) s = .next (s.kick (.packetProcessorStep die)))) ∧
  (∀ (s : State) (die c : Nat),
    let r := s.ctxRec die c
    let t := (State.drainCompletions (r.waiting.length + 2) s die c).leaveContext c
    (r.retrying = false ∨ (s.pkg.time - r.failedAt).toNat < 1000 → exec (.completionRecordRetry die c) s = .next s) ∧
    (r.retrying = true → 1000 ≤ (s.pkg.time - r.failedAt).toNat → exec (.completionRecordRetry die c) s = .next (
      if (t.ctxRec die c).retrying = true then t else t.kick (.packetProcessorStep die)))) ∧
  (∀ (s : State) (die id : Nat),
    (tget s.launches id = none → exec (.launchComplete die id) s = .next s) ∧
    (∀ l, tget s.launches id = some l →
      let t : State := { s with launches := tdel s.launches id }
      (l.left ≠ 0 ∨ id / 2 ^ 29 ≠ die → exec (.launchComplete die id) s = .next s) ∧
      (∀ d q index, l.left = 0 → id / 2 ^ 29 = die → l.origin = .packet d q index → exec (.launchComplete die id) s =
        .next (t.packetDone d q index l.ctx l.tag l.crec l.donesig l.status l.code (BitVec.ofNat 32 id))) ∧
      (∀ d i q x, l.left = 0 → id / 2 ^ 29 = die → l.origin = .node d i q x → exec (.launchComplete die id) s =
        .next ((t.nodeRecord d l.ctx q i l.status l.code (BitVec.ofNat 32 id)).nodeDone d i (decide (l.status ≠ 0)))))) ∧
  (∀ (s : State) (die slot : Nat) (r : BindRec),
    ((s.die die).freeSlot slot = none → exec (.bindRecordWrite die slot r) s = .next (s.push [.bindRecordWrite die slot r])) ∧
    (∀ k, (s.die die).freeSlot slot = some k → tget s.launches r.launch.toNat = none → exec (.bindRecordWrite die slot r) s = .next (s.putRecord die k r)) ∧
    (∀ k l, (s.die die).freeSlot slot = some k → tget s.launches r.launch.toNat = some l →
      let gone : BindRec := { r with state := 3 }
      let anew : Prop := l.k.coop = true ∧ r.state = 1 ∧ l.left = l.w * l.h * l.k.teams ∧ ∀ t ∈ s.teams, t.2.launch ≠ r.launch
      (s.stopped l.ctx die = true → exec (.bindRecordWrite die slot r) s = .next ((s.putRecord die k gone).removeTeams l.ctx [(die, gone)])) ∧
      (s.stopped l.ctx die = false → anew → exec (.bindRecordWrite die slot r) s = .next
        (({ s with launches := tput s.launches r.launch.toNat { l with waiting := true } } : State).kick (.teamDispatch (r.launch.toNat / 2 ^ 29)))) ∧
      (s.stopped l.ctx die = false → ¬anew → exec (.bindRecordWrite die slot r) s = .next ((s.putRecord die k r).kick (.teamDispatch die))))) ∧
  (∀ (s : State) (c : Nat) (rs : List (Nat × BindRec)), tget s.ctxs c ≠ none → rs ≠ [] →
    ((s.removeTeams c rs).ctx c).removed = (s.ctx c).removed ++ rs.map (·.2) ∧
    ((s.removeTeams c rs).ctx c).unlisted = (s.ctx c).unlisted ++ if (s.ctx c).saveMap = 0 ∨ (s.ctx c).ending ≠ none then [] else rs) ∧
  (∀ (s : State) (die : Nat),
    ((s.readMaps die).dispatchOne die = none → exec (.teamDispatch die) s = .next (s.readMaps die)) ∧
    (∀ t, (s.readMaps die).dispatchOne die = some t → exec (.teamDispatch die) s = .next (t.kick (.teamDispatch die))) ∧
    (∀ t, s.dispatchOne die = some t → ∃ p < 8, s.dispatchAt die p = some t ∧ ∀ q, p < q → q < 8 → s.dispatchAt die q = none) ∧
    (∀ p slot r t, (slot, r) ∈ (s.die die).servedAt p → s.serveRecord die slot r = some t → s.dispatchAt die p ≠ none) ∧
    (∀ slot r l, tget s.launches r.launch.toNat = some l → r.tcount = 0 →
      s.serveRecord die slot r = some (s.setDie die { s.die die with
        started := tdel (s.die die).started slot
        slots := tput (s.die die).slots slot { r with state := 0 } }))) ∧
  (∀ (occ : List Taken) (n regs v lo : Nat), findPlace occ n regs = some (v, lo) →
    let fits (v lo : Nat) : Prop := lo < 32 ∧ lo % n = 0 ∧ (∀ t ∈ occ, t.level = v → t.slice + t.n ≤ lo ∨ lo + n ≤ t.slice) ∧
      ∀ j < n, regs ≤ 3840 - ((occ.filter fun t => decide (t.slice ≤ lo + j) && decide (lo + j < t.slice + t.n)).map (·.regs)).sum
    v < 8 ∧ fits v lo ∧ (∀ w < v, ∀ l, ¬fits w l) ∧ ∀ l < lo, ¬fits v l)

/-- R8, R93, R96, R290, R309, R316, R326, R390, R393, R395, R399 to R401, R406: each op of the mailbox that reads or sets a management register: the sockets that
serve it, the limits of its operands, what it changes and what it answers. What a sensor reads is free within the bounds of its rule (log entry 40).
The model's choices that it rests on: log entries 35, 37, 38 and 40. -/
def Obligations.ManagementMail : Prop :=
  let any : Nat → Prop := fun k => k < 26
  let dies : Nat → Prop := fun k => 16 ≤ k ∧ k < 24
  let bases : Nat → Prop := fun k => k < 16
  let ios : Nat → Prop := fun k => k = 24 ∨ k = 25
  let x (m : Mail) (k : Nat) : Nat := (m.words.getD k 0).toNat
  let yes : State → Mail → Prop := fun _ _ => True
  let num : Nat → DWord := BitVec.ofNat 64
  serves Instr.powerRead any 0 yes (fun s m => s.replyWords m 0 [num s.pkg.powerLimit, s.power m.sock, s.railCurrent m.sock,
    Config.sensor s.steps m.sock 2, num (s.lowestCeiling m.sock)]) ∧
  (∀ (s : State) (sock : Nat), (s.railCurrent sock).toNat ≤ 3600000 ∧
    (s.pkg.powerAt + 1000000 ≤ s.pkg.uptime → (s.power sock).toNat ≤ 1000 * s.pkg.powerLimit)) ∧
  serves Instr.powerPackageLimit any 1 (fun _ m => 100 ≤ x m 0 ∧ x m 0 ≤ 1800)
    (fun s m => (if m.slot < s.pkg.powerSlot then s
      else { s with pkg := { s.pkg with powerLimit := x m 0, powerSlot := m.slot, powerAt := s.pkg.uptime } }).replyWords m 0 []) ∧
  serves Instr.powerIslandLimit any 2
    (fun _ m => x m 0 < 640 ∧ islandSock (x m 0) = m.sock ∧ x m 1 ≤ islandTop (x m 0) ∧ (512 ≤ x m 0 ∨ 1200 ≤ x m 1))
    (fun s m =>
      let t := if x m 1 < s.clockOf (x m 0) then s.setClock (x m 0) (x m 1) else s
      ({ t with pkg := { t.pkg with ceilings := tput t.pkg.ceilings (x m 0) (x m 1) } } : State).replyWords m 0 []) ∧
  serves Instr.powerDieDown (· = 24) 2 (fun _ m => x m 0 < 8 ∧ x m 1 = 0) (fun s m =>
    let d := s.die (x m 0)
    if d.down = true then s.replyWords m 0 []
    else if d.inReset = true then s.replyWords m 4 []
    else
      let t := s.setDie (x m 0) { d with leaving := true, mails := d.mails ++ [m] }
      (((t.ctxs.map (·.1)).filter fun c => (t.ctxRec (x m 0) c).valid).foldl (fun s c => s.startDrain c (some (x m 0)) false []) t).checkDown (x m 0)) ∧
  serves Instr.powerDieUp (· = 24) 2 (fun _ m => x m 0 < 8 ∧ x m 1 = 1)
    (fun s m =>
      let d := s.die (x m 0)
      let t := if d.down = true then s.restartCycles ((List.range 64).map (64 * x m 0 + ·)) else s
      if d.inReset = true then s.setDie (x m 0) { d with mails := d.mails ++ [m] }
      else (t.setDie (x m 0) { t.die (x m 0) with down := false }).replyWords m 0 []) ∧
  serves Instr.errlogRead any 0 yes (fun s m =>
    let l := s.errlogOf m
    match l.recs with
    | [] => s.replyWords m 0 []
    | r :: t => (s.setErrlog m { l with recs := t }).replyWords m 0 (r.words ++ [num t.length])) ∧
  serves Instr.errlogCounters any 0 yes (fun s m =>
    let l := s.errlogOf m
    s.replyWords m 0 [num l.recs.length, num l.overwritten, num (tgetD l.sev 0 0), num (tgetD l.sev 1 0), num (tgetD l.sev 2 0), num (tgetD l.sev 3 0)]) ∧
  serves Instr.errlogClear any 0 yes (fun s m => (s.setErrlog m { s.errlogOf m with overwritten := 0, sev := [] }).replyWords m 0 []) ∧
  serves Instr.timeStatus ios 0 yes (fun s m => s.replyWords m 0 [num s.pkg.lock, BitVec.ofInt 64 s.pkg.offset, BitVec.ofInt 64 s.pkg.ppb,
    num s.pkg.servo, s.pkg.master, num s.pkg.ptpPort]) ∧
  serves Instr.timeStep ios 1 (fun _ m => 1 ≤ x m 0 ∧ x m 0 < 2 ^ 63)
    (fun s m => ({ s with pkg := { s.pkg with time := s.pkg.time + num (x m 0) } } : State).replyWords m 0 []) ∧
  serves Instr.timeLoad ios 1 (fun s m => s.pkg.lock = 0 ∧ s.pkg.time.toNat ≤ x m 0)
    (fun s m => ({ s with pkg := { s.pkg with time := num (x m 0), timeLoaded := true } } : State).replyWords m 0 []) ∧
  serves Instr.timePortSelect ios 1 (fun _ m => x m 0 < 8)
    (fun s m => ({ s with pkg := { s.pkg with portNext := x m 0 } } : State).replyWords m 0 []) ∧
  serves Instr.keysClear bases 1 (fun _ m => x m 0 < 256)
    (fun s m => ({ s with pkg := { s.pkg with keys := tdel s.pkg.keys (x m 0) } } : State).replyWords m 0 []) ∧
  serves Instr.keysRead bases 1 (fun _ m => x m 0 < 256) (fun s m => s.replyWords m 0 (match tget s.pkg.keys (x m 0) with
    | none => []
    | some k => [1, num k.gen.toNat, num k.rbase, num k.rsize, num k.tbase])) ∧
  serves Instr.telemetrySetRing any 2
    (fun _ m => x m 0 < 2 ^ 40 ∧ (∃ k, k < 19 ∧ x m 1 = 4096 * 2 ^ k) ∧ x m 0 % x m 1 = 0) (fun s m =>
      ((s.setRing m { s.ringOf m with base := x m 0, size := x m 1, wr := 0, drain := 0, set := true }).traceDrops m.sock).replyWords m 0 []) ∧
  serves Instr.telemetryDrain any 1 (fun s m => (s.ringOf m).drain ≤ x m 0 ∧ x m 0 ≤ (s.ringOf m).wr) (fun s m =>
    let t := s.setRing m { s.ringOf m with drain := x m 0 }
    (if (s.ringOf m).full = true then t.traceDrops m.sock else t).replyWords m 0 []) ∧
  serves Instr.telemetryRead any 0 yes (fun s m => s.replyWords m 0
    [num (s.ringOf m).wr, num (s.ringOf m).drain, num (s.ringOf m).dropped, Config.sensor s.steps m.sock 2]) ∧
  serves Instr.routesSetPkg bases 1 (fun _ m => x m 0 < 4096) (fun s m =>
    if (∃ k ∈ List.range 8, ∃ r ∈ (s.die k).recs, r.2.valid = true) ∨ ∃ b ∈ List.range 16, ∃ e ∈ (s.base b).dir, e.2.holders ≠ [] then s.replyWords m 2 []
    else ({ s with pkg := { s.pkg with id := x m 0, idSet := true } } : State).replyWords m 0 []) ∧
  (let bs (m : Mail) : List Byte := dwordBytes m.words
   let entry (m : Mail) (j : Nat) : Nat := fieldBytes (bs m) (16 + j / 2) 1 / 16 ^ (j % 2) % 16
   serves Instr.routesWrite bases 7
    (fun _ m => 1 ≤ x m 1 ∧ x m 1 ≤ 80 ∧ x m 0 + x m 1 ≤ 65536 ∧ zeroBytes (bs m) (16 + (x m 1 + 1) / 2) 56 = true ∧
      (x m 1 % 2 = 1 → entry m (x m 1) = 0))
    (fun s m =>
      let b := s.base m.sock
      (s.setBase m.sock { b with routes := (List.range (x m 1)).foldl (fun t j =>
        if entry m j = 0xF then tdel t (x m 0 + j) else tput t (x m 0 + j) (entry m j)) b.routes }).replyWords m 0 []) ∧
   serves Instr.routesPartitionMap bases 7
    (fun _ m => x m 0 < 2 ∧ x m 1 % 256 = 0 ∧ x m 1 ≤ 3840 ∧ zeroBytes (bs m) 48 8 = true)
    (fun s m =>
      let b := s.base m.sock
      let lo := (x m 0 + 5) * 4096 + x m 1
      (s.setBase m.sock { b with parts := b.parts.filter (fun p => decide (p < lo ∨ lo + 256 ≤ p)) ++
        ((List.range 256).filter fun j => fieldBytes (bs m) (16 + j / 8) 1 / 2 ^ (j % 8) % 2 == 1).map (lo + ·) }).replyWords m 0 [])) ∧
  serves Instr.routesAgemax bases 1 (fun _ m => 1 ≤ x m 0 ∧ x m 0 ≤ 255)
    (fun s m => (s.setBase m.sock { s.base m.sock with ageMax := x m 0 }).replyWords m 0 []) ∧
  serves Instr.migrationThreshold bases 1 (fun _ m => 1 ≤ x m 0 ∧ x m 0 ≤ 65535)
    (fun s m => (s.setBase m.sock { s.base m.sock with threshold := x m 0 }).replyWords m 0 []) ∧
  serves Instr.migrationReadCounters bases 1 (fun _ m => x m 0 % 2 ^ 16 = 0 ∧ x m 0 < 2 ^ 56) (fun s m =>
    let b := s.base m.sock
    let key (k : Nat) : Nat := x m 0 / 2 ^ 16 * 8 + k
    (s.setBase m.sock { b with counters := (List.range 8).foldl (fun t k => tdel t (key k)) b.counters }).reply m 0
      ((List.range 8).flatMap fun k => leBytes 2 (tgetD b.counters (key k) 0))) ∧
  serves Instr.resetTlbinv dies 3 (fun s m => x m 1 < 2 ∧ s.ctxNamed (x m 0) ≠ none) (fun s m => match s.ctxNamed (x m 0) with
    | none => s
    | some c => (s.dropTlb c (if x m 1 = 0 then some (m.words.getD 2 0) else none)).replyWords m 0 [])

/-- R19, R20, R90, R91, R151, R256, R385, R387, R391, R392, R398, R406: the resets: what each request starts and where it is answered, what the ends of the resets
bring, that a package reset keeps the bytes of DRAM and zeroes the on-chip memories, and that power-up zeroes them all.
The model's choices that it rests on: log entries 33 and 34. -/
def Obligations.ResetSteps : Prop :=
  let dies : Nat → Prop := fun k => 16 ≤ k ∧ k < 24
  let x (m : Mail) (k : Nat) : Nat := (m.words.getD k 0).toNat
  serves Instr.resetDrain dies 2 (fun s m => x m 1 < 2 ∧ s.ctxNamed (x m 0) ≠ none) (fun s m => match s.ctxNamed (x m 0) with
    | none => s
    | some c => s.startDrain c none (x m 1 == 1) [m]) ∧
  serves Instr.resetCore dies 1 (fun _ m => x m 0 < 64) (fun s m => s.startCoreReset (64 * (m.sock - 16) + x m 0) m) ∧
  serves Instr.resetMatrixEngine dies 1 (fun _ m => x m 0 < 64) (fun s m => (s.resetEngine (64 * (m.sock - 16) + x m 0)).replyWords m 0 []) ∧
  serves Instr.resetBaseDie (· < 16) 0 (fun _ _ => True) (fun s m => s.startBaseReset m.sock m) ∧
  serves Instr.resetPackage (· = 24) 0 (fun _ _ => True) (fun s m => (s.replyWords m 0 []).resetPackage) ∧
  (∀ (s : State) (m : Mail), dies m.sock → s.pkg.recovery = false → (∀ w ∈ m.words, w = 0) →
    ((s.die (m.sock - 16)).inReset = true → exec (.resetDie m) s = .next (s.replyWords m 0 [])) ∧
    ((s.die (m.sock - 16)).inReset = false → (s.die (m.sock - 16)).down = false → exec (.resetDie m) s = .next (s.startDieReset (m.sock - 16) [m])) ∧
    ((s.die (m.sock - 16)).inReset = false → (s.die (m.sock - 16)).down = true → exec (.resetDie m) s = .next (s.replyWords m 4 []))) ∧
  (∀ (s : State) (k : Nat),
    ((s.die k).inReset = false ∨ (∃ r ∈ (s.die k).recs, r.2.waiting ≠ []) → exec (.dieResetComplete k) s = .next s) ∧
    ((s.core k).inReset = false → exec (.coreResetComplete k) s = .next s) ∧
    ((s.base k).inReset = false → exec (.baseDieResetComplete k) s = .next s)) ∧
  (∀ (s : State) (k : Nat), (s.die k).inReset = true → (∀ r ∈ (s.die k).recs, r.2.waiting = []) →
    let t := (s.wipeDie k).restartCycles ((List.range 64).map (64 * k + ·))
    let u := t.setDie k { s.die k with inReset := false, mails := [], recs := [] }
    exec (.dieResetComplete k) s = .next (((u.ctxs.foldl (fun v x => v.leaveContext x.1) u).sweepContexts).replyAll (s.die k).mails 0) ∧
    (∀ a, padBase k ≤ a → a < padBase k + 0x40000000 → t.mem.byte a = 0) ∧
    (∀ a, teamBase (64 * k) ≤ a → a < teamBase (64 * k + 64) → t.mem.byte a = 0)) ∧
  (∀ (s : State) (k : Nat), (s.core k).inReset = true →
    exec (.coreResetComplete k) s = .next ((((({ s with mem := s.mem.wipe (teamBase k) (teamBase k + 0x100000) } : State).setCore k { s.core k with
      inReset := false
      mails := [] }).restartCycles [k]).replyAll (s.core k).mails 0).kick (.teamDispatch (coreDie k))) ∧
    ∀ a, teamBase k ≤ a → a < teamBase k + 0x100000 → (s.mem.wipe (teamBase k) (teamBase k + 0x100000)).byte a = 0) ∧
  (∀ (s : State) (k : Nat), (s.base k).inReset = true →
    exec (.baseDieResetComplete k) s = .next (((({ s.setBase k { s.base k with inReset := false, mails := [] } with
      pkg := { s.pkg with down := s.pkg.down.filter (· != (k, 10)) } } : State)).replyAll (s.base k).mails 0).push [.routeRecompute])) ∧
  (∀ (s : State) (cores : List Nat), ∀ k ∈ cores, (s.restartCycles cores).cycle k = 0) ∧
  (∀ (s : State) (fn : Nat),
    (1 ≤ fn → fn ≤ 8 → exec (.functionLevelReset fn) s = .next (s.startDieReset (fn - 1) [])) ∧
    (fn = 0 ∨ 8 < fn → exec (.functionLevelReset fn) s = .next s)) ∧
  (∀ s : State, exec .fundamentalReset s = .next s.resetPackage ∧
    (∀ a, a < 2 ^ 40 → s.resetPackage.mem.byte a = s.mem.byte a) ∧
    (∀ a, 2 ^ 40 ≤ a → a < 2 ^ 44 → s.resetPackage.mem.byte a = 0) ∧
    s.resetPackage.gangs = [] ∧ s.resetPackage.launches = [] ∧ s.resetPackage.dies = [] ∧ s.resetPackage.bases = [] ∧ s.resetPackage.pkg.keys = [] ∧
    (∀ i, s.pkg.nextImage = some (i, false) → s.resetPackage.pkg.recovery = true) ∧
    ∃ t, exec .powerGood s = .next t ∧ t.pkg = s.resetPackage.pkg ∧ ∀ a, a < 2 ^ 44 → t.mem.byte a = 0)

/-- R92, R93, R108, R323, R392, R395 to R400: attestation by its session states (PRESUMED: the state machine of SPDM 1.3, log entry 41), key material and the
security of links only inside a session, the interface states of the functions, the firmware image of the next reset, the time servo and the clocks of the
islands.
The model's choices that it rests on: log entries 37, 38, 40 and 41. -/
def Obligations.SecurityAndServo : Prop :=
  (let none (_ : State) : List Byte := []
   attests Instr.getVersion [0, 1, 2, 3, 4, 5] 0x04 (fun _ => 1) (fun _ => leBytes 2 0x1300) ∧ attests Instr.getCapabilities [1] 0x61 (fun _ => 2) none ∧
   attests Instr.negotiateAlgorithms [2] 0x63 (fun _ => 3) (fun _ => leBytes 4 0x40 ++ leBytes 4 4 ++ leBytes 2 0x10 ++ leBytes 2 2) ∧
   attests Instr.getDigests [3, 4, 5] 0x01 id none ∧ attests Instr.getCertificate [3, 4, 5] 0x02 id none ∧ attests Instr.challenge [3, 4, 5] 0x03 id none ∧
   attests Instr.getMeasurements [3, 4, 5] 0x60 id (fun s =>
     (List.range 26).flatMap (fun sock => leBytes 64 (Config.firmwareDigest s.pkg.image sock).toNat) ++ leBytes 4 Config.romVersion.toNat
       ++ leBytes 8 (Config.securityConfig s.steps).toNat) ∧
   attests Instr.keyExchange [3] 0x64 (fun _ => 4) none ∧ attests Instr.finish [4] 0x65 (fun _ => 5) none ∧
   attests Instr.endSession [5] 0x6C (fun _ => 3) none) ∧
  (∀ (s : State) (m : Mail) (keys : List DWord) (secured : Bool),
    let x (k : Nat) : Nat := (m.words.getD k 0).toNat
    let formed : Prop := s.pkg.recovery = false ∧ m.sock < 16 ∧ x 0 ≤ 255 ∧ x 1 < 2 ^ 32 ∧ x 3 % 2 ^ 21 = 0 ∧ (∀ w ∈ m.words.drop 5, w = 0) ∧ keys.length = 12
    let gone : Prop := m.sock < 16 ∧ (s.base m.sock).inReset = true
    (secured = true → s.pkg.spdm = 5 → 26 ≤ m.sock → exec (.keysLoad m keys secured) s =
      .next ((s.errlog (s.upRouter 0) 24 1 8 cPERMFAULT 0 m.sock).emit (.doe 0 [1]))) ∧
    (secured = true → s.pkg.spdm = 5 → m.sock < 26 → ¬formed → ¬gone → exec (.keysLoad m keys secured) s = .next (s.emit (.doe 0 [1]))) ∧
    (secured = true → s.pkg.spdm = 5 → gone → exec (.keysLoad m keys secured) s = .next (s.emit (.doe 0 [4]))) ∧
    (secured = true → s.pkg.spdm = 5 → formed → ¬gone → exec (.keysLoad m keys secured) s = .next (({ s with pkg := { s.pkg with keys := tput s.pkg.keys (x 0) {
      data := keys.take 4
      tweak := (keys.drop 4).take 4
      tagKey := keys.drop 8
      gen := BitVec.ofNat 32 (x 1)
      rbase := x 2
      rsize := x 3
      tbase := x 4 } } } : State).emit (.doe 0 [0]))) ∧
    (secured = false ∨ s.pkg.spdm ≠ 5 → ∃ t, exec (.keysLoad m keys secured) s = .next t ∧ t.pkg.keys = s.pkg.keys)) ∧
  (∀ (s : State) (fn stream : Nat) (key : List Byte),
    let may : Prop := s.pkg.recovery = false ∧ s.pkg.spdm = 5 ∧ fn ≤ 8 ∧ stream ≤ 255
    (may → exec (.ideKm fn stream key) s = .next { s with pkg := { s.pkg with ide := tput s.pkg.ide (fn * 256 + stream) key } }) ∧
    (¬may → exec (.ideKm fn stream key) s = .next s)) ∧
  (∀ (s : State) (fn : Nat) (req : TdispReq),
    let old := tgetD s.pkg.tdisp fn 0
    let new : Nat := match req with
      | .lock => if old = 0 ∨ old = 3 then 1 else old
      | .start => if old = 1 then 2 else old
      | .stop => if old = 3 then 3 else 0
      | .getState => old
    (s.pkg.recovery = false → 1 ≤ fn → fn ≤ 8 → exec (.tdispMessage fn req) s =
      .next (({ s with pkg := { s.pkg with
        tdisp := tput s.pkg.tdisp fn new
        interfaceKeys := if new = 1 ∧ old ≠ 1 then tput s.pkg.interfaceKeys fn (Config.interfaceKey s.steps fn)
          else if new = 0 then tdel s.pkg.interfaceKeys fn else s.pkg.interfaceKeys } } : State).emit (.tdisp fn new))) ∧
    (s.pkg.recovery = true ∨ fn < 1 ∨ 8 < fn → exec (.tdispMessage fn req) s = .next s)) ∧
  (∀ (s : State) (image : Nat) (signed : Bool),
    exec (.firmwareImageWrite image signed) s = .next { s with pkg := { s.pkg with nextImage := some (image, signed) } }) ∧
  (∀ (s : State) (offset ppb : Int) (master : DWord),
    exec (.ptpSync offset ppb master) s = .next { s with pkg := { s.pkg with
      ptpPort := s.pkg.portNext
      offset := offset
      ppb := max (-200000) (min 200000 ppb)
      master := master
      lock := if -50 ≤ offset ∧ offset ≤ 50 then 1 else if s.pkg.lock = 0 then 0 else 2 } } ∧
    exec .ioDieFailover s = .next { s with pkg := { s.pkg with servo := 25 } }) ∧
  (∀ (s : State) (i mhz : Nat),
    let may : Prop := i < 640 ∧ mhz ≤ s.ceiling i ∧ (i < 512 → 1200 ≤ mhz) ∧ (512 ≤ i → mhz = s.ceiling i) ∧
      (mhz ≤ s.clockOf i ∨ ((Config.sensor s.steps 24 0).toNat ≤ 1000 * s.pkg.powerLimit ∧ (Config.sensor s.steps 24 1).toNat ≤ 3600000))
    (may → exec (.governorClockChange i mhz) s = .next (s.setClock i mhz)) ∧
    (¬may → exec (.governorClockChange i mhz) s = .next s) ∧
    (s.setClock i mhz).clockOf i = mhz ∧ (∀ core, core < 512 → (s.setClock i mhz).cycle core = s.cycle core) ∧
    (∀ j, j ≠ i → (s.setClock i mhz).clockOf j = s.clockOf j))

/-- R33, R35, R109, R110, R142: the frame of the words that work on registers alone: such a word traps, or it changes nothing but lanes that take part, and in
them only its destination registers, its predicates and the latch; FPFLAGS only where it is a floating-point word; no byte of memory. -/
def Obligations.RegisterFrame : Prop :=
  ∀ (i : Instr) (d : Option (Opnd × Nat)) (ps : List Nat) (fp : Bool) (s t : State) (c : Issue),
    i.writes = some (d, ps, fp) → s.issues c i → exec i s = .next t →
    (∃ trap, t = s.trapped c i trap) ∨ ∃ g : Gang, t = (s.put c g).past c i ∧
      g = { c.g with lanes := g.lanes, fpflags := g.fpflags } ∧ (fp = false → g.fpflags = c.g.fpflags) ∧ g.lanes.length = c.g.lanes.length ∧
      (∀ key, key ≠ c.key → (s.put c g).gang key = s.gang key) ∧
      (∀ a, (s.put c g).mem.byte a = s.mem.byte a) ∧
      ((c.sp.next i.span).incl = true → ∀ a, t.mem.byte a = s.mem.byte a) ∧
      ∀ k, (k ∉ c.act → g.lane k = c.g.lane k) ∧
        let l := c.g.lane k
        let l' := g.lane k
        (∀ umbra async w, (∀ x, d = some x → ¬c.g.names x.1 x.2 umbra w) → g.readWord l' umbra async w = c.g.readWord l umbra async w) ∧
        (∀ async w, (∀ x, d = some x → ¬c.g.names x.1 x.2 false w) → g.wordPoison l' false async w = c.g.wordPoison l false async w) ∧
        (∀ j, (∀ x, d = some x → x.1 < 0xE0#8 ∨ j < x.1.toNat - 0xE0 ∨ x.1.toNat - 0xE0 + x.2 ≤ j) → tgetD l'.ofile j 0 = tgetD l.ofile j 0) ∧
        (∀ p, p < 8 → p ∉ ps → l'.preds.getLsbD p = l.preds.getLsbD p) ∧
        l'.rand = l.rand ∧ l'.live = l.live ∧ l'.takes = l.takes ∧ l'.bank = l.bank

/-- R59, R203, R206: the frame of the direct accesses of team memory, in a memory without uncorrectable lines: such a word traps, waits, or changes no byte but the
bytes that its lanes store at their addresses (LDT none at all), no barrier tag, no other gang, of the cores only L1 lines of its own, and beside its own
access nothing else of the machine. -/
def Obligations.TeamAccessFrame : Prop :=
  ∀ (i : Instr) (d a b : Opnd) (wide : Bool) (size op ctr : BitVec 4) (n : Nat) (s t : State) (c : Issue),
    (i = .ldt d a ctr size ∧ n = 0) ∨ (i = .stt d a ctr size ∧ n = sizeBytes size.toNat) ∨ (i = .atomt d a b wide op ctr ∧ n = if wide then 8 else 4) →
    s.issues c i → s.mem.bad = [] → exec i s = .next t →
    let lo (j : Nat) : Nat := ((s.teamMem c.g).1 + (c.g.r64 a j).toNat) % 2 ^ 44
    (∃ trap, t = s.trapped c i trap) ∨ t = s.hold c .wait ∨ ∃ u : State, t = u.past c i ∧
      u = { s with mem := u.mem, gangs := u.gangs, flight := u.flight, agenda := u.agenda, cores := u.cores, nextOp := s.nextOp + 1 } ∧
      (∀ k, k ≠ c.g.core → u.core k = s.core k) ∧ u.core c.g.core = { s.core c.g.core with l1 := (u.core c.g.core).l1 } ∧
      u.mem = { s.mem with bytes := u.mem.bytes, owners := u.mem.owners } ∧ (∀ key, key ≠ c.key → u.gang key = s.gang key) ∧
      ∀ x, (∀ j ∈ c.act, x < lo j ∨ lo j + n ≤ x) → u.mem.byte x = s.mem.byte x

/-- R22 to R25, R29, R107, R329, R332: a step in which an issue port, or an Attar engine, moves runs the instruction that the words at the position of the
selected split or context decode to; around it time passes and the steps that are due join the agenda, and an instruction that needs what it has to ask for is
taken back until that has come.
The model's choices that it rests on: log entries 7, 11, 13, 20 and 23. -/
def Obligations.StepRunsDecoded : Prop :=
  let around (u : State) (after : State → State) (o : Outcome) : Outcome := match o with
    | .next t => .next (after (if t.asks = [] then t.forgetAsks u.cursor else u.sendAsks u.cursor t.asks)).tick.wake
    | .fault f => .fault f
    | .refused r => .refused r
  (∀ (s s' : State) (core port e : Nat) (c : Issue), s.nextMove = some (.port core port, s') → s'.pick core port = some e →
    let u := s'.select core port e
    let yield (t : State) : State := t.yieldPort (e / 4) (e % 4) port c.sp
    u.issuer = some c → c.sp.resume = none →
    (∀ w, c.sp.incl = false → u.fetch c.g.die c.g.ctx c.sp.pc = .ok w → step s = around u yield (exec (.clauseIssue w) u)) ∧
    (∀ i, c.sp.incl = true → c.sp.mvalid = true → c.act ≠ [] →
      let cls := bits c.sp.hdr 25 3
      let w := substWord c.sp.mparams (c.sp.mprog.getD c.sp.midx 0)
      decodeWord cls w (if wordLen cls w = 2 then c.sp.mprog[c.sp.midx + 1]? else none) = .ok i →
      (privOpcode cls w = true → c.g.privileged = true) → step s = around u yield (exec i u)) ∧
    (∀ w i, c.sp.incl = true → c.sp.mvalid = false → c.act ≠ [] → u.fetch c.g.die c.g.ctx c.sp.pc = .ok w →
      (wordLen (bits c.sp.hdr 25 3) w = 1 → decodeWord (bits c.sp.hdr 25 3) w none = .ok i →
        (privOpcode (bits c.sp.hdr 25 3) w = true → c.g.privileged = true) → step s = around u yield (exec i u)) ∧
      (∀ x, wordLen (bits c.sp.hdr 25 3) w = 2 → c.sp.widx + 1 < c.sp.count → u.fetch c.g.die c.g.ctx (c.sp.pc + 4) = .ok x →
        decodeWord (bits c.sp.hdr 25 3) w (some x) = .ok i → (privOpcode (bits c.sp.hdr 25 3) w = true → c.g.privileged = true) →
        step s = around u yield (exec i u)))) ∧
  (∀ (s s' : State) (sock k n : Nat) (x : ACtx) (i : Instr), s.nextMove = some (.attar sock, s') → s'.pickAttar sock = some k →
    let u := (s'.setBase sock { s'.base sock with lastCtx := k }).atContext sock k
    tget (s'.base sock).actxs k = some x → x.left = n + 1 → decodeWord 3 (tgetD (s'.base sock).prog x.pc 0) none = .ok i → step s = around u id (exec i u))

/-- R21, R30 to R32, R37, R41 to R44: words written out from the encodings decode to the instructions they stand for. -/
def Obligations.DecodeWords : Prop :=
  decodeWord 0 0x10040102 none = .ok (.add 4 1 2) ∧
  decodeWord 0 0x4205E8E3 none = .ok (.fmul 5 0xE8 0xE3) ∧
  decodeWord 0 0x71BFFFFB none = .ok (.brp true 3 0xFFFFB) ∧
  decodeWord 0 0x90080232 (some 0x000A0040) = .ok (.ldg 8 2 3 2 { nt := false, lat := false, scope := 2, ord := 2, offset := 0x40 }) ∧
  decodeWord 0 0x78000042 none = .ok (.trap 0x42) ∧
  decodeWord 1 0x041C8514 none = .ok (.tmma 2 1 4 7 5 0) ∧
  decodeWord 2 0x045054A0 none = .ok (.copy 0x14 0x15 2 true) ∧
  decodeWord 3 0x04803FFF none = .ok (.cmovi 2 0 0x3FFF) ∧
  decodeWord 0 0x0F000000 none = .error .illOp

/-- R30 to R32, R37 to R44, R49: decoding the words of a well-formed instruction gives it back with every operand, and the decoder accepts no other words: what it
accepts is well formed, and its words are exactly those of the instruction it reads. -/
def Obligations.EncodingRoundTrip : Prop :=
  (∀ i : Instr, i.wf = true → (encode i).1 < 4 →
    decodeWord (encode i).1 ((encode i).2.getD 0 0) (encode i).2[1]? = .ok i ∧ wordLen (encode i).1 ((encode i).2.getD 0 0) = i.span) ∧
  (∀ (cls : Nat) (w : Word) (gx : Option Word) (i : Instr), decodeWord cls w gx = .ok i →
    i.wf = true ∧ encode i = (cls, w :: if wordLen cls w = 2 then gx.toList else []))

/-- R1, R90: memory stays in the one form in which equal memories are equal data: addresses rising, no byte listed that an unlisted address reads as. -/
def Obligations.MemoryStaysCanonical : Prop := ∀ s t : State, step s = .next t → s.mem.wf = true → t.mem.wf = true

/-- R86, R309, R316, R366, R384, R391: the machine after reset: memory zero and in its canonical form, no gang, team, context or launch, every queue record at
its reset values, DRAINLIM 2,000 and every other byte of a context record 0, no route, AGEMAX 32. (That a byte of host memory, at 2^44 and above, reads 0 is the model's choice: log entry 2. That TIME is 0, and that the mailbox and
the sensors' registers stand as State.reset has them, is the model's choice: log entry 10.) -/
def Obligations.ResetState : Prop :=
  let s := State.reset
  s.mem.wf = true ∧ (∀ a, s.mem.byte a = 0) ∧ s.gangs = [] ∧ s.teams = [] ∧ s.ctxs = [] ∧ s.launches = [] ∧ s.flight = [] ∧
  (∀ die q, (s.queue die q).image = List.replicate 64 0 ∧ s.regRead (16 + die % 8) (0x8000000 + 64 * (q % 2048)) 64 0 = some (List.replicate 64 0)) ∧
  (∀ die c, (s.ctxRec die c).valid = false ∧ fieldBytes (s.ctxRec die c).view 28 4 = 2000 ∧
    ∀ j, j < 28 ∨ 32 ≤ j → (s.ctxRec die c).view.getD j 0 = 0) ∧
  (∀ r, (s.base r).ageMax = 32 ∧ (∀ k, tgetD (s.base r).routes k 0xF = 0xF)) ∧ s.movers = []
end

