-- ==== Sys2Proof/Laws/Fields.lean ====
section
/-!
SUPPORT. Bit fields of concatenated words, and the row of an opcode table that a word with a given op takes (R37, R44).
-/
set_option Elab.async false
namespace Sys2Proof.Laws
open Sys2Proof Sys2Proof.Machine BitVec
set_option linter.unusedSimpArgs false

/-- A field inside the low part. -/
theorem field_low {m k : Nat} (x : BitVec m) (y : BitVec k) (lo w : Nat) (h : lo + w ≤ k) :
    (x ++ y).extractLsb' lo w = y.extractLsb' lo w := by
  apply BitVec.eq_of_getLsbD_eq
  intro i hi
  have : lo + i < k := by omega
  simp [hi, getLsbD_append, this]

/-- A field inside the high part. -/
theorem field_high {m k : Nat} (x : BitVec m) (y : BitVec k) (lo w : Nat) (h : k ≤ lo) :
    (x ++ y).extractLsb' lo w = x.extractLsb' (lo - k) w := by
  apply BitVec.eq_of_getLsbD_eq
  intro i hi
  have h1 : ¬ lo + i < k := by omega
  have h2 : lo + i - k = lo - k + i := by omega
  simp [hi, getLsbD_append, h1, h2]

/-- The field that is the whole value. -/
theorem field_full {k : Nat} (x : BitVec k) : x.extractLsb' 0 k = x := by
  apply BitVec.eq_of_getLsbD_eq; intro i hi; simp [hi]

/-- A bit of the low part. -/
theorem bit_low {m k : Nat} (x : BitVec m) (y : BitVec k) (lo : Nat) (h : lo < k) :
    (x ++ y).getLsbD lo = y.getLsbD lo := by simp [getLsbD_append, h]

/-- A bit of the high part. -/
theorem bit_high {m k : Nat} (x : BitVec m) (y : BitVec k) (lo : Nat) (h : k ≤ lo) :
    (x ++ y).getLsbD lo = x.getLsbD (lo - k) := by
  have : ¬ lo < k := by omega
  simp [getLsbD_append, this]

/-- The bit of a one-bit field. -/
theorem bit_ofBool (b : Bool) : (ofBool b).getLsbD 0 = b := by simp

/-- A field of eight bits whose low four are the low part. -/
theorem field_cat4 {m : Nat} (x : BitVec m) (y : BitVec 4) :
    (x ++ y).extractLsb' 0 8 = x.extractLsb' 0 4 ++ y := by
  apply BitVec.eq_of_getLsbD_eq
  intro i hi
  refine Eq.trans ?_ (getLsbD_append (x := x.extractLsb' 0 4) (y := y)).symm
  have h' : i - 4 < 4 := by omega
  by_cases h : i < 4 <;> simp [getLsbD_append, h, h', hi]

/-- A field of eight bits whose low two are the low part. -/
theorem field_cat2 {m : Nat} (x : BitVec m) (y : BitVec 2) :
    (x ++ y).extractLsb' 0 8 = x.extractLsb' 0 6 ++ y := by
  apply BitVec.eq_of_getLsbD_eq
  intro i hi
  refine Eq.trans ?_ (getLsbD_append (x := x.extractLsb' 0 6) (y := y)).symm
  have h' : i - 2 < 6 := by omega
  by_cases h : i < 2 <;> simp [getLsbD_append, h, h', hi]

/-- A field of eight bits whose low one is the low part. -/
theorem field_cat1 {m : Nat} (x : BitVec m) (y : BitVec 1) :
    (x ++ y).extractLsb' 0 8 = x.extractLsb' 0 7 ++ y := by
  apply BitVec.eq_of_getLsbD_eq
  intro i hi
  refine Eq.trans ?_ (getLsbD_append (x := x.extractLsb' 0 7) (y := y)).symm
  have h' : i - 1 < 7 := by omega
  by_cases h : i < 1 <;> simp [getLsbD_append, h, h', hi]

/-- A number of four bits is below 16. -/
theorem nibble_lt : ∀ c : BitVec 4, decide (0#4 ++ c < 16#8) = true := by decide

/-- A number of two bits is below 4. -/
theorem pair_lt : ∀ c : BitVec 2, decide (0#6 ++ c < 4#8) = true := by decide

/-- A number of one bit is below 2. -/
theorem flag_lt : ∀ c : Bool, decide (0#7 ++ ofBool c < 2#8) = true := by decide

/-- R32: ORD 0 and 1 are those that are neither 2 nor 3. -/
theorem ord_lt_two : ∀ o : BitVec 2, decide (o < 2#2) = (o != 3#2 && o != 2#2) := by decide

/-- The fields of a memory GX are those its word was made of. -/
theorem memGx_encGx (g : MemGx) : memGx (encGx g) = g := by
  simp (disch := decide) only [memGx, encGx, field_low, field_high, field_full, bit_low, bit_high, bit_ofBool, Nat.reduceSub]

/-- The word of a memory GX passes R32's checks unless ORD is 3. -/
theorem gxOk_encGx (g : MemGx) : gxOk (encGx g) = (g.ord != 3#2) := by
  simp (disch := decide) [gxOk, encGx, field_low, field_high, field_full, Nat.reduceSub, -Nat.reduceAdd]

/-- ORD of the word of a memory GX. -/
theorem ord_encGx (g : MemGx) : (encGx g).extractLsb' 16 2 = g.ord := by
  simp (disch := decide) only [encGx, field_low, field_high, field_full, Nat.reduceSub]

/-- The low bits of the offset of the word of a memory GX. -/
theorem low_encGx (g : MemGx) : (encGx g).extractLsb' 0 4 = g.offset.extractLsb' 0 4 := by
  simp (disch := decide) only [encGx, field_low]

/-- The row a gang word of a given opcode takes. -/
theorem rowOf_gang {w : Word} {n : Nat} {r : Row} (hr : findRow gangRows n = some r) (h : w.extractLsb' 24 8 = BitVec.ofNat 8 n)
    (hn : n < 256) : rowOf 0 w = some r := by
  have : bits w 24 8 = n := by rw [bits, h]; simp; omega
  simp [rowOf, this, hr]

/-- The row a matrix word of a given op takes. -/
theorem rowOf_matrix {w : Word} {n : Nat} {r : Row} (hr : findRow matrixRows n = some r) (h : w.extractLsb' 26 6 = BitVec.ofNat 6 n)
    (hn : n < 64) : rowOf 1 w = some r := by
  have : bits w 26 6 = n := by rw [bits, h]; simp; omega
  simp [rowOf, this, hr]

/-- The row a copy word of a given op takes. -/
theorem rowOf_copy {w : Word} {n : Nat} {r : Row} (hr : findRow copyRows n = some r) (h : w.extractLsb' 26 6 = BitVec.ofNat 6 n)
    (hn : n < 64) : rowOf 2 w = some r := by
  have : bits w 26 6 = n := by rw [bits, h]; simp; omega
  simp [rowOf, this, hr]

/-- The row a collective word of a given op takes. -/
theorem rowOf_coll {w : Word} {n : Nat} {r : Row} (hr : findRow collRows n = some r) (h : w.extractLsb' 26 6 = BitVec.ofNat 6 n)
    (hn : n < 64) : rowOf 3 w = some r := by
  have : bits w 26 6 = n := by rw [bits, h]; simp; omega
  simp [rowOf, this, hr]

end Sys2Proof.Laws
end

