-- ==== Sys2Proof/Laws/Issue.lean ====
section
/-!
SUPPORT. What the issue of a gang word comes to (R22, R34, R142): one lemma per shared form.
-/
set_option Elab.async false
namespace Sys2Proof.Laws
open Sys2Proof Sys2Proof.Machine

variable {s : State} {c : Issue} {i : Instr}

/-- An issued gang word does what its body says. -/
theorem gangWord_of_issues (h : s.issues c i) (body : Issue → Fate) :
    gangWord i s body = .next (match body c with
      | .done t => t.past c i
      | .wait t => t
      | .went t => t
      | .trap t => s.trapped c i t) := by
  obtain ⟨hc, ha, hp⟩ := h
  simp only [gangWord, hc, ha, ↓reduceIte, hp, Instr.span] at *
  cases body c <;> rfl

/-- A gang word of no taking-part lane only goes on (R22). -/
theorem gangWord_of_idle (hc : s.issuer = some c) (ha : c.act = []) (body : Issue → Fate) :
    gangWord i s body = .next (s.past c i) := by
  simp [gangWord, hc, ha]

/-- A gang word whose place or privilege traps takes that trap (R26, R40, R47). -/
theorem gangWord_of_misplaced {t : Trap} (hc : s.issuer = some c) (ha : c.act ≠ []) (hp : c.placeTrap i i.span = some t)
    (body : Issue → Fate) : gangWord i s body = .next (s.trapped c i t) := by
  simp [gangWord, hc, ha, hp]

/-- A word of a check and a change of lanes. -/
theorem actsIf_of_gangWord {chk : State → Issue → Option Trap} {f : State → Issue → Nat → Lane → Lane}
    (h : ∀ s, exec i s = gangWord i s fun c => match chk s c with
      | some t => .trap t
      | none => .done (s.put c (c.g.mapLanes c.act (f s c)))) : i.actsIf chk f := by
  intro s c hs
  rw [h, gangWord_of_issues hs]
  cases chk s c <;> rfl

/-- A word of the lane form. -/
theorem acts_of_laneWord {us : List (Use × Opnd)} {f : Gang → Nat → Lane → Lane} (h : ∀ s, exec i s = laneWord i us f s) :
    i.acts us fun _ c => f c.g :=
  actsIf_of_gangWord h

/-- A word of the floating-point form. -/
theorem floatsIf_of_gangWord {chk : Issue → Option Trap} {flags : Issue → Nat → Flags} {f : Issue → Nat → Lane → Lane}
    (h : ∀ s, exec i s = gangWord i s fun c => match chk c with
      | some t => .trap t
      | none => match c.fpTrap (flags c) with
        | some t => .trap t
        | none => .done (s.put c ((c.g.mapLanes c.act (f c)).raiseFlags (orFlags c.act (flags c))))) : i.floatsIf chk flags f := by
  intro s c hs
  rw [h, gangWord_of_issues hs]
  cases chk c with
  | some t => rfl
  | none => cases c.fpTrap (flags c) <;> rfl

/-- A word of the floating-point form with operand checks. -/
theorem floats_of_fpWord {us : List (Use × Opnd)} {flags : Gang → Nat → Flags} {f : Gang → Nat → Lane → Lane}
    (h : ∀ s, exec i s = fpWord i us flags f s) : i.floats us flags f :=
  floatsIf_of_gangWord h

/-- Two words that change lanes alike. -/
theorem actsIf_congr {chk : State → Issue → Option Trap} {f g : State → Issue → Nat → Lane → Lane} (h : i.actsIf chk f)
    (e : ∀ s c k l, f s c k l = g s c k l) : i.actsIf chk g := by
  have : f = g := by funext s c k l; exact e s c k l
  exact this ▸ h

end Sys2Proof.Laws
end

