-- ==== Sys2Proof/Laws/Table.lean ====
section
/-!
SUPPORT. The sparse tables that hold the machine's indexed state: an entry reads back as it was put, and no other entry changes.
-/
set_option Elab.async false
namespace Sys2Proof.Laws
open Sys2Proof Sys2Proof.Machine

variable {α : Type}

@[simp] theorem tget_nil (k : Nat) : tget ([] : Tab α) k = none := rfl

/-- The entry put is the entry read. -/
@[simp] theorem tget_tput_same (t : Tab α) (k : Nat) (v : α) : tget (tput t k v) k = some v := by
  induction t with
  | nil => simp [tput, tget]
  | cons p t ih =>
    obtain ⟨j, w⟩ := p
    by_cases h1 : k < j
    · simp [tput, tget, h1]
    · by_cases h2 : k = j
      · simp [tput, tget, h2]
      · simp [tput, tget, h1, h2, ih]

/-- Putting an entry leaves every other one. -/
theorem tget_tput_ne (t : Tab α) {k k' : Nat} (v : α) (h : k' ≠ k) : tget (tput t k v) k' = tget t k' := by
  induction t with
  | nil => simp [tput, tget, h]
  | cons p t ih =>
    obtain ⟨j, w⟩ := p
    by_cases h1 : k < j
    · simp [tput, tget, h1, h]
    · by_cases h2 : k = j
      · subst h2; simp [tput, tget, h]
      · by_cases h3 : k' = j <;> simp [tput, tget, h1, h2, h3, ih]

/-- Reading after putting, in one equation. -/
theorem tget_tput (t : Tab α) (k k' : Nat) (v : α) : tget (tput t k v) k' = if k' = k then some v else tget t k' := by
  by_cases h : k' = k
  · subst h; simp
  · simp [h, tget_tput_ne]

/-- The same with a default. -/
theorem tgetD_tput (t : Tab α) (k k' : Nat) (v d : α) : tgetD (tput t k v) k' d = if k' = k then v else tgetD t k' d := by
  by_cases h : k' = k <;> simp [tgetD, tget_tput, h]

@[simp] theorem tgetD_tput_same (t : Tab α) (k : Nat) (v d : α) : tgetD (tput t k v) k d = v := by simp [tgetD]

/-- A deleted entry is gone. -/
@[simp] theorem tget_tdel_same (t : Tab α) (k : Nat) : tget (tdel t k) k = none := by
  induction t with
  | nil => rfl
  | cons p t ih =>
    obtain ⟨j, w⟩ := p
    by_cases h : j = k
    · subst h; simpa [tdel] using ih
    · have h' : k ≠ j := fun e => h e.symm
      simpa [tdel, tget, h, h'] using ih

/-- Deleting an entry leaves every other one. -/
theorem tget_tdel_ne (t : Tab α) {k k' : Nat} (h : k' ≠ k) : tget (tdel t k) k' = tget t k' := by
  induction t with
  | nil => rfl
  | cons p t ih =>
    obtain ⟨j, w⟩ := p
    by_cases h1 : j = k
    · subst h1; simpa [tdel, tget, h] using ih
    · by_cases h2 : k' = j
      · subst h2; simp [tdel, tget, h]
      · simpa [tdel, tget, h1, h2] using ih

/-- Reading after a change of one entry. -/
theorem tget_tmod (t : Tab α) (k k' : Nat) (f : α → α) : tget (tmod t k f) k' = if k' = k then (tget t k).map f else tget t k' := by
  unfold tmod
  cases h : tget t k with
  | none => by_cases e : k' = k <;> simp [e, h]
  | some v => simp [tget_tput]

end Sys2Proof.Laws
end

