-- ==== Sys2Proof/Laws/Memory.lean ====
section
/-!
SUPPORT. Memory reads what was written and nothing else changes (R1, R13); every operation on memory keeps the
canonical form.
-/
set_option Elab.async false
namespace Sys2Proof.Laws
open Sys2Proof Sys2Proof.Machine

/-- A read of one byte after a store of one byte. -/
theorem byte_setCell (l : List Host.Cell) (a a' : Nat) (b : Byte) (lo : Nat) (hl : cellsWf lo l = true) :
    tgetD (setCell l a b) a' 0 = if a' = a then b else tgetD l a' 0 := by
  induction l generalizing lo with
  | nil =>
    by_cases hb : b = 0#8 <;> by_cases h : a' = a <;> simp [setCell, tgetD, tget, hb, h]
  | cons p t ih =>
    obtain ⟨k, v⟩ := p
    simp only [cellsWf, Bool.and_eq_true, decide_eq_true_eq] at hl
    have gone : ∀ (t : List Host.Cell) (lo x : Nat), cellsWf lo t = true → x < lo → tget t x = none := by
      intro t
      induction t with
      | nil => intros; rfl
      | cons q t ih =>
        intro lo x h hx
        obtain ⟨j, w⟩ := q
        simp only [cellsWf, Bool.and_eq_true, decide_eq_true_eq] at h
        have : x ≠ j := by omega
        simp [tget, this, ih (j + 1) x h.2 (by omega)]
    by_cases h1 : a < k
    · by_cases hb : b = 0#8
      · by_cases h : a' = a
        · subst h
          have : a' ≠ k := by omega
          simp [setCell, h1, hb, tgetD, tget, this, gone t (k + 1) a' hl.2 (by omega)]
        · simp [setCell, h1, hb, h]
      · by_cases h : a' = a <;> simp [setCell, h1, hb, tgetD, tget, h]
    · by_cases h2 : a = k
      · subst h2
        by_cases hb : b = 0#8
        · by_cases h : a' = a
          · subst h; simp [setCell, hb, tgetD, gone t (a' + 1) a' hl.2 (by omega)]
          · simp [setCell, hb, tgetD, tget, h]
        · by_cases h : a' = a <;> simp [setCell, hb, tgetD, tget, h]
      · by_cases h : a' = k
        · have : a' ≠ a := by omega
          subst h; simp [setCell, h1, h2, tgetD, tget, this]
        · have := ih (k + 1) hl.2
          simpa [setCell, h1, h2, tgetD, tget, h] using this

/-- Storing a byte keeps the cells in order. -/
theorem cellsWf_setCell (l : List Host.Cell) (a : Nat) (b : Byte) (lo : Nat) (hl : cellsWf lo l = true) (ha : lo ≤ a) :
    cellsWf lo (setCell l a b) = true := by
  induction l generalizing lo with
  | nil => by_cases hb : b = 0#8 <;> simp [setCell, cellsWf, hb, ha]
  | cons p t ih =>
    obtain ⟨k, v⟩ := p
    have h := hl
    simp only [cellsWf, Bool.and_eq_true, decide_eq_true_eq, bne_iff_ne] at h
    obtain ⟨⟨h1, h2⟩, h3⟩ := h
    unfold setCell
    split
    · split
      · exact hl
      · rename_i hk hb
        simp only [cellsWf, Bool.and_eq_true, decide_eq_true_eq, bne_iff_ne]
        exact ⟨⟨ha, hb⟩, ⟨by omega, h2⟩, h3⟩
    · split
      · split
        · subst_vars
          have mono : ∀ (t : List Host.Cell) (x y : Nat), y ≤ x → cellsWf x t = true → cellsWf y t = true := by
            intro t
            cases t with
            | nil => intros; rfl
            | cons q t =>
              intro x y hxy hq
              simp only [cellsWf, Bool.and_eq_true, decide_eq_true_eq] at hq ⊢
              exact ⟨⟨by omega, hq.1.2⟩, hq.2⟩
          exact mono t _ _ (by omega) h3
        · subst_vars; simp_all [cellsWf]
      · simp [cellsWf, h1, ih (k + 1) h3 (by omega)]
        exact h2

/-- A smaller bound is weaker. -/
theorem cellsWf_mono (t : List Host.Cell) {x y : Nat} (h : y ≤ x) (hq : cellsWf x t = true) : cellsWf y t = true := by
  cases t with
  | nil => rfl
  | cons q t =>
    simp only [cellsWf, Bool.and_eq_true, decide_eq_true_eq] at hq ⊢
    exact ⟨⟨by omega, hq.1.2⟩, hq.2⟩

/-- Dropping cells keeps the form. -/
theorem cellsWf_filter (l : List Host.Cell) (p : Host.Cell → Bool) (lo : Nat) (h : cellsWf lo l = true) :
    cellsWf lo (l.filter p) = true := by
  induction l generalizing lo with
  | nil => rfl
  | cons q t ih =>
    obtain ⟨k, v⟩ := q
    simp only [cellsWf, Bool.and_eq_true, decide_eq_true_eq] at h
    have := ih (k + 1) h.2
    by_cases hp : p (k, v)
    · simpa [List.filter_cons, hp, cellsWf, h.1] using ⟨bne_iff_ne.1 h.1.2, this⟩
    · simpa [List.filter_cons, hp] using cellsWf_mono _ (by omega) this

variable {m : Mem}

/-- R1: a byte reads as it was last stored. -/
theorem byte_setByte (h : m.wf = true) (a a' : Nat) (b : Byte) : (m.setByte a b).byte a' = if a' = a then b else m.byte a' :=
  byte_setCell _ _ _ _ 0 h

theorem wf_setByte (h : m.wf = true) (a : Nat) (b : Byte) : (m.setByte a b).wf = true := cellsWf_setCell _ _ _ 0 h (Nat.zero_le _)

theorem wf_write (h : m.wf = true) (a : Nat) (bs : List Byte) : (m.write a bs).wf = true := by
  induction bs generalizing m a with
  | nil => exact h
  | cons b t ih => exact ih (wf_setByte h a b) (a + 1)

theorem wf_writeNat (h : m.wf = true) (a n v : Nat) : (m.writeNat a n v).wf = true := wf_write h _ _

/-- R1: a write stores its bytes at ascending addresses and no other byte. -/
theorem byte_write (h : m.wf = true) (a : Nat) (bs : List Byte) (a' : Nat) :
    (m.write a bs).byte a' = if a ≤ a' ∧ a' < a + bs.length then bs.getD (a' - a) 0 else m.byte a' := by
  induction bs generalizing m a with
  | nil =>
    have : ¬ (a ≤ a' ∧ a' < a + 0) := by omega
    simp only [Mem.write, List.length_nil, this, if_false]
  | cons b t ih =>
    simp only [Mem.write, ih (wf_setByte h a b), byte_setByte h, List.length_cons]
    by_cases h1 : a' = a
    · subst h1
      have h2 : ¬ (a' + 1 ≤ a' ∧ a' < a' + 1 + t.length) := by omega
      have h3 : a' ≤ a' ∧ a' < a' + (t.length + 1) := by omega
      simp only [h2, h3, and_self, ↓reduceIte, Nat.sub_self, List.getD_cons_zero]
    · by_cases h2 : a + 1 ≤ a' ∧ a' < a + 1 + t.length
      · have h3 : a ≤ a' ∧ a' < a + (t.length + 1) := by omega
        have h4 : a' - a = (a' - (a + 1)) + 1 := by omega
        simp only [h2, h3, and_self, ↓reduceIte, h4, List.getD_cons_succ]
      · have h3 : ¬ (a ≤ a' ∧ a' < a + (t.length + 1)) := by omega
        simp only [h2, h3, h1, ↓reduceIte]

theorem wf_clear (h : m.wf = true) (lo hi : Nat) : (m.clear lo hi).wf = true := cellsWf_filter _ _ _ h
theorem wf_wipe (h : m.wf = true) (lo hi : Nat) : (m.wipe lo hi).wf = true := cellsWf_filter _ _ _ h
theorem wf_own (h : m.wf = true) (a : Nat) (c : Option Nat) : (m.own a c).wf = true := h
theorem wf_setTag (h : m.wf = true) (a : Nat) (on : Bool) : (m.setTag a on).wf = true := h

/-- A fold of operations that keep the form keeps it. -/
theorem wf_foldl {α : Type} (f : Mem → α → Mem) (hf : ∀ m x, m.wf = true → (f m x).wf = true) (xs : List α) (h : m.wf = true) :
    (xs.foldl f m).wf = true := by
  induction xs generalizing m with
  | nil => exact h
  | cons x t ih => exact ih (hf m x h)

theorem wf_writeMask (h : m.wf = true) (line : Nat) (mask : BitVec 64) (bs : List Byte) : (m.writeMask line mask bs).wf = true :=
  wf_foldl _ (fun m p hm => by
    by_cases hp : mask.getLsbD p.2
    · simpa [hp] using wf_setByte hm _ _
    · simpa [hp] using hm) _ h

@[simp] theorem byte_own (a : Nat) (c : Option Nat) (x : Nat) : (m.own a c).byte x = m.byte x := rfl
@[simp] theorem byte_setTag (a : Nat) (on : Bool) (x : Nat) : (m.setTag a on).byte x = m.byte x := rfl

/-- What a part of an access does to memory keeps the form. -/
theorem wf_perform (h : m.wf = true) (a : Access) (k : Nat) (p : Part) : (m.perform a k p).1.wf = true := by
  unfold Mem.perform
  cases a.kind <;> simp only <;> first
    | exact h
    | exact wf_writeNat h _ _ _
    | exact wf_writeNat (wf_setTag h _ _) _ _ _
    | (split <;> first | exact wf_writeNat h _ _ _ | exact h)

/-- A fold whose first component keeps the form keeps it. -/
theorem wf_foldl_fst {α β : Type} (f : Mem × β → α → Mem × β) (hf : ∀ r x, r.1.wf = true → (f r x).1.wf = true) (xs : List α) (r : Mem × β)
    (h : r.1.wf = true) : (xs.foldl f r).1.wf = true := by
  induction xs generalizing r with
  | nil => exact h
  | cons x t ih => exact ih _ (hf r x h)

theorem wf_writeSkip (h : m.wf = true) (k : Nat) (bs : List Byte) : (m.writeSkip k bs).1.wf = true :=
  wf_foldl_fst _ (fun r p hr => by
    by_cases ht : m.tagged (k + p.2) = true
    · simpa [ht] using hr
    · simpa [ht] using wf_setByte hr _ _) _ _ h

theorem wf_storeOut (h : m.wf = true) (k ctx : Nat) (ws : List (Nat × List Byte)) : (m.storeOut k ctx ws).1.wf = true := by
  have hf := wf_foldl_fst (fun (r : Mem × Nat) (w : Nat × List Byte) => let x := r.1.writeSkip (k + w.1) w.2; (x.1, r.2 + x.2))
    (fun r w hr => wf_writeSkip hr _ _) ws (m, 0) h
  unfold Mem.storeOut
  split
  · exact wf_own hf _ _
  · exact hf

theorem wf_dramOnly (h : m.wf = true) : m.dramOnly.wf = true := cellsWf_filter _ _ _ h

end Sys2Proof.Laws
end

