-- ==== Sys2Proof/Laws/PerInstr.lean ====
section
/-!
SUPPORT. Per instruction: the words the encoder gives a well-formed instruction decode to it, with every operand (R30 to R32,
R37 to R44), and their count is the length the decoder gives them. A step that is no instruction word has class 4.
-/
set_option linter.unusedSimpArgs false
set_option Elab.async false
namespace Sys2Proof.Laws.RoundTrip
open Sys2Proof Sys2Proof.Machine Sys2Proof.Laws BitVec

/-- Decode of encode is the instruction itself. -/
def Statement (i : Instr) : Prop := i.wf = true → (encode i).1 < 4 →
  decodeWord (encode i).1 ((encode i).2.getD 0 0) (encode i).2[1]? = .ok i ∧
    wordLen (encode i).1 ((encode i).2.getD 0 0) = (encode i).2.length

/-- A step that is no instruction word. -/
theorem noWord {i : Instr} (h : (encode i).1 = 4) : Statement i := fun _ hc => by omega

/-- An instruction of one word. -/
theorem one {i : Instr} {cls : Nat} {w : Word} {r : Row} (he : encode i = (cls, [w])) (hr : rowOf cls w = some r)
    (hx : r.ext = false) (hd : i.wf = true → r.read w 0 = .ok i) : Statement i := fun hw _ => by
  have h := hd hw
  simp only [he, decodeWord, wordLen, hr, hx, List.getD_cons_zero, Bool.false_eq_true, if_false, h, List.length_cons, List.length_nil]
  exact ⟨trivial, trivial⟩

/-- An instruction of a word and its extension. -/
theorem two {i : Instr} {cls : Nat} {w x : Word} {r : Row} (he : encode i = (cls, [w, x])) (hr : rowOf cls w = some r)
    (hx : r.ext = true) (hd : i.wf = true → r.read w x = .ok i) : Statement i := fun hw _ => by
  simp [he, decodeWord, wordLen, hr, hx, hd hw]

theorem clauseIssue (hdr : Word) : Statement (.clauseIssue hdr) := noWord rfl
theorem issueAgePromotion (gang entry : Nat) : Statement (.issueAgePromotion gang entry) := noWord rfl
theorem nop : Statement .nop :=
  one rfl (rowOf_gang (n := 0x00) rfl (by simp (disch := decide) only [field_low, field_high, field_full, bit_low, bit_high, bit_ofBool, Nat.reduceSub]) (by decide)) rfl <| fun _ => rfl
theorem mov (d a : Opnd) : Statement (.mov d a) :=
  one rfl (rowOf_gang (n := 0x01) rfl (by simp (disch := decide) only [field_low, field_high, field_full, bit_low, bit_high, bit_ofBool, Nat.reduceSub]) (by decide)) rfl <| fun _ => by simp (disch := decide) only [need, field_low, field_high, field_full, bit_low, bit_high, bit_ofBool, Nat.reduceSub] <;> simp
theorem movi (d : Opnd) (imm : BitVec 16) : Statement (.movi d imm) :=
  one rfl (rowOf_gang (n := 0x02) rfl (by simp (disch := decide) only [field_low, field_high, field_full, bit_low, bit_high, bit_ofBool, Nat.reduceSub]) (by decide)) rfl <| fun _ => by simp (disch := decide) only [field_low, field_high, field_full, bit_low, bit_high, bit_ofBool, Nat.reduceSub]
theorem movh (d : Opnd) (imm : BitVec 16) : Statement (.movh d imm) :=
  one rfl (rowOf_gang (n := 0x03) rfl (by simp (disch := decide) only [field_low, field_high, field_full, bit_low, bit_high, bit_ofBool, Nat.reduceSub]) (by decide)) rfl <| fun _ => by simp (disch := decide) only [field_low, field_high, field_full, bit_low, bit_high, bit_ofBool, Nat.reduceSub]
theorem movw (d : Opnd) (imm : Word) : Statement (.movw d imm) :=
  two rfl (rowOf_gang (n := 0x04) rfl (by simp (disch := decide) only [field_low, field_high, field_full, bit_low, bit_high, bit_ofBool, Nat.reduceSub]) (by decide)) rfl <| fun _ => by simp (disch := decide) only [need, field_low, field_high, field_full, bit_low, bit_high, bit_ofBool, Nat.reduceSub] <;> simp
theorem sel (d a b : Opnd) (wide neg : Bool) (pred : BitVec 3) : Statement (.sel d a b wide neg pred) :=
  two rfl (rowOf_gang (n := 0x05) rfl (by simp (disch := decide) only [field_low, field_high, field_full, bit_low, bit_high, bit_ofBool, Nat.reduceSub]) (by decide)) rfl <| fun _ => by simp (disch := decide) only [need, field_low, field_high, field_full, bit_low, bit_high, bit_ofBool, Nat.reduceSub] <;> simp
theorem view (which : BitVec 8) (imm : BitVec 16) : Statement (.view which imm) :=
  one rfl (rowOf_gang (n := 0x06) rfl (by simp (disch := decide) only [field_low, field_high, field_full, bit_low, bit_high, bit_ofBool, Nat.reduceSub]) (by decide)) rfl <| fun hw => by simp (disch := decide) only [need, field_low, field_high, field_full, bit_low, bit_high, bit_ofBool, Nat.reduceSub] <;> simpa [Instr.wf] using hw
theorem rdsr (d : Opnd) (num : BitVec 16) : Statement (.rdsr d num) :=
  one rfl (rowOf_gang (n := 0x07) rfl (by simp (disch := decide) only [field_low, field_high, field_full, bit_low, bit_high, bit_ofBool, Nat.reduceSub]) (by decide)) rfl <| fun _ => by simp (disch := decide) only [field_low, field_high, field_full, bit_low, bit_high, bit_ofBool, Nat.reduceSub]
theorem wrsr (d : Opnd) (num : BitVec 16) : Statement (.wrsr d num) :=
  one rfl (rowOf_gang (n := 0x08) rfl (by simp (disch := decide) only [field_low, field_high, field_full, bit_low, bit_high, bit_ofBool, Nat.reduceSub]) (by decide)) rfl <| fun _ => by simp (disch := decide) only [field_low, field_high, field_full, bit_low, bit_high, bit_ofBool, Nat.reduceSub]
theorem add (d a b : Opnd) : Statement (.add d a b) :=
  one rfl (rowOf_gang (n := 0x10) rfl (by simp (disch := decide) only [field_low, field_high, field_full, bit_low, bit_high, bit_ofBool, Nat.reduceSub]) (by decide)) rfl <| fun _ => by simp (disch := decide) only [field_low, field_high, field_full, bit_low, bit_high, bit_ofBool, Nat.reduceSub]
theorem sub (d a b : Opnd) : Statement (.sub d a b) :=
  one rfl (rowOf_gang (n := 0x11) rfl (by simp (disch := decide) only [field_low, field_high, field_full, bit_low, bit_high, bit_ofBool, Nat.reduceSub]) (by decide)) rfl <| fun _ => by simp (disch := decide) only [field_low, field_high, field_full, bit_low, bit_high, bit_ofBool, Nat.reduceSub]
theorem addi (d a : Opnd) (imm : BitVec 8) : Statement (.addi d a imm) :=
  one rfl (rowOf_gang (n := 0x12) rfl (by simp (disch := decide) only [field_low, field_high, field_full, bit_low, bit_high, bit_ofBool, Nat.reduceSub]) (by decide)) rfl <| fun _ => by simp (disch := decide) only [field_low, field_high, field_full, bit_low, bit_high, bit_ofBool, Nat.reduceSub]
theorem mul (d a b : Opnd) : Statement (.mul d a b) :=
  one rfl (rowOf_gang (n := 0x13) rfl (by simp (disch := decide) only [field_low, field_high, field_full, bit_low, bit_high, bit_ofBool, Nat.reduceSub]) (by decide)) rfl <| fun _ => by simp (disch := decide) only [field_low, field_high, field_full, bit_low, bit_high, bit_ofBool, Nat.reduceSub]
theorem mulhi (d a b : Opnd) : Statement (.mulhi d a b) :=
  one rfl (rowOf_gang (n := 0x14) rfl (by simp (disch := decide) only [field_low, field_high, field_full, bit_low, bit_high, bit_ofBool, Nat.reduceSub]) (by decide)) rfl <| fun _ => by simp (disch := decide) only [field_low, field_high, field_full, bit_low, bit_high, bit_ofBool, Nat.reduceSub]
theorem mulhu (d a b : Opnd) : Statement (.mulhu d a b) :=
  one rfl (rowOf_gang (n := 0x15) rfl (by simp (disch := decide) only [field_low, field_high, field_full, bit_low, bit_high, bit_ofBool, Nat.reduceSub]) (by decide)) rfl <| fun _ => by simp (disch := decide) only [field_low, field_high, field_full, bit_low, bit_high, bit_ofBool, Nat.reduceSub]
theorem mad (d a b : Opnd) : Statement (.mad d a b) :=
  one rfl (rowOf_gang (n := 0x16) rfl (by simp (disch := decide) only [field_low, field_high, field_full, bit_low, bit_high, bit_ofBool, Nat.reduceSub]) (by decide)) rfl <| fun _ => by simp (disch := decide) only [field_low, field_high, field_full, bit_low, bit_high, bit_ofBool, Nat.reduceSub]
theorem add64 (d a b : Opnd) : Statement (.add64 d a b) :=
  one rfl (rowOf_gang (n := 0x17) rfl (by simp (disch := decide) only [field_low, field_high, field_full, bit_low, bit_high, bit_ofBool, Nat.reduceSub]) (by decide)) rfl <| fun _ => by simp (disch := decide) only [field_low, field_high, field_full, bit_low, bit_high, bit_ofBool, Nat.reduceSub]
theorem sub64 (d a b : Opnd) : Statement (.sub64 d a b) :=
  one rfl (rowOf_gang (n := 0x18) rfl (by simp (disch := decide) only [field_low, field_high, field_full, bit_low, bit_high, bit_ofBool, Nat.reduceSub]) (by decide)) rfl <| fun _ => by simp (disch := decide) only [field_low, field_high, field_full, bit_low, bit_high, bit_ofBool, Nat.reduceSub]
theorem mul64 (d a b : Opnd) : Statement (.mul64 d a b) :=
  one rfl (rowOf_gang (n := 0x19) rfl (by simp (disch := decide) only [field_low, field_high, field_full, bit_low, bit_high, bit_ofBool, Nat.reduceSub]) (by decide)) rfl <| fun _ => by simp (disch := decide) only [field_low, field_high, field_full, bit_low, bit_high, bit_ofBool, Nat.reduceSub]
theorem min (d a b : Opnd) : Statement (.min d a b) :=
  one rfl (rowOf_gang (n := 0x1A) rfl (by simp (disch := decide) only [field_low, field_high, field_full, bit_low, bit_high, bit_ofBool, Nat.reduceSub]) (by decide)) rfl <| fun _ => by simp (disch := decide) only [field_low, field_high, field_full, bit_low, bit_high, bit_ofBool, Nat.reduceSub]
theorem max (d a b : Opnd) : Statement (.max d a b) :=
  one rfl (rowOf_gang (n := 0x1B) rfl (by simp (disch := decide) only [field_low, field_high, field_full, bit_low, bit_high, bit_ofBool, Nat.reduceSub]) (by decide)) rfl <| fun _ => by simp (disch := decide) only [field_low, field_high, field_full, bit_low, bit_high, bit_ofBool, Nat.reduceSub]
theorem minu (d a b : Opnd) : Statement (.minu d a b) :=
  one rfl (rowOf_gang (n := 0x1C) rfl (by simp (disch := decide) only [field_low, field_high, field_full, bit_low, bit_high, bit_ofBool, Nat.reduceSub]) (by decide)) rfl <| fun _ => by simp (disch := decide) only [field_low, field_high, field_full, bit_low, bit_high, bit_ofBool, Nat.reduceSub]
theorem maxu (d a b : Opnd) : Statement (.maxu d a b) :=
  one rfl (rowOf_gang (n := 0x1D) rfl (by simp (disch := decide) only [field_low, field_high, field_full, bit_low, bit_high, bit_ofBool, Nat.reduceSub]) (by decide)) rfl <| fun _ => by simp (disch := decide) only [field_low, field_high, field_full, bit_low, bit_high, bit_ofBool, Nat.reduceSub]
theorem abs (d a : Opnd) : Statement (.abs d a) :=
  one rfl (rowOf_gang (n := 0x1E) rfl (by simp (disch := decide) only [field_low, field_high, field_full, bit_low, bit_high, bit_ofBool, Nat.reduceSub]) (by decide)) rfl <| fun _ => by simp (disch := decide) only [need, field_low, field_high, field_full, bit_low, bit_high, bit_ofBool, Nat.reduceSub] <;> simp
theorem adds (d a b : Opnd) : Statement (.adds d a b) :=
  one rfl (rowOf_gang (n := 0x1F) rfl (by simp (disch := decide) only [field_low, field_high, field_full, bit_low, bit_high, bit_ofBool, Nat.reduceSub]) (by decide)) rfl <| fun _ => by simp (disch := decide) only [field_low, field_high, field_full, bit_low, bit_high, bit_ofBool, Nat.reduceSub]
theorem and (d a b : Opnd) : Statement (.and d a b) :=
  one rfl (rowOf_gang (n := 0x20) rfl (by simp (disch := decide) only [field_low, field_high, field_full, bit_low, bit_high, bit_ofBool, Nat.reduceSub]) (by decide)) rfl <| fun _ => by simp (disch := decide) only [field_low, field_high, field_full, bit_low, bit_high, bit_ofBool, Nat.reduceSub]
theorem or (d a b : Opnd) : Statement (.or d a b) :=
  one rfl (rowOf_gang (n := 0x21) rfl (by simp (disch := decide) only [field_low, field_high, field_full, bit_low, bit_high, bit_ofBool, Nat.reduceSub]) (by decide)) rfl <| fun _ => by simp (disch := decide) only [field_low, field_high, field_full, bit_low, bit_high, bit_ofBool, Nat.reduceSub]
theorem xor (d a b : Opnd) : Statement (.xor d a b) :=
  one rfl (rowOf_gang (n := 0x22) rfl (by simp (disch := decide) only [field_low, field_high, field_full, bit_low, bit_high, bit_ofBool, Nat.reduceSub]) (by decide)) rfl <| fun _ => by simp (disch := decide) only [field_low, field_high, field_full, bit_low, bit_high, bit_ofBool, Nat.reduceSub]
theorem andn (d a b : Opnd) : Statement (.andn d a b) :=
  one rfl (rowOf_gang (n := 0x23) rfl (by simp (disch := decide) only [field_low, field_high, field_full, bit_low, bit_high, bit_ofBool, Nat.reduceSub]) (by decide)) rfl <| fun _ => by simp (disch := decide) only [field_low, field_high, field_full, bit_low, bit_high, bit_ofBool, Nat.reduceSub]
theorem not (d a : Opnd) : Statement (.not d a) :=
  one rfl (rowOf_gang (n := 0x24) rfl (by simp (disch := decide) only [field_low, field_high, field_full, bit_low, bit_high, bit_ofBool, Nat.reduceSub]) (by decide)) rfl <| fun _ => by simp (disch := decide) only [need, field_low, field_high, field_full, bit_low, bit_high, bit_ofBool, Nat.reduceSub] <;> simp
theorem shl (d a b : Opnd) : Statement (.shl d a b) :=
  one rfl (rowOf_gang (n := 0x25) rfl (by simp (disch := decide) only [field_low, field_high, field_full, bit_low, bit_high, bit_ofBool, Nat.reduceSub]) (by decide)) rfl <| fun _ => by simp (disch := decide) only [field_low, field_high, field_full, bit_low, bit_high, bit_ofBool, Nat.reduceSub]
theorem shr (d a b : Opnd) : Statement (.shr d a b) :=
  one rfl (rowOf_gang (n := 0x26) rfl (by simp (disch := decide) only [field_low, field_high, field_full, bit_low, bit_high, bit_ofBool, Nat.reduceSub]) (by decide)) rfl <| fun _ => by simp (disch := decide) only [field_low, field_high, field_full, bit_low, bit_high, bit_ofBool, Nat.reduceSub]
theorem sar (d a b : Opnd) : Statement (.sar d a b) :=
  one rfl (rowOf_gang (n := 0x27) rfl (by simp (disch := decide) only [field_low, field_high, field_full, bit_low, bit_high, bit_ofBool, Nat.reduceSub]) (by decide)) rfl <| fun _ => by simp (disch := decide) only [field_low, field_high, field_full, bit_low, bit_high, bit_ofBool, Nat.reduceSub]
theorem shli (d a : Opnd) (imm : BitVec 8) : Statement (.shli d a imm) :=
  one rfl (rowOf_gang (n := 0x28) rfl (by simp (disch := decide) only [field_low, field_high, field_full, bit_low, bit_high, bit_ofBool, Nat.reduceSub]) (by decide)) rfl <| fun hw => by simp (disch := decide) only [need, field_low, field_high, field_full, bit_low, bit_high, bit_ofBool, Nat.reduceSub] <;> simpa [Instr.wf] using hw
theorem shri (d a : Opnd) (imm : BitVec 8) : Statement (.shri d a imm) :=
  one rfl (rowOf_gang (n := 0x29) rfl (by simp (disch := decide) only [field_low, field_high, field_full, bit_low, bit_high, bit_ofBool, Nat.reduceSub]) (by decide)) rfl <| fun hw => by simp (disch := decide) only [need, field_low, field_high, field_full, bit_low, bit_high, bit_ofBool, Nat.reduceSub] <;> simpa [Instr.wf] using hw
theorem sari (d a : Opnd) (imm : BitVec 8) : Statement (.sari d a imm) :=
  one rfl (rowOf_gang (n := 0x2A) rfl (by simp (disch := decide) only [field_low, field_high, field_full, bit_low, bit_high, bit_ofBool, Nat.reduceSub]) (by decide)) rfl <| fun hw => by simp (disch := decide) only [need, field_low, field_high, field_full, bit_low, bit_high, bit_ofBool, Nat.reduceSub] <;> simpa [Instr.wf] using hw
theorem rotl (d a b : Opnd) : Statement (.rotl d a b) :=
  one rfl (rowOf_gang (n := 0x2B) rfl (by simp (disch := decide) only [field_low, field_high, field_full, bit_low, bit_high, bit_ofBool, Nat.reduceSub]) (by decide)) rfl <| fun _ => by simp (disch := decide) only [field_low, field_high, field_full, bit_low, bit_high, bit_ofBool, Nat.reduceSub]
theorem popc (d a : Opnd) : Statement (.popc d a) :=
  one rfl (rowOf_gang (n := 0x2C) rfl (by simp (disch := decide) only [field_low, field_high, field_full, bit_low, bit_high, bit_ofBool, Nat.reduceSub]) (by decide)) rfl <| fun _ => by simp (disch := decide) only [need, field_low, field_high, field_full, bit_low, bit_high, bit_ofBool, Nat.reduceSub] <;> simp
theorem clz (d a : Opnd) : Statement (.clz d a) :=
  one rfl (rowOf_gang (n := 0x2D) rfl (by simp (disch := decide) only [field_low, field_high, field_full, bit_low, bit_high, bit_ofBool, Nat.reduceSub]) (by decide)) rfl <| fun _ => by simp (disch := decide) only [need, field_low, field_high, field_full, bit_low, bit_high, bit_ofBool, Nat.reduceSub] <;> simp
theorem bfe (d a : Opnd) (sx : Bool) (pos : BitVec 5) (len : BitVec 6) : Statement (.bfe d a sx pos len) :=
  two rfl (rowOf_gang (n := 0x2E) rfl (by simp (disch := decide) only [field_low, field_high, field_full, bit_low, bit_high, bit_ofBool, Nat.reduceSub]) (by decide)) rfl <| fun hw => by simp [Instr.wf] at hw; simp (disch := decide) only [need, bits, field_low, field_high, field_full, bit_low, bit_high, bit_ofBool, Nat.reduceSub]; simp [hw]
theorem bfi (d a : Opnd) (pos : BitVec 5) (len : BitVec 6) : Statement (.bfi d a pos len) :=
  two rfl (rowOf_gang (n := 0x2F) rfl (by simp (disch := decide) only [field_low, field_high, field_full, bit_low, bit_high, bit_ofBool, Nat.reduceSub]) (by decide)) rfl <| fun hw => by simp [Instr.wf] at hw; simp (disch := decide) only [need, bits, field_low, field_high, field_full, bit_low, bit_high, bit_ofBool, Nat.reduceSub]; simp [hw]
theorem cmpeq (d a b : Opnd) : Statement (.cmpeq d a b) :=
  one rfl (rowOf_gang (n := 0x30) rfl (by simp (disch := decide) only [field_low, field_high, field_full, bit_low, bit_high, bit_ofBool, Nat.reduceSub]) (by decide)) rfl <| fun _ => by simp (disch := decide) only [field_low, field_high, field_full, bit_low, bit_high, bit_ofBool, Nat.reduceSub]
theorem cmpne (d a b : Opnd) : Statement (.cmpne d a b) :=
  one rfl (rowOf_gang (n := 0x31) rfl (by simp (disch := decide) only [field_low, field_high, field_full, bit_low, bit_high, bit_ofBool, Nat.reduceSub]) (by decide)) rfl <| fun _ => by simp (disch := decide) only [field_low, field_high, field_full, bit_low, bit_high, bit_ofBool, Nat.reduceSub]
theorem cmplt (d a b : Opnd) : Statement (.cmplt d a b) :=
  one rfl (rowOf_gang (n := 0x32) rfl (by simp (disch := decide) only [field_low, field_high, field_full, bit_low, bit_high, bit_ofBool, Nat.reduceSub]) (by decide)) rfl <| fun _ => by simp (disch := decide) only [field_low, field_high, field_full, bit_low, bit_high, bit_ofBool, Nat.reduceSub]
theorem cmple (d a b : Opnd) : Statement (.cmple d a b) :=
  one rfl (rowOf_gang (n := 0x33) rfl (by simp (disch := decide) only [field_low, field_high, field_full, bit_low, bit_high, bit_ofBool, Nat.reduceSub]) (by decide)) rfl <| fun _ => by simp (disch := decide) only [field_low, field_high, field_full, bit_low, bit_high, bit_ofBool, Nat.reduceSub]
theorem cmpltu (d a b : Opnd) : Statement (.cmpltu d a b) :=
  one rfl (rowOf_gang (n := 0x34) rfl (by simp (disch := decide) only [field_low, field_high, field_full, bit_low, bit_high, bit_ofBool, Nat.reduceSub]) (by decide)) rfl <| fun _ => by simp (disch := decide) only [field_low, field_high, field_full, bit_low, bit_high, bit_ofBool, Nat.reduceSub]
theorem cmpleu (d a b : Opnd) : Statement (.cmpleu d a b) :=
  one rfl (rowOf_gang (n := 0x35) rfl (by simp (disch := decide) only [field_low, field_high, field_full, bit_low, bit_high, bit_ofBool, Nat.reduceSub]) (by decide)) rfl <| fun _ => by simp (disch := decide) only [field_low, field_high, field_full, bit_low, bit_high, bit_ofBool, Nat.reduceSub]
theorem fcmpeq (d a b : Opnd) : Statement (.fcmpeq d a b) :=
  one rfl (rowOf_gang (n := 0x36) rfl (by simp (disch := decide) only [field_low, field_high, field_full, bit_low, bit_high, bit_ofBool, Nat.reduceSub]) (by decide)) rfl <| fun _ => by simp (disch := decide) only [field_low, field_high, field_full, bit_low, bit_high, bit_ofBool, Nat.reduceSub]
theorem fcmplt (d a b : Opnd) : Statement (.fcmplt d a b) :=
  one rfl (rowOf_gang (n := 0x37) rfl (by simp (disch := decide) only [field_low, field_high, field_full, bit_low, bit_high, bit_ofBool, Nat.reduceSub]) (by decide)) rfl <| fun _ => by simp (disch := decide) only [field_low, field_high, field_full, bit_low, bit_high, bit_ofBool, Nat.reduceSub]
theorem fcmple (d a b : Opnd) : Statement (.fcmple d a b) :=
  one rfl (rowOf_gang (n := 0x38) rfl (by simp (disch := decide) only [field_low, field_high, field_full, bit_low, bit_high, bit_ofBool, Nat.reduceSub]) (by decide)) rfl <| fun _ => by simp (disch := decide) only [field_low, field_high, field_full, bit_low, bit_high, bit_ofBool, Nat.reduceSub]
theorem fcmpun (d a b : Opnd) : Statement (.fcmpun d a b) :=
  one rfl (rowOf_gang (n := 0x39) rfl (by simp (disch := decide) only [field_low, field_high, field_full, bit_low, bit_high, bit_ofBool, Nat.reduceSub]) (by decide)) rfl <| fun _ => by simp (disch := decide) only [field_low, field_high, field_full, bit_low, bit_high, bit_ofBool, Nat.reduceSub]
theorem pand (d a b : Opnd) : Statement (.pand d a b) :=
  one rfl (rowOf_gang (n := 0x3A) rfl (by simp (disch := decide) only [field_low, field_high, field_full, bit_low, bit_high, bit_ofBool, Nat.reduceSub]) (by decide)) rfl <| fun _ => by simp (disch := decide) only [field_low, field_high, field_full, bit_low, bit_high, bit_ofBool, Nat.reduceSub]
theorem por (d a b : Opnd) : Statement (.por d a b) :=
  one rfl (rowOf_gang (n := 0x3B) rfl (by simp (disch := decide) only [field_low, field_high, field_full, bit_low, bit_high, bit_ofBool, Nat.reduceSub]) (by decide)) rfl <| fun _ => by simp (disch := decide) only [field_low, field_high, field_full, bit_low, bit_high, bit_ofBool, Nat.reduceSub]
theorem pxor (d a b : Opnd) : Statement (.pxor d a b) :=
  one rfl (rowOf_gang (n := 0x3C) rfl (by simp (disch := decide) only [field_low, field_high, field_full, bit_low, bit_high, bit_ofBool, Nat.reduceSub]) (by decide)) rfl <| fun _ => by simp (disch := decide) only [field_low, field_high, field_full, bit_low, bit_high, bit_ofBool, Nat.reduceSub]
theorem pnot (d a : Opnd) : Statement (.pnot d a) :=
  one rfl (rowOf_gang (n := 0x3D) rfl (by simp (disch := decide) only [field_low, field_high, field_full, bit_low, bit_high, bit_ofBool, Nat.reduceSub]) (by decide)) rfl <| fun _ => by simp (disch := decide) only [need, field_low, field_high, field_full, bit_low, bit_high, bit_ofBool, Nat.reduceSub] <;> simp
theorem p2v (d a : Opnd) : Statement (.p2v d a) :=
  one rfl (rowOf_gang (n := 0x3E) rfl (by simp (disch := decide) only [field_low, field_high, field_full, bit_low, bit_high, bit_ofBool, Nat.reduceSub]) (by decide)) rfl <| fun _ => by simp (disch := decide) only [need, field_low, field_high, field_full, bit_low, bit_high, bit_ofBool, Nat.reduceSub] <;> simp
theorem v2p (d a : Opnd) : Statement (.v2p d a) :=
  one rfl (rowOf_gang (n := 0x3F) rfl (by simp (disch := decide) only [field_low, field_high, field_full, bit_low, bit_high, bit_ofBool, Nat.reduceSub]) (by decide)) rfl <| fun _ => by simp (disch := decide) only [need, field_low, field_high, field_full, bit_low, bit_high, bit_ofBool, Nat.reduceSub] <;> simp
theorem fadd (d a b : Opnd) : Statement (.fadd d a b) :=
  one rfl (rowOf_gang (n := 0x40) rfl (by simp (disch := decide) only [field_low, field_high, field_full, bit_low, bit_high, bit_ofBool, Nat.reduceSub]) (by decide)) rfl <| fun _ => by simp (disch := decide) only [field_low, field_high, field_full, bit_low, bit_high, bit_ofBool, Nat.reduceSub]
theorem fsub (d a b : Opnd) : Statement (.fsub d a b) :=
  one rfl (rowOf_gang (n := 0x41) rfl (by simp (disch := decide) only [field_low, field_high, field_full, bit_low, bit_high, bit_ofBool, Nat.reduceSub]) (by decide)) rfl <| fun _ => by simp (disch := decide) only [field_low, field_high, field_full, bit_low, bit_high, bit_ofBool, Nat.reduceSub]
theorem fmul (d a b : Opnd) : Statement (.fmul d a b) :=
  one rfl (rowOf_gang (n := 0x42) rfl (by simp (disch := decide) only [field_low, field_high, field_full, bit_low, bit_high, bit_ofBool, Nat.reduceSub]) (by decide)) rfl <| fun _ => by simp (disch := decide) only [field_low, field_high, field_full, bit_low, bit_high, bit_ofBool, Nat.reduceSub]
theorem ffma (d a b : Opnd) : Statement (.ffma d a b) :=
  one rfl (rowOf_gang (n := 0x43) rfl (by simp (disch := decide) only [field_low, field_high, field_full, bit_low, bit_high, bit_ofBool, Nat.reduceSub]) (by decide)) rfl <| fun _ => by simp (disch := decide) only [field_low, field_high, field_full, bit_low, bit_high, bit_ofBool, Nat.reduceSub]
theorem fmin (d a b : Opnd) : Statement (.fmin d a b) :=
  one rfl (rowOf_gang (n := 0x44) rfl (by simp (disch := decide) only [field_low, field_high, field_full, bit_low, bit_high, bit_ofBool, Nat.reduceSub]) (by decide)) rfl <| fun _ => by simp (disch := decide) only [field_low, field_high, field_full, bit_low, bit_high, bit_ofBool, Nat.reduceSub]
theorem fmax (d a b : Opnd) : Statement (.fmax d a b) :=
  one rfl (rowOf_gang (n := 0x45) rfl (by simp (disch := decide) only [field_low, field_high, field_full, bit_low, bit_high, bit_ofBool, Nat.reduceSub]) (by decide)) rfl <| fun _ => by simp (disch := decide) only [field_low, field_high, field_full, bit_low, bit_high, bit_ofBool, Nat.reduceSub]
theorem fabs (d a : Opnd) : Statement (.fabs d a) :=
  one rfl (rowOf_gang (n := 0x46) rfl (by simp (disch := decide) only [field_low, field_high, field_full, bit_low, bit_high, bit_ofBool, Nat.reduceSub]) (by decide)) rfl <| fun _ => by simp (disch := decide) only [need, field_low, field_high, field_full, bit_low, bit_high, bit_ofBool, Nat.reduceSub] <;> simp
theorem fneg (d a : Opnd) : Statement (.fneg d a) :=
  one rfl (rowOf_gang (n := 0x47) rfl (by simp (disch := decide) only [field_low, field_high, field_full, bit_low, bit_high, bit_ofBool, Nat.reduceSub]) (by decide)) rfl <| fun _ => by simp (disch := decide) only [need, field_low, field_high, field_full, bit_low, bit_high, bit_ofBool, Nat.reduceSub] <;> simp
theorem frcp (d a : Opnd) : Statement (.frcp d a) :=
  one rfl (rowOf_gang (n := 0x48) rfl (by simp (disch := decide) only [field_low, field_high, field_full, bit_low, bit_high, bit_ofBool, Nat.reduceSub]) (by decide)) rfl <| fun _ => by simp (disch := decide) only [need, field_low, field_high, field_full, bit_low, bit_high, bit_ofBool, Nat.reduceSub] <;> simp
theorem frsq (d a : Opnd) : Statement (.frsq d a) :=
  one rfl (rowOf_gang (n := 0x49) rfl (by simp (disch := decide) only [field_low, field_high, field_full, bit_low, bit_high, bit_ofBool, Nat.reduceSub]) (by decide)) rfl <| fun _ => by simp (disch := decide) only [need, field_low, field_high, field_full, bit_low, bit_high, bit_ofBool, Nat.reduceSub] <;> simp
theorem fsqrt (d a : Opnd) : Statement (.fsqrt d a) :=
  one rfl (rowOf_gang (n := 0x4A) rfl (by simp (disch := decide) only [field_low, field_high, field_full, bit_low, bit_high, bit_ofBool, Nat.reduceSub]) (by decide)) rfl <| fun _ => by simp (disch := decide) only [need, field_low, field_high, field_full, bit_low, bit_high, bit_ofBool, Nat.reduceSub] <;> simp
theorem fdiv (d a b : Opnd) : Statement (.fdiv d a b) :=
  one rfl (rowOf_gang (n := 0x4B) rfl (by simp (disch := decide) only [field_low, field_high, field_full, bit_low, bit_high, bit_ofBool, Nat.reduceSub]) (by decide)) rfl <| fun _ => by simp (disch := decide) only [field_low, field_high, field_full, bit_low, bit_high, bit_ofBool, Nat.reduceSub]
theorem flog2 (d a : Opnd) : Statement (.flog2 d a) :=
  one rfl (rowOf_gang (n := 0x4C) rfl (by simp (disch := decide) only [field_low, field_high, field_full, bit_low, bit_high, bit_ofBool, Nat.reduceSub]) (by decide)) rfl <| fun _ => by simp (disch := decide) only [need, field_low, field_high, field_full, bit_low, bit_high, bit_ofBool, Nat.reduceSub] <;> simp
theorem fexp2 (d a : Opnd) : Statement (.fexp2 d a) :=
  one rfl (rowOf_gang (n := 0x4D) rfl (by simp (disch := decide) only [field_low, field_high, field_full, bit_low, bit_high, bit_ofBool, Nat.reduceSub]) (by decide)) rfl <| fun _ => by simp (disch := decide) only [need, field_low, field_high, field_full, bit_low, bit_high, bit_ofBool, Nat.reduceSub] <;> simp
theorem fln (d a : Opnd) : Statement (.fln d a) :=
  one rfl (rowOf_gang (n := 0x4E) rfl (by simp (disch := decide) only [field_low, field_high, field_full, bit_low, bit_high, bit_ofBool, Nat.reduceSub]) (by decide)) rfl <| fun _ => by simp (disch := decide) only [need, field_low, field_high, field_full, bit_low, bit_high, bit_ofBool, Nat.reduceSub] <;> simp
theorem fexp (d a : Opnd) : Statement (.fexp d a) :=
  one rfl (rowOf_gang (n := 0x4F) rfl (by simp (disch := decide) only [field_low, field_high, field_full, bit_low, bit_high, bit_ofBool, Nat.reduceSub]) (by decide)) rfl <| fun _ => by simp (disch := decide) only [need, field_low, field_high, field_full, bit_low, bit_high, bit_ofBool, Nat.reduceSub] <;> simp
theorem dadd (d a b : Opnd) : Statement (.dadd d a b) :=
  one rfl (rowOf_gang (n := 0x50) rfl (by simp (disch := decide) only [field_low, field_high, field_full, bit_low, bit_high, bit_ofBool, Nat.reduceSub]) (by decide)) rfl <| fun _ => by simp (disch := decide) only [field_low, field_high, field_full, bit_low, bit_high, bit_ofBool, Nat.reduceSub]
theorem dsub (d a b : Opnd) : Statement (.dsub d a b) :=
  one rfl (rowOf_gang (n := 0x51) rfl (by simp (disch := decide) only [field_low, field_high, field_full, bit_low, bit_high, bit_ofBool, Nat.reduceSub]) (by decide)) rfl <| fun _ => by simp (disch := decide) only [field_low, field_high, field_full, bit_low, bit_high, bit_ofBool, Nat.reduceSub]
theorem dmul (d a b : Opnd) : Statement (.dmul d a b) :=
  one rfl (rowOf_gang (n := 0x52) rfl (by simp (disch := decide) only [field_low, field_high, field_full, bit_low, bit_high, bit_ofBool, Nat.reduceSub]) (by decide)) rfl <| fun _ => by simp (disch := decide) only [field_low, field_high, field_full, bit_low, bit_high, bit_ofBool, Nat.reduceSub]
theorem dfma (d a b : Opnd) : Statement (.dfma d a b) :=
  one rfl (rowOf_gang (n := 0x53) rfl (by simp (disch := decide) only [field_low, field_high, field_full, bit_low, bit_high, bit_ofBool, Nat.reduceSub]) (by decide)) rfl <| fun _ => by simp (disch := decide) only [field_low, field_high, field_full, bit_low, bit_high, bit_ofBool, Nat.reduceSub]
theorem dmin (d a b : Opnd) : Statement (.dmin d a b) :=
  one rfl (rowOf_gang (n := 0x54) rfl (by simp (disch := decide) only [field_low, field_high, field_full, bit_low, bit_high, bit_ofBool, Nat.reduceSub]) (by decide)) rfl <| fun _ => by simp (disch := decide) only [field_low, field_high, field_full, bit_low, bit_high, bit_ofBool, Nat.reduceSub]
theorem dmax (d a b : Opnd) : Statement (.dmax d a b) :=
  one rfl (rowOf_gang (n := 0x55) rfl (by simp (disch := decide) only [field_low, field_high, field_full, bit_low, bit_high, bit_ofBool, Nat.reduceSub]) (by decide)) rfl <| fun _ => by simp (disch := decide) only [field_low, field_high, field_full, bit_low, bit_high, bit_ofBool, Nat.reduceSub]
theorem ddiv (d a b : Opnd) : Statement (.ddiv d a b) :=
  one rfl (rowOf_gang (n := 0x56) rfl (by simp (disch := decide) only [field_low, field_high, field_full, bit_low, bit_high, bit_ofBool, Nat.reduceSub]) (by decide)) rfl <| fun _ => by simp (disch := decide) only [field_low, field_high, field_full, bit_low, bit_high, bit_ofBool, Nat.reduceSub]
theorem dsqrt (d a : Opnd) : Statement (.dsqrt d a) :=
  one rfl (rowOf_gang (n := 0x57) rfl (by simp (disch := decide) only [field_low, field_high, field_full, bit_low, bit_high, bit_ofBool, Nat.reduceSub]) (by decide)) rfl <| fun _ => by simp (disch := decide) only [need, field_low, field_high, field_full, bit_low, bit_high, bit_ofBool, Nat.reduceSub] <;> simp
theorem dcmpeq (d a b : Opnd) : Statement (.dcmpeq d a b) :=
  one rfl (rowOf_gang (n := 0x58) rfl (by simp (disch := decide) only [field_low, field_high, field_full, bit_low, bit_high, bit_ofBool, Nat.reduceSub]) (by decide)) rfl <| fun _ => by simp (disch := decide) only [field_low, field_high, field_full, bit_low, bit_high, bit_ofBool, Nat.reduceSub]
theorem dcmplt (d a b : Opnd) : Statement (.dcmplt d a b) :=
  one rfl (rowOf_gang (n := 0x59) rfl (by simp (disch := decide) only [field_low, field_high, field_full, bit_low, bit_high, bit_ofBool, Nat.reduceSub]) (by decide)) rfl <| fun _ => by simp (disch := decide) only [field_low, field_high, field_full, bit_low, bit_high, bit_ofBool, Nat.reduceSub]
theorem dcmple (d a b : Opnd) : Statement (.dcmple d a b) :=
  one rfl (rowOf_gang (n := 0x5A) rfl (by simp (disch := decide) only [field_low, field_high, field_full, bit_low, bit_high, bit_ofBool, Nat.reduceSub]) (by decide)) rfl <| fun _ => by simp (disch := decide) only [field_low, field_high, field_full, bit_low, bit_high, bit_ofBool, Nat.reduceSub]
theorem dcmpun (d a b : Opnd) : Statement (.dcmpun d a b) :=
  one rfl (rowOf_gang (n := 0x5B) rfl (by simp (disch := decide) only [field_low, field_high, field_full, bit_low, bit_high, bit_ofBool, Nat.reduceSub]) (by decide)) rfl <| fun _ => by simp (disch := decide) only [field_low, field_high, field_full, bit_low, bit_high, bit_ofBool, Nat.reduceSub]
theorem cvt (d a : Opnd) (dyn : Bool) (rnd : BitVec 2) (src dst : BitVec 4) : Statement (.cvt d a dyn rnd src dst) :=
  two rfl (rowOf_gang (n := 0x5C) rfl (by simp (disch := decide) only [field_low, field_high, field_full, bit_low, bit_high, bit_ofBool, Nat.reduceSub]) (by decide)) rfl <| fun hw => by simp [Instr.wf] at hw; simp (disch := decide) only [need, field_low, field_high, field_full, bit_low, bit_high, bit_ofBool, Nat.reduceSub]; simp [hw]
theorem pkln6 (d a b : Opnd) (j : BitVec 3) : Statement (.pkln6 d a b j) :=
  two rfl (rowOf_gang (n := 0x5D) rfl (by simp (disch := decide) only [field_low, field_high, field_full, bit_low, bit_high, bit_ofBool, Nat.reduceSub]) (by decide)) rfl <| fun _ => by simp (disch := decide) only [need, field_low, field_high, field_full, bit_low, bit_high, bit_ofBool, Nat.reduceSub] <;> simp
theorem upln6 (d a b : Opnd) (j : BitVec 3) : Statement (.upln6 d a b j) :=
  two rfl (rowOf_gang (n := 0x5E) rfl (by simp (disch := decide) only [field_low, field_high, field_full, bit_low, bit_high, bit_ofBool, Nat.reduceSub]) (by decide)) rfl <| fun _ => by simp (disch := decide) only [need, field_low, field_high, field_full, bit_low, bit_high, bit_ofBool, Nat.reduceSub] <;> simp
theorem frnd (d a : Opnd) (wide dyn : Bool) (rnd : BitVec 2) : Statement (.frnd d a wide dyn rnd) :=
  two rfl (rowOf_gang (n := 0x5F) rfl (by simp (disch := decide) only [field_low, field_high, field_full, bit_low, bit_high, bit_ofBool, Nat.reduceSub]) (by decide)) rfl <| fun hw => by simp (disch := decide) only [need, field_low, field_high, field_full, bit_low, bit_high, bit_ofBool, Nat.reduceSub]; rw [if_pos (by simpa [Instr.wf] using hw)]
theorem shfl (d a b : Opnd) (wide : Bool) (pv : BitVec 3) : Statement (.shfl d a b wide pv) :=
  two rfl (rowOf_gang (n := 0x60) rfl (by simp (disch := decide) only [field_low, field_high, field_full, bit_low, bit_high, bit_ofBool, Nat.reduceSub]) (by decide)) rfl <| fun _ => by simp (disch := decide) only [need, field_low, field_high, field_full, bit_low, bit_high, bit_ofBool, Nat.reduceSub] <;> simp
theorem shflup (d a b : Opnd) (wide : Bool) (pv : BitVec 3) : Statement (.shflup d a b wide pv) :=
  two rfl (rowOf_gang (n := 0x61) rfl (by simp (disch := decide) only [field_low, field_high, field_full, bit_low, bit_high, bit_ofBool, Nat.reduceSub]) (by decide)) rfl <| fun _ => by simp (disch := decide) only [need, field_low, field_high, field_full, bit_low, bit_high, bit_ofBool, Nat.reduceSub] <;> simp
theorem shfldn (d a b : Opnd) (wide : Bool) (pv : BitVec 3) : Statement (.shfldn d a b wide pv) :=
  two rfl (rowOf_gang (n := 0x62) rfl (by simp (disch := decide) only [field_low, field_high, field_full, bit_low, bit_high, bit_ofBool, Nat.reduceSub]) (by decide)) rfl <| fun _ => by simp (disch := decide) only [need, field_low, field_high, field_full, bit_low, bit_high, bit_ofBool, Nat.reduceSub] <;> simp
theorem shflx (d a b : Opnd) (wide : Bool) (pv : BitVec 3) : Statement (.shflx d a b wide pv) :=
  two rfl (rowOf_gang (n := 0x63) rfl (by simp (disch := decide) only [field_low, field_high, field_full, bit_low, bit_high, bit_ofBool, Nat.reduceSub]) (by decide)) rfl <| fun _ => by simp (disch := decide) only [need, field_low, field_high, field_full, bit_low, bit_high, bit_ofBool, Nat.reduceSub] <;> simp
theorem voteall (d a : Opnd) : Statement (.voteall d a) :=
  one rfl (rowOf_gang (n := 0x64) rfl (by simp (disch := decide) only [field_low, field_high, field_full, bit_low, bit_high, bit_ofBool, Nat.reduceSub]) (by decide)) rfl <| fun _ => by simp (disch := decide) only [need, field_low, field_high, field_full, bit_low, bit_high, bit_ofBool, Nat.reduceSub] <;> simp
theorem voteany (d a : Opnd) : Statement (.voteany d a) :=
  one rfl (rowOf_gang (n := 0x65) rfl (by simp (disch := decide) only [field_low, field_high, field_full, bit_low, bit_high, bit_ofBool, Nat.reduceSub]) (by decide)) rfl <| fun _ => by simp (disch := decide) only [need, field_low, field_high, field_full, bit_low, bit_high, bit_ofBool, Nat.reduceSub] <;> simp
theorem ballot (d a : Opnd) : Statement (.ballot d a) :=
  one rfl (rowOf_gang (n := 0x66) rfl (by simp (disch := decide) only [field_low, field_high, field_full, bit_low, bit_high, bit_ofBool, Nat.reduceSub]) (by decide)) rfl <| fun _ => by simp (disch := decide) only [need, field_low, field_high, field_full, bit_low, bit_high, bit_ofBool, Nat.reduceSub] <;> simp
theorem gred (d a : Opnd) (wide : Bool) (op : BitVec 4) : Statement (.gred d a wide op) :=
  two rfl (rowOf_gang (n := 0x67) rfl (by simp (disch := decide) only [field_low, field_high, field_full, bit_low, bit_high, bit_ofBool, Nat.reduceSub]) (by decide)) rfl <| fun hw => by simp (disch := decide) only [need, field_low, field_high, field_full, bit_low, bit_high, bit_ofBool, Nat.reduceSub] <;> simpa [Instr.wf] using hw
theorem gscan (d a : Opnd) (wide : Bool) (op : BitVec 4) : Statement (.gscan d a wide op) :=
  two rfl (rowOf_gang (n := 0x68) rfl (by simp (disch := decide) only [field_low, field_high, field_full, bit_low, bit_high, bit_ofBool, Nat.reduceSub]) (by decide)) rfl <| fun hw => by simp (disch := decide) only [need, field_low, field_high, field_full, bit_low, bit_high, bit_ofBool, Nat.reduceSub] <;> simpa [Instr.wf] using hw
theorem matchLanes (d a : Opnd) : Statement (.matchLanes d a) :=
  one rfl (rowOf_gang (n := 0x69) rfl (by simp (disch := decide) only [field_low, field_high, field_full, bit_low, bit_high, bit_ofBool, Nat.reduceSub]) (by decide)) rfl <| fun _ => by simp (disch := decide) only [need, field_low, field_high, field_full, bit_low, bit_high, bit_ofBool, Nat.reduceSub] <;> simp
theorem split (d : Opnd) (w : BitVec 8) : Statement (.split d w) :=
  one rfl (rowOf_gang (n := 0x6A) rfl (by simp (disch := decide) only [field_low, field_high, field_full, bit_low, bit_high, bit_ofBool, Nat.reduceSub]) (by decide)) rfl <| fun hw => by simp (disch := decide) only [need, field_low, field_high, field_full, bit_low, bit_high, bit_ofBool, Nat.reduceSub]; rw [if_pos (by simpa [Instr.wf] using hw)]
theorem fuse (d : Opnd) : Statement (.fuse d) :=
  one rfl (rowOf_gang (n := 0x6B) rfl (by simp (disch := decide) only [field_low, field_high, field_full, bit_low, bit_high, bit_ofBool, Nat.reduceSub]) (by decide)) rfl <| fun _ => by simp (disch := decide) only [need, field_low, field_high, field_full, bit_low, bit_high, bit_ofBool, Nat.reduceSub] <;> simp
theorem fusetmoExpiry (gang entry : Nat) : Statement (.fusetmoExpiry gang entry) := noWord rfl
theorem converge : Statement .converge :=
  one rfl (rowOf_gang (n := 0x6C) rfl (by simp (disch := decide) only [field_low, field_high, field_full, bit_low, bit_high, bit_ofBool, Nat.reduceSub]) (by decide)) rfl <| fun _ => rfl
theorem bra (disp : BitVec 24) : Statement (.bra disp) :=
  one rfl (rowOf_gang (n := 0x70) rfl (by simp (disch := decide) only [field_low, field_high, field_full, bit_low, bit_high, bit_ofBool, Nat.reduceSub]) (by decide)) rfl <| fun _ => by simp (disch := decide) only [field_low, field_high, field_full, bit_low, bit_high, bit_ofBool, Nat.reduceSub]
theorem brp (neg : Bool) (pred : BitVec 3) (disp : BitVec 20) : Statement (.brp neg pred disp) :=
  one rfl (rowOf_gang (n := 0x71) rfl (by simp (disch := decide) only [field_low, field_high, field_full, bit_low, bit_high, bit_ofBool, Nat.reduceSub]) (by decide)) rfl <| fun _ => by simp (disch := decide) only [field_low, field_high, field_full, bit_low, bit_high, bit_ofBool, Nat.reduceSub]
theorem bru (neg : Bool) (pred : BitVec 3) (disp : BitVec 20) : Statement (.bru neg pred disp) :=
  one rfl (rowOf_gang (n := 0x72) rfl (by simp (disch := decide) only [field_low, field_high, field_full, bit_low, bit_high, bit_ofBool, Nat.reduceSub]) (by decide)) rfl <| fun _ => by simp (disch := decide) only [field_low, field_high, field_full, bit_low, bit_high, bit_ofBool, Nat.reduceSub]
theorem brx (a : Opnd) : Statement (.brx a) :=
  one rfl (rowOf_gang (n := 0x73) rfl (by simp (disch := decide) only [field_low, field_high, field_full, bit_low, bit_high, bit_ofBool, Nat.reduceSub]) (by decide)) rfl <| fun _ => by simp (disch := decide) only [need, field_low, field_high, field_full, bit_low, bit_high, bit_ofBool, Nat.reduceSub] <;> simp
theorem call (disp : BitVec 24) : Statement (.call disp) :=
  one rfl (rowOf_gang (n := 0x74) rfl (by simp (disch := decide) only [field_low, field_high, field_full, bit_low, bit_high, bit_ofBool, Nat.reduceSub]) (by decide)) rfl <| fun _ => by simp (disch := decide) only [field_low, field_high, field_full, bit_low, bit_high, bit_ofBool, Nat.reduceSub]
theorem callx (d a : Opnd) : Statement (.callx d a) :=
  one rfl (rowOf_gang (n := 0x75) rfl (by simp (disch := decide) only [field_low, field_high, field_full, bit_low, bit_high, bit_ofBool, Nat.reduceSub]) (by decide)) rfl <| fun _ => by simp (disch := decide) only [need, field_low, field_high, field_full, bit_low, bit_high, bit_ofBool, Nat.reduceSub] <;> simp
theorem ret (a : Opnd) : Statement (.ret a) :=
  one rfl (rowOf_gang (n := 0x76) rfl (by simp (disch := decide) only [field_low, field_high, field_full, bit_low, bit_high, bit_ofBool, Nat.reduceSub]) (by decide)) rfl <| fun _ => by simp (disch := decide) only [need, field_low, field_high, field_full, bit_low, bit_high, bit_ofBool, Nat.reduceSub] <;> simp
theorem exit : Statement .exit :=
  one rfl (rowOf_gang (n := 0x77) rfl (by simp (disch := decide) only [field_low, field_high, field_full, bit_low, bit_high, bit_ofBool, Nat.reduceSub]) (by decide)) rfl <| fun _ => rfl
theorem gangEnd (gang : Nat) : Statement (.gangEnd gang) := noWord rfl
theorem trap (imm : BitVec 16) : Statement (.trap imm) :=
  one rfl (rowOf_gang (n := 0x78) rfl (by simp (disch := decide) only [field_low, field_high, field_full, bit_low, bit_high, bit_ofBool, Nat.reduceSub]) (by decide)) rfl <| fun _ => by simp (disch := decide) only [need, field_low, field_high, field_full, bit_low, bit_high, bit_ofBool, Nat.reduceSub] <;> simp
theorem rtt : Statement .rtt :=
  one rfl (rowOf_gang (n := 0x79) rfl (by simp (disch := decide) only [field_low, field_high, field_full, bit_low, bit_high, bit_ofBool, Nat.reduceSub]) (by decide)) rfl <| fun _ => rfl
theorem mcall (n : BitVec 8) (b : Opnd) (params : Word) : Statement (.mcall n b params) :=
  two rfl (rowOf_gang (n := 0x7A) rfl (by simp (disch := decide) only [field_low, field_high, field_full, bit_low, bit_high, bit_ofBool, Nat.reduceSub]) (by decide)) rfl <| fun _ => by simp (disch := decide) only [need, field_low, field_high, field_full, bit_low, bit_high, bit_ofBool, Nat.reduceSub] <;> simp
theorem fork (d a b : Opnd) (ctr : BitVec 4) : Statement (.fork d a b ctr) :=
  two rfl (rowOf_gang (n := 0x7B) rfl (by simp (disch := decide) only [field_low, field_high, field_full, bit_low, bit_high, bit_ofBool, Nat.reduceSub]) (by decide)) rfl <| fun _ => by simp (disch := decide) only [need, field_low, field_high, field_full, bit_low, bit_high, bit_ofBool, Nat.reduceSub] <;> simp
theorem joine (d : Opnd) (mode : BitVec 8) : Statement (.joine d mode) :=
  one rfl (rowOf_gang (n := 0x7C) rfl (by simp (disch := decide) only [field_low, field_high, field_full, bit_low, bit_high, bit_ofBool, Nat.reduceSub]) (by decide)) rfl <| fun hw => by simp (disch := decide) only [need, field_low, field_high, field_full, bit_low, bit_high, bit_ofBool, Nat.reduceSub] <;> simpa [Instr.wf] using hw
theorem doze (a : Opnd) : Statement (.doze a) :=
  one rfl (rowOf_gang (n := 0x7D) rfl (by simp (disch := decide) only [field_low, field_high, field_full, bit_low, bit_high, bit_ofBool, Nat.reduceSub]) (by decide)) rfl <| fun _ => by simp (disch := decide) only [need, field_low, field_high, field_full, bit_low, bit_high, bit_ofBool, Nat.reduceSub] <;> simp
theorem dozeWake (gang entry : Nat) : Statement (.dozeWake gang entry) := noWord rfl
theorem yield : Statement .yield :=
  one rfl (rowOf_gang (n := 0x7E) rfl (by simp (disch := decide) only [field_low, field_high, field_full, bit_low, bit_high, bit_ofBool, Nat.reduceSub]) (by decide)) rfl <| fun _ => rfl
theorem brk : Statement .brk :=
  one rfl (rowOf_gang (n := 0x7F) rfl (by simp (disch := decide) only [field_low, field_high, field_full, bit_low, bit_high, bit_ofBool, Nat.reduceSub]) (by decide)) rfl <| fun _ => rfl
theorem ldt (d a : Opnd) (ctr size : BitVec 4) : Statement (.ldt d a ctr size) :=
  one rfl (rowOf_gang (n := 0x80) rfl (by simp (disch := decide) only [field_low, field_high, field_full, bit_low, bit_high, bit_ofBool, Nat.reduceSub]) (by decide)) rfl <| fun hw => by simp (disch := decide) only [need, field_low, field_high, field_full, bit_low, bit_high, bit_ofBool, Nat.reduceSub] <;> simpa [Instr.wf] using hw
theorem stt (d a : Opnd) (ctr size : BitVec 4) : Statement (.stt d a ctr size) :=
  one rfl (rowOf_gang (n := 0x81) rfl (by simp (disch := decide) only [field_low, field_high, field_full, bit_low, bit_high, bit_ofBool, Nat.reduceSub]) (by decide)) rfl <| fun hw => by simp (disch := decide) only [need, field_low, field_high, field_full, bit_low, bit_high, bit_ofBool, Nat.reduceSub] <;> simpa [Instr.wf] using hw
theorem atomt (d a b : Opnd) (wide : Bool) (op ctr : BitVec 4) : Statement (.atomt d a b wide op ctr) :=
  two rfl (rowOf_gang (n := 0x82) rfl (by simp (disch := decide) only [field_low, field_high, field_full, bit_low, bit_high, bit_ofBool, Nat.reduceSub]) (by decide)) rfl <| fun hw => by simp (disch := decide) only [need, field_low, field_high, field_full, bit_low, bit_high, bit_ofBool, Nat.reduceSub] <;> simpa [Instr.wf] using hw
theorem ldsp (d a : Opnd) (ctr size : BitVec 4) : Statement (.ldsp d a ctr size) :=
  one rfl (rowOf_gang (n := 0x83) rfl (by simp (disch := decide) only [field_low, field_high, field_full, bit_low, bit_high, bit_ofBool, Nat.reduceSub]) (by decide)) rfl <| fun hw => by simp (disch := decide) only [need, field_low, field_high, field_full, bit_low, bit_high, bit_ofBool, Nat.reduceSub] <;> simpa [Instr.wf] using hw
theorem stsp (d a : Opnd) (ctr size : BitVec 4) : Statement (.stsp d a ctr size) :=
  one rfl (rowOf_gang (n := 0x84) rfl (by simp (disch := decide) only [field_low, field_high, field_full, bit_low, bit_high, bit_ofBool, Nat.reduceSub]) (by decide)) rfl <| fun hw => by simp (disch := decide) only [need, field_low, field_high, field_full, bit_low, bit_high, bit_ofBool, Nat.reduceSub] <;> simpa [Instr.wf] using hw
theorem ldp (d a : Opnd) (ctr size : BitVec 4) : Statement (.ldp d a ctr size) :=
  one rfl (rowOf_gang (n := 0x85) rfl (by simp (disch := decide) only [field_low, field_high, field_full, bit_low, bit_high, bit_ofBool, Nat.reduceSub]) (by decide)) rfl <| fun hw => by simp (disch := decide) only [need, field_low, field_high, field_full, bit_low, bit_high, bit_ofBool, Nat.reduceSub] <;> simpa [Instr.wf] using hw
theorem stp (d a : Opnd) (ctr size : BitVec 4) : Statement (.stp d a ctr size) :=
  one rfl (rowOf_gang (n := 0x86) rfl (by simp (disch := decide) only [field_low, field_high, field_full, bit_low, bit_high, bit_ofBool, Nat.reduceSub]) (by decide)) rfl <| fun hw => by simp (disch := decide) only [need, field_low, field_high, field_full, bit_low, bit_high, bit_ofBool, Nat.reduceSub] <;> simpa [Instr.wf] using hw
theorem ringrot (d a b : Opnd) (logs : BitVec 4) (logn : BitVec 5) (ctr : BitVec 4) : Statement (.ringrot d a b logs logn ctr) :=
  two rfl (rowOf_gang (n := 0x87) rfl (by simp (disch := decide) only [field_low, field_high, field_full, bit_low, bit_high, bit_ofBool, Nat.reduceSub]) (by decide)) rfl <| fun hw => by simp [Instr.wf] at hw; simp (disch := decide) only [need, field_low, field_high, field_full, bit_low, bit_high, bit_ofBool, Nat.reduceSub]; simp [hw]
theorem ldg (d a : Opnd) (ctr size : BitVec 4) (gx : MemGx) : Statement (.ldg d a ctr size gx) :=
  two rfl (rowOf_gang (n := 0x90) rfl (by simp (disch := decide) only [field_low, field_high, field_full, bit_low, bit_high, bit_ofBool, Nat.reduceSub]) (by decide)) rfl <| fun hw => by simp [Instr.wf] at hw; simp (disch := decide) only [need, memGx_encGx, gxOk_encGx, ord_encGx, field_low, field_high, field_full, bit_low, bit_high, bit_ofBool, Nat.reduceSub]; simp [hw]
theorem stg (d a : Opnd) (ctr size : BitVec 4) (gx : MemGx) : Statement (.stg d a ctr size gx) :=
  two rfl (rowOf_gang (n := 0x91) rfl (by simp (disch := decide) only [field_low, field_high, field_full, bit_low, bit_high, bit_ofBool, Nat.reduceSub]) (by decide)) rfl <| fun hw => by simp [Instr.wf] at hw; simp (disch := decide) only [need, memGx_encGx, gxOk_encGx, ord_encGx, field_low, field_high, field_full, bit_low, bit_high, bit_ofBool, Nat.reduceSub]; simp [hw]
theorem atomg (d a : Opnd) (ctr size : BitVec 4) (gx : MemGx) : Statement (.atomg d a ctr size gx) :=
  two rfl (rowOf_gang (n := 0x92) rfl (by simp (disch := decide) only [field_low, field_high, field_full, bit_low, bit_high, bit_ofBool, Nat.reduceSub]) (by decide)) rfl <| fun hw => by simp [Instr.wf, ord_lt_two] at hw; simp (disch := decide) only [need, memGx_encGx, gxOk_encGx, ord_encGx, low_encGx, field_low, field_high, field_full, bit_low, bit_high, bit_ofBool, Nat.reduceSub]; simp [hw]
theorem faddg (d a : Opnd) (ctr size : BitVec 4) (gx : MemGx) : Statement (.faddg d a ctr size gx) :=
  two rfl (rowOf_gang (n := 0x93) rfl (by simp (disch := decide) only [field_low, field_high, field_full, bit_low, bit_high, bit_ofBool, Nat.reduceSub]) (by decide)) rfl <| fun hw => by simp [Instr.wf, ord_lt_two] at hw; simp (disch := decide) only [need, memGx_encGx, gxOk_encGx, ord_encGx, low_encGx, field_low, field_high, field_full, bit_low, bit_high, bit_ofBool, Nat.reduceSub]; simp [hw]
theorem casg (d a : Opnd) (ctr size : BitVec 4) (gx : MemGx) : Statement (.casg d a ctr size gx) :=
  two rfl (rowOf_gang (n := 0x94) rfl (by simp (disch := decide) only [field_low, field_high, field_full, bit_low, bit_high, bit_ofBool, Nat.reduceSub]) (by decide)) rfl <| fun hw => by simp [Instr.wf, ord_lt_two] at hw; simp (disch := decide) only [need, memGx_encGx, gxOk_encGx, ord_encGx, low_encGx, field_low, field_high, field_full, bit_low, bit_high, bit_ofBool, Nat.reduceSub]; simp [hw]
theorem prefg (a : Opnd) (ctr size : BitVec 4) (gx : MemGx) : Statement (.prefg a ctr size gx) :=
  two rfl (rowOf_gang (n := 0x95) rfl (by simp (disch := decide) only [field_low, field_high, field_full, bit_low, bit_high, bit_ofBool, Nat.reduceSub]) (by decide)) rfl <| fun hw => by simp [Instr.wf] at hw; simp (disch := decide) only [need, memGx_encGx, gxOk_encGx, ord_encGx, field_low, field_high, field_full, bit_low, bit_high, bit_ofBool, Nat.reduceSub]; simp [hw]
theorem accessComplete (op : Nat) : Statement (.accessComplete op) := noWord rfl
theorem waitc (ctr : BitVec 4) (n : BitVec 8) : Statement (.waitc ctr n) :=
  one rfl (rowOf_gang (n := 0x96) rfl (by simp (disch := decide) only [field_low, field_high, field_full, bit_low, bit_high, bit_ofBool, Nat.reduceSub]) (by decide)) rfl <| fun _ => by simp (disch := decide) only [need, field_cat4, field_cat2, field_cat1, field_low, field_high, field_full, bit_low, bit_high, bit_ofBool, Nat.reduceSub]; simp [nibble_lt, flag_lt, pair_lt]
theorem fence (scope : BitVec 2) : Statement (.fence scope) :=
  one rfl (rowOf_gang (n := 0x97) rfl (by simp (disch := decide) only [field_low, field_high, field_full, bit_low, bit_high, bit_ofBool, Nat.reduceSub]) (by decide)) rfl <| fun _ => by simp (disch := decide) only [need, field_cat4, field_cat2, field_cat1, field_low, field_high, field_full, bit_low, bit_high, bit_ofBool, Nat.reduceSub]; simp [nibble_lt, flag_lt, pair_lt]
theorem acq (d a : Opnd) (ctr : BitVec 4) (gx : MemGx) : Statement (.acq d a ctr gx) :=
  two rfl (rowOf_gang (n := 0x98) rfl (by simp (disch := decide) only [field_low, field_high, field_full, bit_low, bit_high, bit_ofBool, Nat.reduceSub]) (by decide)) rfl <| fun hw => by simp [Instr.wf] at hw; simp (disch := decide) only [need, memGx_encGx, gxOk_encGx, ord_encGx, field_low, field_high, field_full, bit_low, bit_high, bit_ofBool, Nat.reduceSub]; simp [hw]
theorem rel (d a : Opnd) (ctr : BitVec 4) (gx : MemGx) : Statement (.rel d a ctr gx) :=
  two rfl (rowOf_gang (n := 0x99) rfl (by simp (disch := decide) only [field_low, field_high, field_full, bit_low, bit_high, bit_ofBool, Nat.reduceSub]) (by decide)) rfl <| fun hw => by simp [Instr.wf] at hw; simp (disch := decide) only [need, memGx_encGx, gxOk_encGx, ord_encGx, field_low, field_high, field_full, bit_low, bit_high, bit_ofBool, Nat.reduceSub]; simp [hw]
theorem bind (d a b : Opnd) (scope : BitVec 2) : Statement (.bind d a b scope) :=
  two rfl (rowOf_gang (n := 0x9A) rfl (by simp (disch := decide) only [field_low, field_high, field_full, bit_low, bit_high, bit_ofBool, Nat.reduceSub]) (by decide)) rfl <| fun _ => by simp (disch := decide) only [need, field_low, field_high, field_full, bit_low, bit_high, bit_ofBool, Nat.reduceSub] <;> simp
theorem unbind (a : Opnd) : Statement (.unbind a) :=
  one rfl (rowOf_gang (n := 0x9B) rfl (by simp (disch := decide) only [field_low, field_high, field_full, bit_low, bit_high, bit_ofBool, Nat.reduceSub]) (by decide)) rfl <| fun _ => by simp (disch := decide) only [need, field_low, field_high, field_full, bit_low, bit_high, bit_ofBool, Nat.reduceSub] <;> simp
theorem tokacq (d a : Opnd) (ex : Bool) (ctr : BitVec 4) : Statement (.tokacq d a ex ctr) :=
  two rfl (rowOf_gang (n := 0x9C) rfl (by simp (disch := decide) only [field_low, field_high, field_full, bit_low, bit_high, bit_ofBool, Nat.reduceSub]) (by decide)) rfl <| fun _ => by simp (disch := decide) only [need, field_low, field_high, field_full, bit_low, bit_high, bit_ofBool, Nat.reduceSub] <;> simp
theorem tokrel (d a : Opnd) : Statement (.tokrel d a) :=
  one rfl (rowOf_gang (n := 0x9D) rfl (by simp (disch := decide) only [field_low, field_high, field_full, bit_low, bit_high, bit_ofBool, Nat.reduceSub]) (by decide)) rfl <| fun _ => by simp (disch := decide) only [need, field_low, field_high, field_full, bit_low, bit_high, bit_ofBool, Nat.reduceSub] <;> simp
theorem tokqry (d a : Opnd) : Statement (.tokqry d a) :=
  one rfl (rowOf_gang (n := 0x9E) rfl (by simp (disch := decide) only [field_low, field_high, field_full, bit_low, bit_high, bit_ofBool, Nat.reduceSub]) (by decide)) rfl <| fun _ => by simp (disch := decide) only [need, field_low, field_high, field_full, bit_low, bit_high, bit_ofBool, Nat.reduceSub] <;> simp
theorem coll (d a b : Opnd) (sock ctr : BitVec 4) : Statement (.coll d a b sock ctr) :=
  two rfl (rowOf_gang (n := 0x9F) rfl (by simp (disch := decide) only [field_low, field_high, field_full, bit_low, bit_high, bit_ofBool, Nat.reduceSub]) (by decide)) rfl <| fun _ => by simp (disch := decide) only [need, field_low, field_high, field_full, bit_low, bit_high, bit_ofBool, Nat.reduceSub] <;> simp
theorem bar (k : BitVec 4) (pub : Bool) (n4 : BitVec 8) : Statement (.bar k pub n4) :=
  one rfl (rowOf_gang (n := 0xA0) rfl (by simp (disch := decide) only [field_low, field_high, field_full, bit_low, bit_high, bit_ofBool, Nat.reduceSub]) (by decide)) rfl <| fun _ => by simp (disch := decide) only [need, field_cat4, field_cat2, field_cat1, field_low, field_high, field_full, bit_low, bit_high, bit_ofBool, Nat.reduceSub]; simp [nibble_lt, flag_lt, pair_lt]
theorem bararv (k : BitVec 4) (pub : Bool) (n4 : BitVec 8) : Statement (.bararv k pub n4) :=
  one rfl (rowOf_gang (n := 0xA1) rfl (by simp (disch := decide) only [field_low, field_high, field_full, bit_low, bit_high, bit_ofBool, Nat.reduceSub]) (by decide)) rfl <| fun _ => by simp (disch := decide) only [need, field_cat4, field_cat2, field_cat1, field_low, field_high, field_full, bit_low, bit_high, bit_ofBool, Nat.reduceSub]; simp [nibble_lt, flag_lt, pair_lt]
theorem barwt (k : BitVec 4) : Statement (.barwt k) :=
  one rfl (rowOf_gang (n := 0xA2) rfl (by simp (disch := decide) only [field_low, field_high, field_full, bit_low, bit_high, bit_ofBool, Nat.reduceSub]) (by decide)) rfl <| fun _ => by simp (disch := decide) only [need, field_cat4, field_cat2, field_cat1, field_low, field_high, field_full, bit_low, bit_high, bit_ofBool, Nat.reduceSub]; simp [nibble_lt, flag_lt, pair_lt]
theorem mbinit (d a : Opnd) (ctr : BitVec 4) : Statement (.mbinit d a ctr) :=
  one rfl (rowOf_gang (n := 0xA3) rfl (by simp (disch := decide) only [field_low, field_high, field_full, bit_low, bit_high, bit_ofBool, Nat.reduceSub]) (by decide)) rfl <| fun _ => by simp (disch := decide) only [need, field_low, field_high, field_full, bit_low, bit_high, bit_ofBool, Nat.reduceSub] <;> simp
theorem mbarv (d a : Opnd) (ctr : BitVec 4) : Statement (.mbarv d a ctr) :=
  one rfl (rowOf_gang (n := 0xA4) rfl (by simp (disch := decide) only [field_low, field_high, field_full, bit_low, bit_high, bit_ofBool, Nat.reduceSub]) (by decide)) rfl <| fun _ => by simp (disch := decide) only [need, field_low, field_high, field_full, bit_low, bit_high, bit_ofBool, Nat.reduceSub] <;> simp
theorem mbwait (d a : Opnd) : Statement (.mbwait d a) :=
  one rfl (rowOf_gang (n := 0xA5) rfl (by simp (disch := decide) only [field_low, field_high, field_full, bit_low, bit_high, bit_ofBool, Nat.reduceSub]) (by decide)) rfl <| fun _ => by simp (disch := decide) only [need, field_low, field_high, field_full, bit_low, bit_high, bit_ofBool, Nat.reduceSub] <;> simp
theorem bseal (d : Opnd) : Statement (.bseal d) :=
  one rfl (rowOf_gang (n := 0xA6) rfl (by simp (disch := decide) only [field_low, field_high, field_full, bit_low, bit_high, bit_ofBool, Nat.reduceSub]) (by decide)) rfl <| fun _ => by simp (disch := decide) only [need, field_low, field_high, field_full, bit_low, bit_high, bit_ofBool, Nat.reduceSub] <;> simp
theorem bwait (d : Opnd) (imm : BitVec 16) : Statement (.bwait d imm) :=
  one rfl (rowOf_gang (n := 0xA7) rfl (by simp (disch := decide) only [field_low, field_high, field_full, bit_low, bit_high, bit_ofBool, Nat.reduceSub]) (by decide)) rfl <| fun _ => by simp (disch := decide) only [field_low, field_high, field_full, bit_low, bit_high, bit_ofBool, Nat.reduceSub]
theorem clbar (pub : Bool) : Statement (.clbar pub) :=
  one rfl (rowOf_gang (n := 0xA8) rfl (by simp (disch := decide) only [field_low, field_high, field_full, bit_low, bit_high, bit_ofBool, Nat.reduceSub]) (by decide)) rfl <| fun _ => by simp (disch := decide) only [need, field_cat4, field_cat2, field_cat1, field_low, field_high, field_full, bit_low, bit_high, bit_ofBool, Nat.reduceSub]; simp [nibble_lt, flag_lt, pair_lt]
theorem signal (a b : Opnd) : Statement (.signal a b) :=
  one rfl (rowOf_gang (n := 0xA9) rfl (by simp (disch := decide) only [field_low, field_high, field_full, bit_low, bit_high, bit_ofBool, Nat.reduceSub]) (by decide)) rfl <| fun _ => by simp (disch := decide) only [need, field_low, field_high, field_full, bit_low, bit_high, bit_ofBool, Nat.reduceSub] <;> simp
theorem shbegin (vbase : Opnd) (n : BitVec 8) : Statement (.shbegin vbase n) :=
  one rfl (rowOf_gang (n := 0xB0) rfl (by simp (disch := decide) only [field_low, field_high, field_full, bit_low, bit_high, bit_ofBool, Nat.reduceSub]) (by decide)) rfl <| fun _ => by simp (disch := decide) only [need, field_low, field_high, field_full, bit_low, bit_high, bit_ofBool, Nat.reduceSub] <;> simp
theorem accept (d a b : Opnd) (natural : Bool) : Statement (.accept d a b natural) :=
  two rfl (rowOf_gang (n := 0xB1) rfl (by simp (disch := decide) only [field_low, field_high, field_full, bit_low, bit_high, bit_ofBool, Nat.reduceSub]) (by decide)) rfl <| fun _ => by simp (disch := decide) only [need, field_low, field_high, field_full, bit_low, bit_high, bit_ofBool, Nat.reduceSub] <;> simp
theorem shabort : Statement .shabort :=
  one rfl (rowOf_gang (n := 0xB2) rfl (by simp (disch := decide) only [field_low, field_high, field_full, bit_low, bit_high, bit_ofBool, Nat.reduceSub]) (by decide)) rfl <| fun _ => rfl
theorem shread (d a : Opnd) : Statement (.shread d a) :=
  one rfl (rowOf_gang (n := 0xB3) rfl (by simp (disch := decide) only [field_low, field_high, field_full, bit_low, bit_high, bit_ofBool, Nat.reduceSub]) (by decide)) rfl <| fun _ => by simp (disch := decide) only [need, field_low, field_high, field_full, bit_low, bit_high, bit_ofBool, Nat.reduceSub] <;> simp
theorem rand (d : Opnd) : Statement (.rand d) :=
  one rfl (rowOf_gang (n := 0xB4) rfl (by simp (disch := decide) only [field_low, field_high, field_full, bit_low, bit_high, bit_ofBool, Nat.reduceSub]) (by decide)) rfl <| fun _ => by simp (disch := decide) only [need, field_low, field_high, field_full, bit_low, bit_high, bit_ofBool, Nat.reduceSub] <;> simp
theorem rseed (a : Opnd) : Statement (.rseed a) :=
  one rfl (rowOf_gang (n := 0xB5) rfl (by simp (disch := decide) only [field_low, field_high, field_full, bit_low, bit_high, bit_ofBool, Nat.reduceSub]) (by decide)) rfl <| fun _ => by simp (disch := decide) only [need, field_low, field_high, field_full, bit_low, bit_high, bit_ofBool, Nat.reduceSub] <;> simp
theorem accrd (d : Opnd) : Statement (.accrd d) :=
  one rfl (rowOf_gang (n := 0xB6) rfl (by simp (disch := decide) only [field_low, field_high, field_full, bit_low, bit_high, bit_ofBool, Nat.reduceSub]) (by decide)) rfl <| fun _ => by simp (disch := decide) only [need, field_low, field_high, field_full, bit_low, bit_high, bit_ofBool, Nat.reduceSub] <;> simp
theorem accclr : Statement .accclr :=
  one rfl (rowOf_gang (n := 0xB7) rfl (by simp (disch := decide) only [field_low, field_high, field_full, bit_low, bit_high, bit_ofBool, Nat.reduceSub]) (by decide)) rfl <| fun _ => rfl
theorem time (d : Opnd) : Statement (.time d) :=
  one rfl (rowOf_gang (n := 0xB8) rfl (by simp (disch := decide) only [field_low, field_high, field_full, bit_low, bit_high, bit_ofBool, Nat.reduceSub]) (by decide)) rfl <| fun _ => by simp (disch := decide) only [need, field_low, field_high, field_full, bit_low, bit_high, bit_ofBool, Nat.reduceSub] <;> simp
theorem trace (a : Opnd) (tag : BitVec 16) : Statement (.trace a tag) :=
  two rfl (rowOf_gang (n := 0xB9) rfl (by simp (disch := decide) only [field_low, field_high, field_full, bit_low, bit_high, bit_ofBool, Nat.reduceSub]) (by decide)) rfl <| fun _ => by simp (disch := decide) only [need, field_low, field_high, field_full, bit_low, bit_high, bit_ofBool, Nat.reduceSub] <;> simp
theorem cycle (d : Opnd) : Statement (.cycle d) :=
  one rfl (rowOf_gang (n := 0xBA) rfl (by simp (disch := decide) only [field_low, field_high, field_full, bit_low, bit_high, bit_ofBool, Nat.reduceSub]) (by decide)) rfl <| fun _ => by simp (disch := decide) only [need, field_low, field_high, field_full, bit_low, bit_high, bit_ofBool, Nat.reduceSub] <;> simp
theorem xsave (a : Opnd) : Statement (.xsave a) :=
  one rfl (rowOf_gang (n := 0xC0) rfl (by simp (disch := decide) only [field_low, field_high, field_full, bit_low, bit_high, bit_ofBool, Nat.reduceSub]) (by decide)) rfl <| fun _ => by simp (disch := decide) only [need, field_low, field_high, field_full, bit_low, bit_high, bit_ofBool, Nat.reduceSub] <;> simp
theorem xrstr (a : Opnd) : Statement (.xrstr a) :=
  one rfl (rowOf_gang (n := 0xC1) rfl (by simp (disch := decide) only [field_low, field_high, field_full, bit_low, bit_high, bit_ofBool, Nat.reduceSub]) (by decide)) rfl <| fun _ => by simp (disch := decide) only [need, field_low, field_high, field_full, bit_low, bit_high, bit_ofBool, Nat.reduceSub] <;> simp
theorem splrd (d a : Opnd) : Statement (.splrd d a) :=
  one rfl (rowOf_gang (n := 0xC2) rfl (by simp (disch := decide) only [field_low, field_high, field_full, bit_low, bit_high, bit_ofBool, Nat.reduceSub]) (by decide)) rfl <| fun _ => by simp (disch := decide) only [need, field_low, field_high, field_full, bit_low, bit_high, bit_ofBool, Nat.reduceSub] <;> simp
theorem splwr (a b : Opnd) : Statement (.splwr a b) :=
  one rfl (rowOf_gang (n := 0xC3) rfl (by simp (disch := decide) only [field_low, field_high, field_full, bit_low, bit_high, bit_ofBool, Nat.reduceSub]) (by decide)) rfl <| fun _ => by simp (disch := decide) only [need, field_low, field_high, field_full, bit_low, bit_high, bit_ofBool, Nat.reduceSub] <;> simp
theorem replv (a : Opnd) : Statement (.replv a) :=
  one rfl (rowOf_gang (n := 0xC4) rfl (by simp (disch := decide) only [field_low, field_high, field_full, bit_low, bit_high, bit_ofBool, Nat.reduceSub]) (by decide)) rfl <| fun _ => by simp (disch := decide) only [need, field_low, field_high, field_full, bit_low, bit_high, bit_ofBool, Nat.reduceSub] <;> simp
theorem tlbinv (a b : Opnd) : Statement (.tlbinv a b) :=
  one rfl (rowOf_gang (n := 0xC5) rfl (by simp (disch := decide) only [field_low, field_high, field_full, bit_low, bit_high, bit_ofBool, Nat.reduceSub]) (by decide)) rfl <| fun _ => by simp (disch := decide) only [need, field_low, field_high, field_full, bit_low, bit_high, bit_ofBool, Nat.reduceSub] <;> simp
theorem shsave (a : Opnd) : Statement (.shsave a) :=
  one rfl (rowOf_gang (n := 0xC6) rfl (by simp (disch := decide) only [field_low, field_high, field_full, bit_low, bit_high, bit_ofBool, Nat.reduceSub]) (by decide)) rfl <| fun _ => by simp (disch := decide) only [need, field_low, field_high, field_full, bit_low, bit_high, bit_ofBool, Nat.reduceSub] <;> simp
theorem shrstr (a : Opnd) : Statement (.shrstr a) :=
  one rfl (rowOf_gang (n := 0xC7) rfl (by simp (disch := decide) only [field_low, field_high, field_full, bit_low, bit_high, bit_ofBool, Nat.reduceSub]) (by decide)) rfl <| fun _ => by simp (disch := decide) only [need, field_low, field_high, field_full, bit_low, bit_high, bit_ofBool, Nat.reduceSub] <;> simp
theorem mstore (a b : Opnd) : Statement (.mstore a b) :=
  one rfl (rowOf_gang (n := 0xC8) rfl (by simp (disch := decide) only [field_low, field_high, field_full, bit_low, bit_high, bit_ofBool, Nat.reduceSub]) (by decide)) rfl <| fun _ => by simp (disch := decide) only [need, field_low, field_high, field_full, bit_low, bit_high, bit_ofBool, Nat.reduceSub] <;> simp
theorem drainlimExpiry (ctx : Nat) : Statement (.drainlimExpiry ctx) := noWord rfl
theorem preemptEntry (gang : Nat) : Statement (.preemptEntry gang) := noWord rfl
theorem forcedSaveHeldTimeout (ctx : Nat) : Statement (.forcedSaveHeldTimeout ctx) := noWord rfl
theorem handlerRttTimeout (ctx : Nat) : Statement (.handlerRttTimeout ctx) := noWord rfl
theorem tmma (acc tile bsrc : BitVec 4) (f : Opnd) (ctr : BitVec 4) (mode : BitVec 2) : Statement (.tmma acc tile bsrc f ctr mode) :=
  one rfl (rowOf_matrix (n := 0x01) rfl (by simp (disch := decide) only [field_low, field_high, field_full, bit_low, bit_high, bit_ofBool, Nat.reduceSub]) (by decide)) rfl <| fun hw => by simp (disch := decide) only [need, field_low, field_high, field_full, bit_low, bit_high, bit_ofBool, Nat.reduceSub] <;> simpa [Instr.wf] using hw
theorem tgmma (acc tile bsrc : BitVec 4) (f : Opnd) (ctr : BitVec 4) (mode : BitVec 2) : Statement (.tgmma acc tile bsrc f ctr mode) :=
  one rfl (rowOf_matrix (n := 0x02) rfl (by simp (disch := decide) only [field_low, field_high, field_full, bit_low, bit_high, bit_ofBool, Nat.reduceSub]) (by decide)) rfl <| fun hw => by simp (disch := decide) only [need, field_low, field_high, field_full, bit_low, bit_high, bit_ofBool, Nat.reduceSub] <;> simpa [Instr.wf] using hw
theorem tzero (acc ctr : BitVec 4) : Statement (.tzero acc ctr) :=
  one rfl (rowOf_matrix (n := 0x03) rfl (by simp (disch := decide) only [field_low, field_high, field_full, bit_low, bit_high, bit_ofBool, Nat.reduceSub]) (by decide)) rfl <| fun _ => by simp (disch := decide) only [need, field_low, field_high, field_full, bit_low, bit_high, bit_ofBool, Nat.reduceSub] <;> simp
theorem tld (tile bsrc ctr : BitVec 4) (mode : BitVec 2) : Statement (.tld tile bsrc ctr mode) :=
  one rfl (rowOf_matrix (n := 0x04) rfl (by simp (disch := decide) only [field_low, field_high, field_full, bit_low, bit_high, bit_ofBool, Nat.reduceSub]) (by decide)) rfl <| fun hw => by simp (disch := decide) only [need, field_low, field_high, field_full, bit_low, bit_high, bit_ofBool, Nat.reduceSub] <;> simpa [Instr.wf] using hw
theorem tst (tile bsrc ctr : BitVec 4) (mode : BitVec 2) : Statement (.tst tile bsrc ctr mode) :=
  one rfl (rowOf_matrix (n := 0x05) rfl (by simp (disch := decide) only [field_low, field_high, field_full, bit_low, bit_high, bit_ofBool, Nat.reduceSub]) (by decide)) rfl <| fun hw => by simp (disch := decide) only [need, field_low, field_high, field_full, bit_low, bit_high, bit_ofBool, Nat.reduceSub] <;> simpa [Instr.wf] using hw
theorem accst (acc bsrc ctr : BitVec 4) (mode : BitVec 2) : Statement (.accst acc bsrc ctr mode) :=
  one rfl (rowOf_matrix (n := 0x06) rfl (by simp (disch := decide) only [field_low, field_high, field_full, bit_low, bit_high, bit_ofBool, Nat.reduceSub]) (by decide)) rfl <| fun hw => by simp (disch := decide) only [need, field_low, field_high, field_full, bit_low, bit_high, bit_ofBool, Nat.reduceSub] <;> simpa [Instr.wf] using hw
theorem accld (acc bsrc ctr : BitVec 4) (mode : BitVec 2) : Statement (.accld acc bsrc ctr mode) :=
  one rfl (rowOf_matrix (n := 0x07) rfl (by simp (disch := decide) only [field_low, field_high, field_full, bit_low, bit_high, bit_ofBool, Nat.reduceSub]) (by decide)) rfl <| fun hw => by simp (disch := decide) only [need, field_low, field_high, field_full, bit_low, bit_high, bit_ofBool, Nat.reduceSub] <;> simpa [Instr.wf] using hw
theorem tamax (acc bsrc ctr : BitVec 4) (mode : BitVec 2) : Statement (.tamax acc bsrc ctr mode) :=
  one rfl (rowOf_matrix (n := 0x08) rfl (by simp (disch := decide) only [field_low, field_high, field_full, bit_low, bit_high, bit_ofBool, Nat.reduceSub]) (by decide)) rfl <| fun hw => by simp (disch := decide) only [need, field_low, field_high, field_full, bit_low, bit_high, bit_ofBool, Nat.reduceSub] <;> simpa [Instr.wf] using hw
theorem ttrans (bsrc : BitVec 4) (f : Opnd) (ctr : BitVec 4) : Statement (.ttrans bsrc f ctr) :=
  one rfl (rowOf_matrix (n := 0x09) rfl (by simp (disch := decide) only [field_low, field_high, field_full, bit_low, bit_high, bit_ofBool, Nat.reduceSub]) (by decide)) rfl <| fun hw => by simp (disch := decide) only [need, field_low, field_high, field_full, bit_low, bit_high, bit_ofBool, Nat.reduceSub] <;> simpa [Instr.wf] using hw
theorem tbmap (bsrc : BitVec 4) (f : Opnd) (ctr : BitVec 4) : Statement (.tbmap bsrc f ctr) :=
  one rfl (rowOf_matrix (n := 0x0A) rfl (by simp (disch := decide) only [field_low, field_high, field_full, bit_low, bit_high, bit_ofBool, Nat.reduceSub]) (by decide)) rfl <| fun hw => by simp (disch := decide) only [need, field_low, field_high, field_full, bit_low, bit_high, bit_ofBool, Nat.reduceSub] <;> simpa [Instr.wf] using hw
theorem strdef (f : Opnd) (ctr : BitVec 4) : Statement (.strdef f ctr) :=
  one rfl (rowOf_matrix (n := 0x0B) rfl (by simp (disch := decide) only [field_low, field_high, field_full, bit_low, bit_high, bit_ofBool, Nat.reduceSub]) (by decide)) rfl <| fun _ => by simp (disch := decide) only [need, field_low, field_high, field_full, bit_low, bit_high, bit_ofBool, Nat.reduceSub] <;> simp
theorem strsub (bsrc : BitVec 4) (f : Opnd) (ctr : BitVec 4) : Statement (.strsub bsrc f ctr) :=
  one rfl (rowOf_matrix (n := 0x0C) rfl (by simp (disch := decide) only [field_low, field_high, field_full, bit_low, bit_high, bit_ofBool, Nat.reduceSub]) (by decide)) rfl <| fun hw => by simp (disch := decide) only [need, field_low, field_high, field_full, bit_low, bit_high, bit_ofBool, Nat.reduceSub] <;> simpa [Instr.wf] using hw
theorem stradv (bsrc ctr : BitVec 4) : Statement (.stradv bsrc ctr) :=
  one rfl (rowOf_matrix (n := 0x0D) rfl (by simp (disch := decide) only [field_low, field_high, field_full, bit_low, bit_high, bit_ofBool, Nat.reduceSub]) (by decide)) rfl <| fun hw => by simp (disch := decide) only [need, field_low, field_high, field_full, bit_low, bit_high, bit_ofBool, Nat.reduceSub] <;> simpa [Instr.wf] using hw
theorem strunsub (bsrc ctr : BitVec 4) : Statement (.strunsub bsrc ctr) :=
  one rfl (rowOf_matrix (n := 0x0E) rfl (by simp (disch := decide) only [field_low, field_high, field_full, bit_low, bit_high, bit_ofBool, Nat.reduceSub]) (by decide)) rfl <| fun hw => by simp (disch := decide) only [need, field_low, field_high, field_full, bit_low, bit_high, bit_ofBool, Nat.reduceSub] <;> simpa [Instr.wf] using hw
theorem mloop : Statement .mloop :=
  one rfl (rowOf_matrix (n := 0x0F) rfl (by simp (disch := decide) only [field_low, field_high, field_full, bit_low, bit_high, bit_ofBool, Nat.reduceSub]) (by decide)) rfl <| fun _ => rfl
theorem mend : Statement .mend :=
  one rfl (rowOf_matrix (n := 0x10) rfl (by simp (disch := decide) only [field_low, field_high, field_full, bit_low, bit_high, bit_ofBool, Nat.reduceSub]) (by decide)) rfl <| fun _ => rfl
theorem mresume (f : Opnd) (ctr : BitVec 4) : Statement (.mresume f ctr) :=
  one rfl (rowOf_matrix (n := 0x11) rfl (by simp (disch := decide) only [field_low, field_high, field_full, bit_low, bit_high, bit_ofBool, Nat.reduceSub]) (by decide)) rfl <| fun _ => by simp (disch := decide) only [need, field_low, field_high, field_full, bit_low, bit_high, bit_ofBool, Nat.reduceSub] <;> simp
theorem msave (f : Opnd) (ctr : BitVec 4) (release : Bool) : Statement (.msave f ctr release) :=
  one rfl (rowOf_matrix (n := 0x12) rfl (by simp (disch := decide) only [field_low, field_high, field_full, bit_low, bit_high, bit_ofBool, Nat.reduceSub]) (by decide)) rfl <| fun _ => by simp (disch := decide) only [need, field_low, field_high, field_full, bit_low, bit_high, bit_ofBool, Nat.reduceSub] <;> simp
theorem quarterOpComplete (op : Nat) : Statement (.quarterOpComplete op) := noWord rfl
theorem tileStep (core : Nat) : Statement (.tileStep core) := noWord rfl
theorem matrixHang (core : Nat) : Statement (.matrixHang core) := noWord rfl
theorem prismTileWrite (team handle : Nat) : Statement (.prismTileWrite team handle) := noWord rfl
theorem copy (d a : Opnd) (ctr : BitVec 4) (sealed : Bool) : Statement (.copy d a ctr sealed) :=
  one rfl (rowOf_copy (n := 0x01) rfl (by simp (disch := decide) only [field_low, field_high, field_full, bit_low, bit_high, bit_ofBool, Nat.reduceSub]) (by decide)) rfl <| fun _ => by simp (disch := decide) only [need, field_low, field_high, field_full, bit_low, bit_high, bit_ofBool, Nat.reduceSub] <;> simp
theorem copyt (d a : Opnd) (ctr : BitVec 4) (sealed : Bool) : Statement (.copyt d a ctr sealed) :=
  one rfl (rowOf_copy (n := 0x02) rfl (by simp (disch := decide) only [field_low, field_high, field_full, bit_low, bit_high, bit_ofBool, Nat.reduceSub]) (by decide)) rfl <| fun _ => by simp (disch := decide) only [need, field_low, field_high, field_full, bit_low, bit_high, bit_ofBool, Nat.reduceSub] <;> simp
theorem copyg (d a : Opnd) (ctr : BitVec 4) (sealed : Bool) : Statement (.copyg d a ctr sealed) :=
  one rfl (rowOf_copy (n := 0x03) rfl (by simp (disch := decide) only [field_low, field_high, field_full, bit_low, bit_high, bit_ofBool, Nat.reduceSub]) (by decide)) rfl <| fun _ => by simp (disch := decide) only [need, field_low, field_high, field_full, bit_low, bit_high, bit_ofBool, Nat.reduceSub] <;> simp
theorem copys (d a : Opnd) (ctr : BitVec 4) (sealed : Bool) : Statement (.copys d a ctr sealed) :=
  one rfl (rowOf_copy (n := 0x04) rfl (by simp (disch := decide) only [field_low, field_high, field_full, bit_low, bit_high, bit_ofBool, Nat.reduceSub]) (by decide)) rfl <| fun _ => by simp (disch := decide) only [need, field_low, field_high, field_full, bit_low, bit_high, bit_ofBool, Nat.reduceSub] <;> simp
theorem copym (d a : Opnd) (ctr : BitVec 4) (sealed : Bool) : Statement (.copym d a ctr sealed) :=
  one rfl (rowOf_copy (n := 0x05) rfl (by simp (disch := decide) only [field_low, field_high, field_full, bit_low, bit_high, bit_ofBool, Nat.reduceSub]) (by decide)) rfl <| fun _ => by simp (disch := decide) only [need, field_low, field_high, field_full, bit_low, bit_high, bit_ofBool, Nat.reduceSub] <;> simp
theorem copyn (d a : Opnd) (ctr : BitVec 4) (sealed : Bool) : Statement (.copyn d a ctr sealed) :=
  one rfl (rowOf_copy (n := 0x06) rfl (by simp (disch := decide) only [field_low, field_high, field_full, bit_low, bit_high, bit_ofBool, Nat.reduceSub]) (by decide)) rfl <| fun _ => by simp (disch := decide) only [need, field_low, field_high, field_full, bit_low, bit_high, bit_ofBool, Nat.reduceSub] <;> simp
theorem fill (d a : Opnd) (ctr : BitVec 4) (sealed : Bool) : Statement (.fill d a ctr sealed) :=
  one rfl (rowOf_copy (n := 0x07) rfl (by simp (disch := decide) only [field_low, field_high, field_full, bit_low, bit_high, bit_ofBool, Nat.reduceSub]) (by decide)) rfl <| fun _ => by simp (disch := decide) only [need, field_low, field_high, field_full, bit_low, bit_high, bit_ofBool, Nat.reduceSub] <;> simp
theorem chain (d a : Opnd) (ctr : BitVec 4) (sealed : Bool) : Statement (.chain d a ctr sealed) :=
  one rfl (rowOf_copy (n := 0x08) rfl (by simp (disch := decide) only [field_low, field_high, field_full, bit_low, bit_high, bit_ofBool, Nat.reduceSub]) (by decide)) rfl <| fun _ => by simp (disch := decide) only [need, field_low, field_high, field_full, bit_low, bit_high, bit_ofBool, Nat.reduceSub] <;> simp
theorem chstat (d a : Opnd) (ctr : BitVec 4) (sealed : Bool) : Statement (.chstat d a ctr sealed) :=
  one rfl (rowOf_copy (n := 0x09) rfl (by simp (disch := decide) only [field_low, field_high, field_full, bit_low, bit_high, bit_ofBool, Nat.reduceSub]) (by decide)) rfl <| fun _ => by simp (disch := decide) only [need, field_low, field_high, field_full, bit_low, bit_high, bit_ofBool, Nat.reduceSub] <;> simp
theorem chabort (d a : Opnd) (ctr : BitVec 4) (sealed : Bool) : Statement (.chabort d a ctr sealed) :=
  one rfl (rowOf_copy (n := 0x0A) rfl (by simp (disch := decide) only [field_low, field_high, field_full, bit_low, bit_high, bit_ofBool, Nat.reduceSub]) (by decide)) rfl <| fun _ => by simp (disch := decide) only [need, field_low, field_high, field_full, bit_low, bit_high, bit_ofBool, Nat.reduceSub] <;> simp
theorem migr (d a : Opnd) (ctr : BitVec 4) (sealed : Bool) : Statement (.migr d a ctr sealed) :=
  one rfl (rowOf_copy (n := 0x0B) rfl (by simp (disch := decide) only [field_low, field_high, field_full, bit_low, bit_high, bit_ofBool, Nat.reduceSub]) (by decide)) rfl <| fun _ => by simp (disch := decide) only [need, field_low, field_high, field_full, bit_low, bit_high, bit_ofBool, Nat.reduceSub] <;> simp
theorem copyr (d a : Opnd) (ctr : BitVec 4) (sealed : Bool) : Statement (.copyr d a ctr sealed) :=
  one rfl (rowOf_copy (n := 0x0C) rfl (by simp (disch := decide) only [field_low, field_high, field_full, bit_low, bit_high, bit_ofBool, Nat.reduceSub]) (by decide)) rfl <| fun _ => by simp (disch := decide) only [need, field_low, field_high, field_full, bit_low, bit_high, bit_ofBool, Nat.reduceSub] <;> simp
theorem copyJobComplete (op : Nat) : Statement (.copyJobComplete op) := noWord rfl
theorem chainRecordStep (die chan : Nat) : Statement (.chainRecordStep die chan) := noWord rfl
theorem copymReceiverArrive (op rank : Nat) : Statement (.copymReceiverArrive op rank) := noWord rfl
theorem netPacketReceive (p : NetPacket) : Statement (.netPacketReceive p) := noWord rfl
theorem netAckReceive (msg pkt : Nat) (data : NetReply) : Statement (.netAckReceive msg pkt data) := noWord rfl
theorem negativeAck (msg : Nat) : Statement (.negativeAck msg) := noWord rfl
theorem netRetryTimeout (msg : Nat) : Statement (.netRetryTimeout msg) := noWord rfl
theorem cmovi (xd sh : BitVec 4) (imm : BitVec 14) : Statement (.cmovi xd sh imm) :=
  one rfl (rowOf_coll (n := 0x01) rfl (by simp (disch := decide) only [field_low, field_high, field_full, bit_low, bit_high, bit_ofBool, Nat.reduceSub]) (by decide)) rfl <| fun _ => by simp (disch := decide) only [need, field_low, field_high, field_full, bit_low, bit_high, bit_ofBool, Nat.reduceSub] <;> simp
theorem caddi (xd xa : BitVec 4) (imm : BitVec 14) : Statement (.caddi xd xa imm) :=
  one rfl (rowOf_coll (n := 0x02) rfl (by simp (disch := decide) only [field_low, field_high, field_full, bit_low, bit_high, bit_ofBool, Nat.reduceSub]) (by decide)) rfl <| fun _ => by simp (disch := decide) only [need, field_low, field_high, field_full, bit_low, bit_high, bit_ofBool, Nat.reduceSub] <;> simp
theorem cadd (xd xa xb : BitVec 4) : Statement (.cadd xd xa xb) :=
  one rfl (rowOf_coll (n := 0x03) rfl (by simp (disch := decide) only [field_low, field_high, field_full, bit_low, bit_high, bit_ofBool, Nat.reduceSub]) (by decide)) rfl <| fun _ => by simp (disch := decide) only [need, field_low, field_high, field_full, bit_low, bit_high, bit_ofBool, Nat.reduceSub] <;> simp
theorem cld (xd xa : BitVec 4) (imm : BitVec 14) : Statement (.cld xd xa imm) :=
  one rfl (rowOf_coll (n := 0x04) rfl (by simp (disch := decide) only [field_low, field_high, field_full, bit_low, bit_high, bit_ofBool, Nat.reduceSub]) (by decide)) rfl <| fun _ => by simp (disch := decide) only [need, field_low, field_high, field_full, bit_low, bit_high, bit_ofBool, Nat.reduceSub] <;> simp
theorem cst (xa xb : BitVec 4) (imm : BitVec 14) : Statement (.cst xa xb imm) :=
  one rfl (rowOf_coll (n := 0x05) rfl (by simp (disch := decide) only [field_low, field_high, field_full, bit_low, bit_high, bit_ofBool, Nat.reduceSub]) (by decide)) rfl <| fun _ => by simp (disch := decide) only [need, field_low, field_high, field_full, bit_low, bit_high, bit_ofBool, Nat.reduceSub] <;> simp
theorem cldl (ld : BitVec 3) (xa : BitVec 4) (imm : BitVec 14) : Statement (.cldl ld xa imm) :=
  one rfl (rowOf_coll (n := 0x06) rfl (by simp (disch := decide) only [field_low, field_high, field_full, bit_low, bit_high, bit_ofBool, Nat.reduceSub]) (by decide)) rfl <| fun _ => by simp (disch := decide) only [need, field_low, field_high, field_full, bit_low, bit_high, bit_ofBool, Nat.reduceSub] <;> simp
theorem cstl (xa : BitVec 4) (lb : BitVec 3) (imm : BitVec 14) : Statement (.cstl xa lb imm) :=
  one rfl (rowOf_coll (n := 0x07) rfl (by simp (disch := decide) only [field_low, field_high, field_full, bit_low, bit_high, bit_ofBool, Nat.reduceSub]) (by decide)) rfl <| fun _ => by simp (disch := decide) only [need, field_low, field_high, field_full, bit_low, bit_high, bit_ofBool, Nat.reduceSub] <;> simp
theorem cvop (ld la lb : BitVec 3) (k : BitVec 4) : Statement (.cvop ld la lb k) :=
  one rfl (rowOf_coll (n := 0x08) rfl (by simp (disch := decide) only [field_low, field_high, field_full, bit_low, bit_high, bit_ofBool, Nat.reduceSub]) (by decide)) rfl <| fun hw => by simp (disch := decide) only [need, field_low, field_high, field_full, bit_low, bit_high, bit_ofBool, Nat.reduceSub] <;> simpa [Instr.wf] using hw
theorem copen (xd xa xb : BitVec 4) (k : BitVec 4) (base : BitVec 8) : Statement (.copen xd xa xb k base) :=
  one rfl (rowOf_coll (n := 0x09) rfl (by simp (disch := decide) only [field_low, field_high, field_full, bit_low, bit_high, bit_ofBool, Nat.reduceSub]) (by decide)) rfl <| fun hw => by simp (disch := decide) only [need, field_low, field_high, field_full, bit_low, bit_high, bit_ofBool, Nat.reduceSub] <;> simpa [Instr.wf] using hw
theorem ccont (xd xa : BitVec 4) (lb : BitVec 3) : Statement (.ccont xd xa lb) :=
  one rfl (rowOf_coll (n := 0x0A) rfl (by simp (disch := decide) only [field_low, field_high, field_full, bit_low, bit_high, bit_ofBool, Nat.reduceSub]) (by decide)) rfl <| fun _ => by simp (disch := decide) only [need, field_low, field_high, field_full, bit_low, bit_high, bit_ofBool, Nat.reduceSub] <;> simp
theorem cwait (xd xa : BitVec 4) : Statement (.cwait xd xa) :=
  one rfl (rowOf_coll (n := 0x0B) rfl (by simp (disch := decide) only [field_low, field_high, field_full, bit_low, bit_high, bit_ofBool, Nat.reduceSub]) (by decide)) rfl <| fun _ => by simp (disch := decide) only [need, field_low, field_high, field_full, bit_low, bit_high, bit_ofBool, Nat.reduceSub] <;> simp
theorem cres (ld : BitVec 3) (xa : BitVec 4) : Statement (.cres ld xa) :=
  one rfl (rowOf_coll (n := 0x0C) rfl (by simp (disch := decide) only [field_low, field_high, field_full, bit_low, bit_high, bit_ofBool, Nat.reduceSub]) (by decide)) rfl <| fun _ => by simp (disch := decide) only [need, field_low, field_high, field_full, bit_low, bit_high, bit_ofBool, Nat.reduceSub] <;> simp
theorem cstat (xd xa : BitVec 4) (which : BitVec 14) : Statement (.cstat xd xa which) :=
  one rfl (rowOf_coll (n := 0x0D) rfl (by simp (disch := decide) only [field_low, field_high, field_full, bit_low, bit_high, bit_ofBool, Nat.reduceSub]) (by decide)) rfl <| fun hw => by simp (disch := decide) only [need, field_low, field_high, field_full, bit_low, bit_high, bit_ofBool, Nat.reduceSub]; rw [if_pos (by simpa [Instr.wf] using hw)]
theorem csend (xd xa : BitVec 4) (lb : BitVec 3) : Statement (.csend xd xa lb) :=
  one rfl (rowOf_coll (n := 0x0E) rfl (by simp (disch := decide) only [field_low, field_high, field_full, bit_low, bit_high, bit_ofBool, Nat.reduceSub]) (by decide)) rfl <| fun _ => by simp (disch := decide) only [need, field_low, field_high, field_full, bit_low, bit_high, bit_ofBool, Nat.reduceSub] <;> simp
theorem crecv (ld : BitVec 3) (xa xb : BitVec 4) : Statement (.crecv ld xa xb) :=
  one rfl (rowOf_coll (n := 0x0F) rfl (by simp (disch := decide) only [field_low, field_high, field_full, bit_low, bit_high, bit_ofBool, Nat.reduceSub]) (by decide)) rfl <| fun _ => by simp (disch := decide) only [need, field_low, field_high, field_full, bit_low, bit_high, bit_ofBool, Nat.reduceSub] <;> simp
theorem cbz (xa : BitVec 4) (disp : BitVec 14) : Statement (.cbz xa disp) :=
  one rfl (rowOf_coll (n := 0x10) rfl (by simp (disch := decide) only [field_low, field_high, field_full, bit_low, bit_high, bit_ofBool, Nat.reduceSub]) (by decide)) rfl <| fun _ => by simp (disch := decide) only [need, field_low, field_high, field_full, bit_low, bit_high, bit_ofBool, Nat.reduceSub] <;> simp
theorem cbnz (xa : BitVec 4) (disp : BitVec 14) : Statement (.cbnz xa disp) :=
  one rfl (rowOf_coll (n := 0x11) rfl (by simp (disch := decide) only [field_low, field_high, field_full, bit_low, bit_high, bit_ofBool, Nat.reduceSub]) (by decide)) rfl <| fun _ => by simp (disch := decide) only [need, field_low, field_high, field_full, bit_low, bit_high, bit_ofBool, Nat.reduceSub] <;> simp
theorem cbra (disp : BitVec 14) : Statement (.cbra disp) :=
  one rfl (rowOf_coll (n := 0x12) rfl (by simp (disch := decide) only [field_low, field_high, field_full, bit_low, bit_high, bit_ofBool, Nat.reduceSub]) (by decide)) rfl <| fun _ => by simp (disch := decide) only [need, field_low, field_high, field_full, bit_low, bit_high, bit_ofBool, Nat.reduceSub] <;> simp
theorem csig (xa : BitVec 4) : Statement (.csig xa) :=
  one rfl (rowOf_coll (n := 0x13) rfl (by simp (disch := decide) only [field_low, field_high, field_full, bit_low, bit_high, bit_ofBool, Nat.reduceSub]) (by decide)) rfl <| fun _ => by simp (disch := decide) only [need, field_low, field_high, field_full, bit_low, bit_high, bit_ofBool, Nat.reduceSub] <;> simp
theorem cfree (xa : BitVec 4) : Statement (.cfree xa) :=
  one rfl (rowOf_coll (n := 0x14) rfl (by simp (disch := decide) only [field_low, field_high, field_full, bit_low, bit_high, bit_ofBool, Nat.reduceSub]) (by decide)) rfl <| fun _ => by simp (disch := decide) only [need, field_low, field_high, field_full, bit_low, bit_high, bit_ofBool, Nat.reduceSub] <;> simp
theorem cend : Statement .cend :=
  one rfl (rowOf_coll (n := 0x15) rfl (by simp (disch := decide) only [field_low, field_high, field_full, bit_low, bit_high, bit_ofBool, Nat.reduceSub]) (by decide)) rfl <| fun _ => rfl
theorem attarStart (sock : Nat) : Statement (.attarStart sock) := noWord rfl
theorem contributionAccept (sock : Nat) (m : AttarMsg) : Statement (.contributionAccept sock m) := noWord rfl
theorem slotDeadline (sock slot : Nat) : Statement (.slotDeadline sock slot) := noWord rfl
theorem contributionRetry (sock ctx : Nat) : Statement (.contributionRetry sock ctx) := noWord rfl
theorem messageStore (sock : Nat) (m : AttarMsg) : Statement (.messageStore sock m) := noWord rfl
theorem messageExpiry (sock : Nat) : Statement (.messageExpiry sock) := noWord rfl
theorem crecvTimeout (sock ctx : Nat) : Statement (.crecvTimeout sock ctx) := noWord rfl
theorem routerPacketArrive (router inPort : Nat) (p : Packet) : Statement (.routerPacketArrive router inPort p) := noWord rfl
theorem outputGrant (router out : Nat) : Statement (.outputGrant router out) := noWord rfl
theorem echoReply (router : Nat) (p : Packet) : Statement (.echoReply router p) := noWord rfl
theorem failedReply (router : Nat) (p : Packet) : Statement (.failedReply router p) := noWord rfl
theorem linkFlitReceive (router port : Nat) (flit : Flit) (crcOk : Bool) :
    Statement (.linkFlitReceive router port flit crcOk) := noWord rfl
theorem linkRetrain (router port : Nat) : Statement (.linkRetrain router port) := noWord rfl
theorem linkDown (router port : Nat) : Statement (.linkDown router port) := noWord rfl
theorem routeRecompute : Statement .routeRecompute := noWord rfl
theorem responseTimeout (tag : Nat) : Statement (.responseTimeout tag) := noWord rfl
theorem memoryRequest (sock : Nat) (p : Packet) : Statement (.memoryRequest sock p) := noWord rfl
theorem tokenAcquireRequest (sock : Nat) (p : Packet) : Statement (.tokenAcquireRequest sock p) := noWord rfl
theorem tokenRecall (call : Recall) : Statement (.tokenRecall call) := noWord rfl
theorem recallAck (sock pkg region : Nat) : Statement (.recallAck sock pkg region) := noWord rfl
theorem scrubArrays (sock : Nat) : Statement (.scrubArrays sock) := noWord rfl
theorem scrubDram (sock : Nat) : Statement (.scrubDram sock) := noWord rfl
theorem hostWrite (fn : Nat) (addr : Nat) (bytes : List Byte) : Statement (.hostWrite fn addr bytes) := noWord rfl
theorem hostRead (fn : Nat) (addr len : Nat) : Statement (.hostRead fn addr len) := noWord rfl
theorem doorbell (die queue : Nat) (w : DWord) : Statement (.doorbell die queue w) := noWord rfl
theorem queueEnable (die queue : Nat) : Statement (.queueEnable die queue) := noWord rfl
theorem queueDisable (die queue : Nat) : Statement (.queueDisable die queue) := noWord rfl
theorem queueRecordWrite (die queue off fn : Nat) (bytes : List Byte) : Statement (.queueRecordWrite die queue off fn bytes) := noWord rfl
theorem packetProcessorStep (die : Nat) : Statement (.packetProcessorStep die) := noWord rfl
theorem waitsigTimeout (die queue : Nat) : Statement (.waitsigTimeout die queue) := noWord rfl
theorem launchComplete (die launch : Nat) : Statement (.launchComplete die launch) := noWord rfl
theorem completionRecordRetry (die ctx : Nat) : Statement (.completionRecordRetry die ctx) := noWord rfl
theorem bindRecordWrite (die slot : Nat) (r : BindRec) : Statement (.bindRecordWrite die slot r) := noWord rfl
theorem teamDispatch (die : Nat) : Statement (.teamDispatch die) := noWord rfl
theorem contextValidSet (die ctx : Nat) : Statement (.contextValidSet die ctx) := noWord rfl
theorem contextValidClear (die ctx : Nat) : Statement (.contextValidClear die ctx) := noWord rfl
theorem contextRecordWrite (die ctx off : Nat) (bytes : List Byte) : Statement (.contextRecordWrite die ctx off bytes) := noWord rfl
theorem faultReplay (die seq : Nat) : Statement (.faultReplay die seq) := noWord rfl
theorem faultCancel (die seq : Nat) : Statement (.faultCancel die seq) := noWord rfl
theorem mmioRegisterWrite (sock off fn : Nat) (bytes : List Byte) : Statement (.mmioRegisterWrite sock off fn bytes) := noWord rfl
theorem powerRead (m : Mail) : Statement (.powerRead m) := noWord rfl
theorem powerPackageLimit (m : Mail) : Statement (.powerPackageLimit m) := noWord rfl
theorem powerIslandLimit (m : Mail) : Statement (.powerIslandLimit m) := noWord rfl
theorem powerDieDown (m : Mail) : Statement (.powerDieDown m) := noWord rfl
theorem powerDieUp (m : Mail) : Statement (.powerDieUp m) := noWord rfl
theorem resetDrain (m : Mail) : Statement (.resetDrain m) := noWord rfl
theorem resetCore (m : Mail) : Statement (.resetCore m) := noWord rfl
theorem resetMatrixEngine (m : Mail) : Statement (.resetMatrixEngine m) := noWord rfl
theorem resetDie (m : Mail) : Statement (.resetDie m) := noWord rfl
theorem dieResetComplete (die : Nat) : Statement (.dieResetComplete die) := noWord rfl
theorem resetBaseDie (m : Mail) : Statement (.resetBaseDie m) := noWord rfl
theorem resetPackage (m : Mail) : Statement (.resetPackage m) := noWord rfl
theorem resetTlbinv (m : Mail) : Statement (.resetTlbinv m) := noWord rfl
theorem functionLevelReset (fn : Nat) : Statement (.functionLevelReset fn) := noWord rfl
theorem fundamentalReset : Statement .fundamentalReset := noWord rfl
theorem errlogRead (m : Mail) : Statement (.errlogRead m) := noWord rfl
theorem errlogCounters (m : Mail) : Statement (.errlogCounters m) := noWord rfl
theorem errlogClear (m : Mail) : Statement (.errlogClear m) := noWord rfl
theorem timeStatus (m : Mail) : Statement (.timeStatus m) := noWord rfl
theorem timeStep (m : Mail) : Statement (.timeStep m) := noWord rfl
theorem timeLoad (m : Mail) : Statement (.timeLoad m) := noWord rfl
theorem timePortSelect (m : Mail) : Statement (.timePortSelect m) := noWord rfl
theorem ptpSync (offset ppb : Int) (master : DWord) : Statement (.ptpSync offset ppb master) := noWord rfl
theorem ioDieFailover : Statement .ioDieFailover := noWord rfl
theorem keysLoad (m : Mail) (keys : List DWord) (secured : Bool) : Statement (.keysLoad m keys secured) := noWord rfl
theorem keysClear (m : Mail) : Statement (.keysClear m) := noWord rfl
theorem keysRead (m : Mail) : Statement (.keysRead m) := noWord rfl
theorem telemetrySetRing (m : Mail) : Statement (.telemetrySetRing m) := noWord rfl
theorem telemetryDrain (m : Mail) : Statement (.telemetryDrain m) := noWord rfl
theorem telemetryRead (m : Mail) : Statement (.telemetryRead m) := noWord rfl
theorem routesSetPkg (m : Mail) : Statement (.routesSetPkg m) := noWord rfl
theorem routesWrite (m : Mail) : Statement (.routesWrite m) := noWord rfl
theorem routesAgemax (m : Mail) : Statement (.routesAgemax m) := noWord rfl
theorem routesPartitionMap (m : Mail) : Statement (.routesPartitionMap m) := noWord rfl
theorem migrationThreshold (m : Mail) : Statement (.migrationThreshold m) := noWord rfl
theorem migrationReadCounters (m : Mail) : Statement (.migrationReadCounters m) := noWord rfl
theorem getVersion (req : List Byte) : Statement (.getVersion req) := noWord rfl
theorem getCapabilities (req : List Byte) : Statement (.getCapabilities req) := noWord rfl
theorem negotiateAlgorithms (req : List Byte) : Statement (.negotiateAlgorithms req) := noWord rfl
theorem getDigests (req : List Byte) : Statement (.getDigests req) := noWord rfl
theorem getCertificate (req : List Byte) : Statement (.getCertificate req) := noWord rfl
theorem challenge (req : List Byte) : Statement (.challenge req) := noWord rfl
theorem getMeasurements (req : List Byte) : Statement (.getMeasurements req) := noWord rfl
theorem keyExchange (req : List Byte) : Statement (.keyExchange req) := noWord rfl
theorem finish (req : List Byte) : Statement (.finish req) := noWord rfl
theorem endSession (req : List Byte) : Statement (.endSession req) := noWord rfl
theorem ideKm (fn : Nat) (stream : Nat) (key : List Byte) : Statement (.ideKm fn stream key) := noWord rfl
theorem firmwareImageWrite (image : Nat) (signed : Bool) : Statement (.firmwareImageWrite image signed) := noWord rfl
theorem powerGood : Statement .powerGood := noWord rfl
theorem tdispMessage (fn : Nat) (req : TdispReq) : Statement (.tdispMessage fn req) := noWord rfl
theorem baseDieResetComplete (sock : Nat) : Statement (.baseDieResetComplete sock) := noWord rfl
theorem coreResetComplete (core : Nat) : Statement (.coreResetComplete core) := noWord rfl
theorem governorClockChange (island : Nat) (mhz : Nat) : Statement (.governorClockChange island mhz) := noWord rfl

end Sys2Proof.Laws.RoundTrip
end

