-- ==== Sys2Proof/Laws/State.lean ====
section
/-!
SUPPORT. What each update of the state, of a gang and of a lane leaves and what it writes: one lemma per field per update.
-/
set_option Elab.async false
namespace Sys2Proof.Laws
open Sys2Proof Sys2Proof.Machine

@[simp] theorem setGang_mem (s : State) (k : Nat) (g : Gang) : (s.setGang k g).mem = s.mem := rfl
@[simp] theorem setGang_gangs (s : State) (k : Nat) (g : Gang) : (s.setGang k g).gangs = tput s.gangs k g := rfl
@[simp] theorem setGang_teams (s : State) (k : Nat) (g : Gang) : (s.setGang k g).teams = s.teams := rfl
@[simp] theorem setGang_cores (s : State) (k : Nat) (g : Gang) : (s.setGang k g).cores = s.cores := rfl
@[simp] theorem setGang_dies (s : State) (k : Nat) (g : Gang) : (s.setGang k g).dies = s.dies := rfl
@[simp] theorem setGang_bases (s : State) (k : Nat) (g : Gang) : (s.setGang k g).bases = s.bases := rfl
@[simp] theorem setGang_ctxs (s : State) (k : Nat) (g : Gang) : (s.setGang k g).ctxs = s.ctxs := rfl
@[simp] theorem setGang_launches (s : State) (k : Nat) (g : Gang) : (s.setGang k g).launches = s.launches := rfl
@[simp] theorem setGang_pkg (s : State) (k : Nat) (g : Gang) : (s.setGang k g).pkg = s.pkg := rfl
@[simp] theorem setGang_flight (s : State) (k : Nat) (g : Gang) : (s.setGang k g).flight = s.flight := rfl
@[simp] theorem setGang_agenda (s : State) (k : Nat) (g : Gang) : (s.setGang k g).agenda = s.agenda := rfl
@[simp] theorem setGang_inputs (s : State) (k : Nat) (g : Gang) : (s.setGang k g).inputs = s.inputs := rfl
@[simp] theorem setGang_schedule (s : State) (k : Nat) (g : Gang) : (s.setGang k g).schedule = s.schedule := rfl
@[simp] theorem setGang_cursor (s : State) (k : Nat) (g : Gang) : (s.setGang k g).cursor = s.cursor := rfl
@[simp] theorem setGang_asked (s : State) (k : Nat) (g : Gang) : (s.setGang k g).asked = s.asked := rfl
@[simp] theorem setGang_asks (s : State) (k : Nat) (g : Gang) : (s.setGang k g).asks = s.asks := rfl
@[simp] theorem setGang_spent (s : State) (k : Nat) (g : Gang) : (s.setGang k g).spent = s.spent := rfl
@[simp] theorem setGang_nextOp (s : State) (k : Nat) (g : Gang) : (s.setGang k g).nextOp = s.nextOp := rfl
@[simp] theorem setGang_steps (s : State) (k : Nat) (g : Gang) : (s.setGang k g).steps = s.steps := rfl

@[simp] theorem setTeam_mem (s : State) (k : Nat) (t : Team) : (s.setTeam k t).mem = s.mem := rfl
@[simp] theorem setTeam_gangs (s : State) (k : Nat) (t : Team) : (s.setTeam k t).gangs = s.gangs := rfl
@[simp] theorem setTeam_teams (s : State) (k : Nat) (t : Team) : (s.setTeam k t).teams = tput s.teams k t := rfl
@[simp] theorem setTeam_cores (s : State) (k : Nat) (t : Team) : (s.setTeam k t).cores = s.cores := rfl
@[simp] theorem setTeam_dies (s : State) (k : Nat) (t : Team) : (s.setTeam k t).dies = s.dies := rfl
@[simp] theorem setTeam_bases (s : State) (k : Nat) (t : Team) : (s.setTeam k t).bases = s.bases := rfl
@[simp] theorem setTeam_ctxs (s : State) (k : Nat) (t : Team) : (s.setTeam k t).ctxs = s.ctxs := rfl
@[simp] theorem setTeam_launches (s : State) (k : Nat) (t : Team) : (s.setTeam k t).launches = s.launches := rfl
@[simp] theorem setTeam_pkg (s : State) (k : Nat) (t : Team) : (s.setTeam k t).pkg = s.pkg := rfl
@[simp] theorem setTeam_flight (s : State) (k : Nat) (t : Team) : (s.setTeam k t).flight = s.flight := rfl
@[simp] theorem setTeam_agenda (s : State) (k : Nat) (t : Team) : (s.setTeam k t).agenda = s.agenda := rfl
@[simp] theorem setTeam_inputs (s : State) (k : Nat) (t : Team) : (s.setTeam k t).inputs = s.inputs := rfl
@[simp] theorem setTeam_schedule (s : State) (k : Nat) (t : Team) : (s.setTeam k t).schedule = s.schedule := rfl
@[simp] theorem setTeam_cursor (s : State) (k : Nat) (t : Team) : (s.setTeam k t).cursor = s.cursor := rfl
@[simp] theorem setTeam_asked (s : State) (k : Nat) (t : Team) : (s.setTeam k t).asked = s.asked := rfl
@[simp] theorem setTeam_asks (s : State) (k : Nat) (t : Team) : (s.setTeam k t).asks = s.asks := rfl
@[simp] theorem setTeam_spent (s : State) (k : Nat) (t : Team) : (s.setTeam k t).spent = s.spent := rfl
@[simp] theorem setTeam_nextOp (s : State) (k : Nat) (t : Team) : (s.setTeam k t).nextOp = s.nextOp := rfl
@[simp] theorem setTeam_steps (s : State) (k : Nat) (t : Team) : (s.setTeam k t).steps = s.steps := rfl

@[simp] theorem setCore_mem (s : State) (k : Nat) (x : Core) : (s.setCore k x).mem = s.mem := rfl
@[simp] theorem setCore_gangs (s : State) (k : Nat) (x : Core) : (s.setCore k x).gangs = s.gangs := rfl
@[simp] theorem setCore_teams (s : State) (k : Nat) (x : Core) : (s.setCore k x).teams = s.teams := rfl
@[simp] theorem setCore_cores (s : State) (k : Nat) (x : Core) : (s.setCore k x).cores = tput s.cores k x := rfl
@[simp] theorem setCore_dies (s : State) (k : Nat) (x : Core) : (s.setCore k x).dies = s.dies := rfl
@[simp] theorem setCore_bases (s : State) (k : Nat) (x : Core) : (s.setCore k x).bases = s.bases := rfl
@[simp] theorem setCore_ctxs (s : State) (k : Nat) (x : Core) : (s.setCore k x).ctxs = s.ctxs := rfl
@[simp] theorem setCore_launches (s : State) (k : Nat) (x : Core) : (s.setCore k x).launches = s.launches := rfl
@[simp] theorem setCore_pkg (s : State) (k : Nat) (x : Core) : (s.setCore k x).pkg = s.pkg := rfl
@[simp] theorem setCore_flight (s : State) (k : Nat) (x : Core) : (s.setCore k x).flight = s.flight := rfl
@[simp] theorem setCore_agenda (s : State) (k : Nat) (x : Core) : (s.setCore k x).agenda = s.agenda := rfl
@[simp] theorem setCore_inputs (s : State) (k : Nat) (x : Core) : (s.setCore k x).inputs = s.inputs := rfl
@[simp] theorem setCore_schedule (s : State) (k : Nat) (x : Core) : (s.setCore k x).schedule = s.schedule := rfl
@[simp] theorem setCore_cursor (s : State) (k : Nat) (x : Core) : (s.setCore k x).cursor = s.cursor := rfl
@[simp] theorem setCore_asked (s : State) (k : Nat) (x : Core) : (s.setCore k x).asked = s.asked := rfl
@[simp] theorem setCore_asks (s : State) (k : Nat) (x : Core) : (s.setCore k x).asks = s.asks := rfl
@[simp] theorem setCore_spent (s : State) (k : Nat) (x : Core) : (s.setCore k x).spent = s.spent := rfl
@[simp] theorem setCore_nextOp (s : State) (k : Nat) (x : Core) : (s.setCore k x).nextOp = s.nextOp := rfl
@[simp] theorem setCore_steps (s : State) (k : Nat) (x : Core) : (s.setCore k x).steps = s.steps := rfl

@[simp] theorem setDie_mem (s : State) (k : Nat) (d : Die) : (s.setDie k d).mem = s.mem := rfl
@[simp] theorem setDie_gangs (s : State) (k : Nat) (d : Die) : (s.setDie k d).gangs = s.gangs := rfl
@[simp] theorem setDie_teams (s : State) (k : Nat) (d : Die) : (s.setDie k d).teams = s.teams := rfl
@[simp] theorem setDie_cores (s : State) (k : Nat) (d : Die) : (s.setDie k d).cores = s.cores := rfl
@[simp] theorem setDie_dies (s : State) (k : Nat) (d : Die) : (s.setDie k d).dies = tput s.dies k d := rfl
@[simp] theorem setDie_bases (s : State) (k : Nat) (d : Die) : (s.setDie k d).bases = s.bases := rfl
@[simp] theorem setDie_ctxs (s : State) (k : Nat) (d : Die) : (s.setDie k d).ctxs = s.ctxs := rfl
@[simp] theorem setDie_launches (s : State) (k : Nat) (d : Die) : (s.setDie k d).launches = s.launches := rfl
@[simp] theorem setDie_pkg (s : State) (k : Nat) (d : Die) : (s.setDie k d).pkg = s.pkg := rfl
@[simp] theorem setDie_flight (s : State) (k : Nat) (d : Die) : (s.setDie k d).flight = s.flight := rfl
@[simp] theorem setDie_agenda (s : State) (k : Nat) (d : Die) : (s.setDie k d).agenda = s.agenda := rfl
@[simp] theorem setDie_inputs (s : State) (k : Nat) (d : Die) : (s.setDie k d).inputs = s.inputs := rfl
@[simp] theorem setDie_schedule (s : State) (k : Nat) (d : Die) : (s.setDie k d).schedule = s.schedule := rfl
@[simp] theorem setDie_cursor (s : State) (k : Nat) (d : Die) : (s.setDie k d).cursor = s.cursor := rfl
@[simp] theorem setDie_asked (s : State) (k : Nat) (d : Die) : (s.setDie k d).asked = s.asked := rfl
@[simp] theorem setDie_asks (s : State) (k : Nat) (d : Die) : (s.setDie k d).asks = s.asks := rfl
@[simp] theorem setDie_spent (s : State) (k : Nat) (d : Die) : (s.setDie k d).spent = s.spent := rfl
@[simp] theorem setDie_nextOp (s : State) (k : Nat) (d : Die) : (s.setDie k d).nextOp = s.nextOp := rfl
@[simp] theorem setDie_steps (s : State) (k : Nat) (d : Die) : (s.setDie k d).steps = s.steps := rfl

@[simp] theorem setBase_mem (s : State) (k : Nat) (b : Base) : (s.setBase k b).mem = s.mem := rfl
@[simp] theorem setBase_gangs (s : State) (k : Nat) (b : Base) : (s.setBase k b).gangs = s.gangs := rfl
@[simp] theorem setBase_teams (s : State) (k : Nat) (b : Base) : (s.setBase k b).teams = s.teams := rfl
@[simp] theorem setBase_cores (s : State) (k : Nat) (b : Base) : (s.setBase k b).cores = s.cores := rfl
@[simp] theorem setBase_dies (s : State) (k : Nat) (b : Base) : (s.setBase k b).dies = s.dies := rfl
@[simp] theorem setBase_bases (s : State) (k : Nat) (b : Base) : (s.setBase k b).bases = tput s.bases k b := rfl
@[simp] theorem setBase_ctxs (s : State) (k : Nat) (b : Base) : (s.setBase k b).ctxs = s.ctxs := rfl
@[simp] theorem setBase_launches (s : State) (k : Nat) (b : Base) : (s.setBase k b).launches = s.launches := rfl
@[simp] theorem setBase_pkg (s : State) (k : Nat) (b : Base) : (s.setBase k b).pkg = s.pkg := rfl
@[simp] theorem setBase_flight (s : State) (k : Nat) (b : Base) : (s.setBase k b).flight = s.flight := rfl
@[simp] theorem setBase_agenda (s : State) (k : Nat) (b : Base) : (s.setBase k b).agenda = s.agenda := rfl
@[simp] theorem setBase_inputs (s : State) (k : Nat) (b : Base) : (s.setBase k b).inputs = s.inputs := rfl
@[simp] theorem setBase_schedule (s : State) (k : Nat) (b : Base) : (s.setBase k b).schedule = s.schedule := rfl
@[simp] theorem setBase_cursor (s : State) (k : Nat) (b : Base) : (s.setBase k b).cursor = s.cursor := rfl
@[simp] theorem setBase_asked (s : State) (k : Nat) (b : Base) : (s.setBase k b).asked = s.asked := rfl
@[simp] theorem setBase_asks (s : State) (k : Nat) (b : Base) : (s.setBase k b).asks = s.asks := rfl
@[simp] theorem setBase_spent (s : State) (k : Nat) (b : Base) : (s.setBase k b).spent = s.spent := rfl
@[simp] theorem setBase_nextOp (s : State) (k : Nat) (b : Base) : (s.setBase k b).nextOp = s.nextOp := rfl
@[simp] theorem setBase_steps (s : State) (k : Nat) (b : Base) : (s.setBase k b).steps = s.steps := rfl

@[simp] theorem setCtx_mem (s : State) (k : Nat) (x : Ctx) : (s.setCtx k x).mem = s.mem := rfl
@[simp] theorem setCtx_gangs (s : State) (k : Nat) (x : Ctx) : (s.setCtx k x).gangs = s.gangs := rfl
@[simp] theorem setCtx_teams (s : State) (k : Nat) (x : Ctx) : (s.setCtx k x).teams = s.teams := rfl
@[simp] theorem setCtx_cores (s : State) (k : Nat) (x : Ctx) : (s.setCtx k x).cores = s.cores := rfl
@[simp] theorem setCtx_dies (s : State) (k : Nat) (x : Ctx) : (s.setCtx k x).dies = s.dies := rfl
@[simp] theorem setCtx_bases (s : State) (k : Nat) (x : Ctx) : (s.setCtx k x).bases = s.bases := rfl
@[simp] theorem setCtx_ctxs (s : State) (k : Nat) (x : Ctx) : (s.setCtx k x).ctxs = tput s.ctxs k x := rfl
@[simp] theorem setCtx_launches (s : State) (k : Nat) (x : Ctx) : (s.setCtx k x).launches = s.launches := rfl
@[simp] theorem setCtx_pkg (s : State) (k : Nat) (x : Ctx) : (s.setCtx k x).pkg = s.pkg := rfl
@[simp] theorem setCtx_flight (s : State) (k : Nat) (x : Ctx) : (s.setCtx k x).flight = s.flight := rfl
@[simp] theorem setCtx_agenda (s : State) (k : Nat) (x : Ctx) : (s.setCtx k x).agenda = s.agenda := rfl
@[simp] theorem setCtx_inputs (s : State) (k : Nat) (x : Ctx) : (s.setCtx k x).inputs = s.inputs := rfl
@[simp] theorem setCtx_schedule (s : State) (k : Nat) (x : Ctx) : (s.setCtx k x).schedule = s.schedule := rfl
@[simp] theorem setCtx_cursor (s : State) (k : Nat) (x : Ctx) : (s.setCtx k x).cursor = s.cursor := rfl
@[simp] theorem setCtx_asked (s : State) (k : Nat) (x : Ctx) : (s.setCtx k x).asked = s.asked := rfl
@[simp] theorem setCtx_asks (s : State) (k : Nat) (x : Ctx) : (s.setCtx k x).asks = s.asks := rfl
@[simp] theorem setCtx_spent (s : State) (k : Nat) (x : Ctx) : (s.setCtx k x).spent = s.spent := rfl
@[simp] theorem setCtx_nextOp (s : State) (k : Nat) (x : Ctx) : (s.setCtx k x).nextOp = s.nextOp := rfl
@[simp] theorem setCtx_steps (s : State) (k : Nat) (x : Ctx) : (s.setCtx k x).steps = s.steps := rfl

@[simp] theorem push_mem (s : State) (ps : List Pending) : (s.push ps).mem = s.mem := rfl
@[simp] theorem push_gangs (s : State) (ps : List Pending) : (s.push ps).gangs = s.gangs := rfl
@[simp] theorem push_teams (s : State) (ps : List Pending) : (s.push ps).teams = s.teams := rfl
@[simp] theorem push_cores (s : State) (ps : List Pending) : (s.push ps).cores = s.cores := rfl
@[simp] theorem push_dies (s : State) (ps : List Pending) : (s.push ps).dies = s.dies := rfl
@[simp] theorem push_bases (s : State) (ps : List Pending) : (s.push ps).bases = s.bases := rfl
@[simp] theorem push_ctxs (s : State) (ps : List Pending) : (s.push ps).ctxs = s.ctxs := rfl
@[simp] theorem push_launches (s : State) (ps : List Pending) : (s.push ps).launches = s.launches := rfl
@[simp] theorem push_pkg (s : State) (ps : List Pending) : (s.push ps).pkg = s.pkg := rfl
@[simp] theorem push_flight (s : State) (ps : List Pending) : (s.push ps).flight = s.flight := rfl
@[simp] theorem push_agenda (s : State) (ps : List Pending) : (s.push ps).agenda = s.agenda ++ ps := rfl
@[simp] theorem push_inputs (s : State) (ps : List Pending) : (s.push ps).inputs = s.inputs := rfl
@[simp] theorem push_schedule (s : State) (ps : List Pending) : (s.push ps).schedule = s.schedule := rfl
@[simp] theorem push_cursor (s : State) (ps : List Pending) : (s.push ps).cursor = s.cursor := rfl
@[simp] theorem push_asked (s : State) (ps : List Pending) : (s.push ps).asked = s.asked := rfl
@[simp] theorem push_asks (s : State) (ps : List Pending) : (s.push ps).asks = s.asks := rfl
@[simp] theorem push_spent (s : State) (ps : List Pending) : (s.push ps).spent = s.spent := rfl
@[simp] theorem push_nextOp (s : State) (ps : List Pending) : (s.push ps).nextOp = s.nextOp := rfl
@[simp] theorem push_steps (s : State) (ps : List Pending) : (s.push ps).steps = s.steps := rfl

@[simp] theorem emit_mem (s : State) (o : Out) : (s.emit o).mem = s.mem := rfl
@[simp] theorem emit_gangs (s : State) (o : Out) : (s.emit o).gangs = s.gangs := rfl
@[simp] theorem emit_teams (s : State) (o : Out) : (s.emit o).teams = s.teams := rfl
@[simp] theorem emit_cores (s : State) (o : Out) : (s.emit o).cores = s.cores := rfl
@[simp] theorem emit_dies (s : State) (o : Out) : (s.emit o).dies = s.dies := rfl
@[simp] theorem emit_bases (s : State) (o : Out) : (s.emit o).bases = s.bases := rfl
@[simp] theorem emit_ctxs (s : State) (o : Out) : (s.emit o).ctxs = s.ctxs := rfl
@[simp] theorem emit_launches (s : State) (o : Out) : (s.emit o).launches = s.launches := rfl
@[simp] theorem emit_pkg (s : State) (o : Out) : (s.emit o).pkg = { s.pkg with outs := s.pkg.outs ++ [o] } := rfl
@[simp] theorem emit_flight (s : State) (o : Out) : (s.emit o).flight = s.flight := rfl
@[simp] theorem emit_agenda (s : State) (o : Out) : (s.emit o).agenda = s.agenda := rfl
@[simp] theorem emit_inputs (s : State) (o : Out) : (s.emit o).inputs = s.inputs := rfl
@[simp] theorem emit_schedule (s : State) (o : Out) : (s.emit o).schedule = s.schedule := rfl
@[simp] theorem emit_cursor (s : State) (o : Out) : (s.emit o).cursor = s.cursor := rfl
@[simp] theorem emit_asked (s : State) (o : Out) : (s.emit o).asked = s.asked := rfl
@[simp] theorem emit_asks (s : State) (o : Out) : (s.emit o).asks = s.asks := rfl
@[simp] theorem emit_spent (s : State) (o : Out) : (s.emit o).spent = s.spent := rfl
@[simp] theorem emit_nextOp (s : State) (o : Out) : (s.emit o).nextOp = s.nextOp := rfl
@[simp] theorem emit_steps (s : State) (o : Out) : (s.emit o).steps = s.steps := rfl

@[simp] theorem irq_mem (s : State) (fn what info : Nat) : (s.irq fn what info).mem = s.mem := rfl
@[simp] theorem irq_gangs (s : State) (fn what info : Nat) : (s.irq fn what info).gangs = s.gangs := rfl
@[simp] theorem irq_teams (s : State) (fn what info : Nat) : (s.irq fn what info).teams = s.teams := rfl
@[simp] theorem irq_cores (s : State) (fn what info : Nat) : (s.irq fn what info).cores = s.cores := rfl
@[simp] theorem irq_dies (s : State) (fn what info : Nat) : (s.irq fn what info).dies = s.dies := rfl
@[simp] theorem irq_bases (s : State) (fn what info : Nat) : (s.irq fn what info).bases = s.bases := rfl
@[simp] theorem irq_ctxs (s : State) (fn what info : Nat) : (s.irq fn what info).ctxs = s.ctxs := rfl
@[simp] theorem irq_launches (s : State) (fn what info : Nat) : (s.irq fn what info).launches = s.launches := rfl
@[simp] theorem irq_pkg (s : State) (fn what info : Nat) : (s.irq fn what info).pkg = { s.pkg with outs := s.pkg.outs ++ [.irq fn what info] } := rfl
@[simp] theorem irq_flight (s : State) (fn what info : Nat) : (s.irq fn what info).flight = s.flight := rfl
@[simp] theorem irq_agenda (s : State) (fn what info : Nat) : (s.irq fn what info).agenda = s.agenda := rfl
@[simp] theorem irq_inputs (s : State) (fn what info : Nat) : (s.irq fn what info).inputs = s.inputs := rfl
@[simp] theorem irq_schedule (s : State) (fn what info : Nat) : (s.irq fn what info).schedule = s.schedule := rfl
@[simp] theorem irq_cursor (s : State) (fn what info : Nat) : (s.irq fn what info).cursor = s.cursor := rfl
@[simp] theorem irq_asked (s : State) (fn what info : Nat) : (s.irq fn what info).asked = s.asked := rfl
@[simp] theorem irq_asks (s : State) (fn what info : Nat) : (s.irq fn what info).asks = s.asks := rfl
@[simp] theorem irq_spent (s : State) (fn what info : Nat) : (s.irq fn what info).spent = s.spent := rfl
@[simp] theorem irq_nextOp (s : State) (fn what info : Nat) : (s.irq fn what info).nextOp = s.nextOp := rfl
@[simp] theorem irq_steps (s : State) (fn what info : Nat) : (s.irq fn what info).steps = s.steps := rfl

@[simp] theorem setJob_mem (s : State) (op : Nat) (f : Flight) (j : Job) : (s.setJob op f j).mem = s.mem := rfl
@[simp] theorem setJob_gangs (s : State) (op : Nat) (f : Flight) (j : Job) : (s.setJob op f j).gangs = s.gangs := rfl
@[simp] theorem setJob_teams (s : State) (op : Nat) (f : Flight) (j : Job) : (s.setJob op f j).teams = s.teams := rfl
@[simp] theorem setJob_cores (s : State) (op : Nat) (f : Flight) (j : Job) : (s.setJob op f j).cores = s.cores := rfl
@[simp] theorem setJob_dies (s : State) (op : Nat) (f : Flight) (j : Job) : (s.setJob op f j).dies = s.dies := rfl
@[simp] theorem setJob_bases (s : State) (op : Nat) (f : Flight) (j : Job) : (s.setJob op f j).bases = s.bases := rfl
@[simp] theorem setJob_ctxs (s : State) (op : Nat) (f : Flight) (j : Job) : (s.setJob op f j).ctxs = s.ctxs := rfl
@[simp] theorem setJob_launches (s : State) (op : Nat) (f : Flight) (j : Job) : (s.setJob op f j).launches = s.launches := rfl
@[simp] theorem setJob_pkg (s : State) (op : Nat) (f : Flight) (j : Job) : (s.setJob op f j).pkg = s.pkg := rfl
@[simp] theorem setJob_flight (s : State) (op : Nat) (f : Flight) (j : Job) : (s.setJob op f j).flight = tput s.flight op { f with job := j } := rfl
@[simp] theorem setJob_agenda (s : State) (op : Nat) (f : Flight) (j : Job) : (s.setJob op f j).agenda = s.agenda := rfl
@[simp] theorem setJob_inputs (s : State) (op : Nat) (f : Flight) (j : Job) : (s.setJob op f j).inputs = s.inputs := rfl
@[simp] theorem setJob_schedule (s : State) (op : Nat) (f : Flight) (j : Job) : (s.setJob op f j).schedule = s.schedule := rfl
@[simp] theorem setJob_cursor (s : State) (op : Nat) (f : Flight) (j : Job) : (s.setJob op f j).cursor = s.cursor := rfl
@[simp] theorem setJob_asked (s : State) (op : Nat) (f : Flight) (j : Job) : (s.setJob op f j).asked = s.asked := rfl
@[simp] theorem setJob_asks (s : State) (op : Nat) (f : Flight) (j : Job) : (s.setJob op f j).asks = s.asks := rfl
@[simp] theorem setJob_spent (s : State) (op : Nat) (f : Flight) (j : Job) : (s.setJob op f j).spent = s.spent := rfl
@[simp] theorem setJob_nextOp (s : State) (op : Nat) (f : Flight) (j : Job) : (s.setJob op f j).nextOp = s.nextOp := rfl
@[simp] theorem setJob_steps (s : State) (op : Nat) (f : Flight) (j : Job) : (s.setJob op f j).steps = s.steps := rfl

@[simp] theorem put_mem (s : State) (c : Issue) (g : Gang) : (s.put c g).mem = s.mem := rfl
@[simp] theorem put_gangs (s : State) (c : Issue) (g : Gang) : (s.put c g).gangs = tput s.gangs c.key g := rfl
@[simp] theorem put_teams (s : State) (c : Issue) (g : Gang) : (s.put c g).teams = s.teams := rfl
@[simp] theorem put_cores (s : State) (c : Issue) (g : Gang) : (s.put c g).cores = s.cores := rfl
@[simp] theorem put_dies (s : State) (c : Issue) (g : Gang) : (s.put c g).dies = s.dies := rfl
@[simp] theorem put_bases (s : State) (c : Issue) (g : Gang) : (s.put c g).bases = s.bases := rfl
@[simp] theorem put_ctxs (s : State) (c : Issue) (g : Gang) : (s.put c g).ctxs = s.ctxs := rfl
@[simp] theorem put_launches (s : State) (c : Issue) (g : Gang) : (s.put c g).launches = s.launches := rfl
@[simp] theorem put_pkg (s : State) (c : Issue) (g : Gang) : (s.put c g).pkg = s.pkg := rfl
@[simp] theorem put_flight (s : State) (c : Issue) (g : Gang) : (s.put c g).flight = s.flight := rfl
@[simp] theorem put_agenda (s : State) (c : Issue) (g : Gang) : (s.put c g).agenda = s.agenda := rfl
@[simp] theorem put_inputs (s : State) (c : Issue) (g : Gang) : (s.put c g).inputs = s.inputs := rfl
@[simp] theorem put_schedule (s : State) (c : Issue) (g : Gang) : (s.put c g).schedule = s.schedule := rfl
@[simp] theorem put_cursor (s : State) (c : Issue) (g : Gang) : (s.put c g).cursor = s.cursor := rfl
@[simp] theorem put_asked (s : State) (c : Issue) (g : Gang) : (s.put c g).asked = s.asked := rfl
@[simp] theorem put_asks (s : State) (c : Issue) (g : Gang) : (s.put c g).asks = s.asks := rfl
@[simp] theorem put_spent (s : State) (c : Issue) (g : Gang) : (s.put c g).spent = s.spent := rfl
@[simp] theorem put_nextOp (s : State) (c : Issue) (g : Gang) : (s.put c g).nextOp = s.nextOp := rfl
@[simp] theorem put_steps (s : State) (c : Issue) (g : Gang) : (s.put c g).steps = s.steps := rfl

@[simp] theorem atSplit_mem (s : State) (key idx : Nat) : (s.atSplit key idx).mem = s.mem := rfl
@[simp] theorem atSplit_gangs (s : State) (key idx : Nat) : (s.atSplit key idx).gangs = s.gangs := rfl
@[simp] theorem atSplit_teams (s : State) (key idx : Nat) : (s.atSplit key idx).teams = s.teams := rfl
@[simp] theorem atSplit_cores (s : State) (key idx : Nat) : (s.atSplit key idx).cores = s.cores := rfl
@[simp] theorem atSplit_dies (s : State) (key idx : Nat) : (s.atSplit key idx).dies = s.dies := rfl
@[simp] theorem atSplit_bases (s : State) (key idx : Nat) : (s.atSplit key idx).bases = s.bases := rfl
@[simp] theorem atSplit_ctxs (s : State) (key idx : Nat) : (s.atSplit key idx).ctxs = s.ctxs := rfl
@[simp] theorem atSplit_launches (s : State) (key idx : Nat) : (s.atSplit key idx).launches = s.launches := rfl
@[simp] theorem atSplit_pkg (s : State) (key idx : Nat) : (s.atSplit key idx).pkg = s.pkg := rfl
@[simp] theorem atSplit_flight (s : State) (key idx : Nat) : (s.atSplit key idx).flight = s.flight := rfl
@[simp] theorem atSplit_agenda (s : State) (key idx : Nat) : (s.atSplit key idx).agenda = s.agenda := rfl
@[simp] theorem atSplit_inputs (s : State) (key idx : Nat) : (s.atSplit key idx).inputs = s.inputs := rfl
@[simp] theorem atSplit_schedule (s : State) (key idx : Nat) : (s.atSplit key idx).schedule = s.schedule := rfl
@[simp] theorem atSplit_cursor (s : State) (key idx : Nat) : (s.atSplit key idx).cursor = .gang key idx := rfl
@[simp] theorem atSplit_asked (s : State) (key idx : Nat) : (s.atSplit key idx).asked = s.asked := rfl
@[simp] theorem atSplit_asks (s : State) (key idx : Nat) : (s.atSplit key idx).asks = s.asks := rfl
@[simp] theorem atSplit_spent (s : State) (key idx : Nat) : (s.atSplit key idx).spent = s.spent := rfl
@[simp] theorem atSplit_nextOp (s : State) (key idx : Nat) : (s.atSplit key idx).nextOp = s.nextOp := rfl
@[simp] theorem atSplit_steps (s : State) (key idx : Nat) : (s.atSplit key idx).steps = s.steps := rfl

@[simp] theorem atContext_mem (s : State) (sock k : Nat) : (s.atContext sock k).mem = s.mem := rfl
@[simp] theorem atContext_gangs (s : State) (sock k : Nat) : (s.atContext sock k).gangs = s.gangs := rfl
@[simp] theorem atContext_teams (s : State) (sock k : Nat) : (s.atContext sock k).teams = s.teams := rfl
@[simp] theorem atContext_cores (s : State) (sock k : Nat) : (s.atContext sock k).cores = s.cores := rfl
@[simp] theorem atContext_dies (s : State) (sock k : Nat) : (s.atContext sock k).dies = s.dies := rfl
@[simp] theorem atContext_bases (s : State) (sock k : Nat) : (s.atContext sock k).bases = s.bases := rfl
@[simp] theorem atContext_ctxs (s : State) (sock k : Nat) : (s.atContext sock k).ctxs = s.ctxs := rfl
@[simp] theorem atContext_launches (s : State) (sock k : Nat) : (s.atContext sock k).launches = s.launches := rfl
@[simp] theorem atContext_pkg (s : State) (sock k : Nat) : (s.atContext sock k).pkg = s.pkg := rfl
@[simp] theorem atContext_flight (s : State) (sock k : Nat) : (s.atContext sock k).flight = s.flight := rfl
@[simp] theorem atContext_agenda (s : State) (sock k : Nat) : (s.atContext sock k).agenda = s.agenda := rfl
@[simp] theorem atContext_inputs (s : State) (sock k : Nat) : (s.atContext sock k).inputs = s.inputs := rfl
@[simp] theorem atContext_schedule (s : State) (sock k : Nat) : (s.atContext sock k).schedule = s.schedule := rfl
@[simp] theorem atContext_cursor (s : State) (sock k : Nat) : (s.atContext sock k).cursor = .attar sock k := rfl
@[simp] theorem atContext_asked (s : State) (sock k : Nat) : (s.atContext sock k).asked = s.asked := rfl
@[simp] theorem atContext_asks (s : State) (sock k : Nat) : (s.atContext sock k).asks = s.asks := rfl
@[simp] theorem atContext_spent (s : State) (sock k : Nat) : (s.atContext sock k).spent = s.spent := rfl
@[simp] theorem atContext_nextOp (s : State) (sock k : Nat) : (s.atContext sock k).nextOp = s.nextOp := rfl
@[simp] theorem atContext_steps (s : State) (sock k : Nat) : (s.atContext sock k).steps = s.steps := rfl

@[simp] theorem mapLanes_core (g : Gang) (ls : List Nat) (f : Nat → Lane → Lane) : (g.mapLanes ls f).core = g.core := rfl
@[simp] theorem mapLanes_id (g : Gang) (ls : List Nat) (f : Nat → Lane → Lane) : (g.mapLanes ls f).id = g.id := rfl
@[simp] theorem mapLanes_team (g : Gang) (ls : List Nat) (f : Nat → Lane → Lane) : (g.mapLanes ls f).team = g.team := rfl
@[simp] theorem mapLanes_ctx (g : Gang) (ls : List Nat) (f : Nat → Lane → Lane) : (g.mapLanes ls f).ctx = g.ctx := rfl
@[simp] theorem mapLanes_launch (g : Gang) (ls : List Nat) (f : Nat → Lane → Lane) : (g.mapLanes ls f).launch = g.launch := rfl
@[simp] theorem mapLanes_width (g : Gang) (ls : List Nat) (f : Nat → Lane → Lane) : (g.mapLanes ls f).width = g.width := rfl
@[simp] theorem mapLanes_slice (g : Gang) (ls : List Nat) (f : Nat → Lane → Lane) : (g.mapLanes ls f).slice = g.slice := rfl
@[simp] theorem mapLanes_level (g : Gang) (ls : List Nat) (f : Nat → Lane → Lane) : (g.mapLanes ls f).level = g.level := rfl
@[simp] theorem mapLanes_regBytes (g : Gang) (ls : List Nat) (f : Nat → Lane → Lane) : (g.mapLanes ls f).regBytes = g.regBytes := rfl
@[simp] theorem mapLanes_spBytes (g : Gang) (ls : List Nat) (f : Nat → Lane → Lane) : (g.mapLanes ls f).spBytes = g.spBytes := rfl
@[simp] theorem mapLanes_vb (g : Gang) (ls : List Nat) (f : Nat → Lane → Lane) : (g.mapLanes ls f).vb = g.vb := rfl
@[simp] theorem mapLanes_tb (g : Gang) (ls : List Nat) (f : Nat → Lane → Lane) : (g.mapLanes ls f).tb = g.tb := rfl
@[simp] theorem mapLanes_ab (g : Gang) (ls : List Nat) (f : Nat → Lane → Lane) : (g.mapLanes ls f).ab = g.ab := rfl
@[simp] theorem mapLanes_fpctl (g : Gang) (ls : List Nat) (f : Nat → Lane → Lane) : (g.mapLanes ls f).fpctl = g.fpctl := rfl
@[simp] theorem mapLanes_fpflags (g : Gang) (ls : List Nat) (f : Nat → Lane → Lane) : (g.mapLanes ls f).fpflags = g.fpflags := rfl
@[simp] theorem mapLanes_batch (g : Gang) (ls : List Nat) (f : Nat → Lane → Lane) : (g.mapLanes ls f).batch = g.batch := rfl
@[simp] theorem mapLanes_wbatch (g : Gang) (ls : List Nat) (f : Nat → Lane → Lane) : (g.mapLanes ls f).wbatch = g.wbatch := rfl
@[simp] theorem mapLanes_waited (g : Gang) (ls : List Nat) (f : Nat → Lane → Lane) : (g.mapLanes ls f).waited = g.waited := rfl
@[simp] theorem mapLanes_fuseTmo (g : Gang) (ls : List Nat) (f : Nat → Lane → Lane) : (g.mapLanes ls f).fuseTmo = g.fuseTmo := rfl
@[simp] theorem mapLanes_trapCode (g : Gang) (ls : List Nat) (f : Nat → Lane → Lane) : (g.mapLanes ls f).trapCode = g.trapCode := rfl
@[simp] theorem mapLanes_trapPc (g : Gang) (ls : List Nat) (f : Nat → Lane → Lane) : (g.mapLanes ls f).trapPc = g.trapPc := rfl
@[simp] theorem mapLanes_trapMask (g : Gang) (ls : List Nat) (f : Nat → Lane → Lane) : (g.mapLanes ls f).trapMask = g.trapMask := rfl
@[simp] theorem mapLanes_trapArg (g : Gang) (ls : List Nat) (f : Nat → Lane → Lane) : (g.mapLanes ls f).trapArg = g.trapArg := rfl
@[simp] theorem mapLanes_trapSplit (g : Gang) (ls : List Nat) (f : Nat → Lane → Lane) : (g.mapLanes ls f).trapSplit = g.trapSplit := rfl
@[simp] theorem mapLanes_tvec (g : Gang) (ls : List Nat) (f : Nat → Lane → Lane) : (g.mapLanes ls f).tvec = g.tvec := rfl
@[simp] theorem mapLanes_argBase (g : Gang) (ls : List Nat) (f : Nat → Lane → Lane) : (g.mapLanes ls f).argBase = g.argBase := rfl
@[simp] theorem mapLanes_accn (g : Gang) (ls : List Nat) (f : Nat → Lane → Lane) : (g.mapLanes ls f).accn = g.accn := rfl
@[simp] theorem mapLanes_propn (g : Gang) (ls : List Nat) (f : Nat → Lane → Lane) : (g.mapLanes ls f).propn = g.propn := rfl
@[simp] theorem mapLanes_proposal (g : Gang) (ls : List Nat) (f : Nat → Lane → Lane) : (g.mapLanes ls f).proposal = g.proposal := rfl
@[simp] theorem mapLanes_ctrs (g : Gang) (ls : List Nat) (f : Nat → Lane → Lane) : (g.mapLanes ls f).ctrs = g.ctrs := rfl
@[simp] theorem mapLanes_failures (g : Gang) (ls : List Nat) (f : Nat → Lane → Lane) : (g.mapLanes ls f).failures = g.failures := rfl
@[simp] theorem mapLanes_splits (g : Gang) (ls : List Nat) (f : Nat → Lane → Lane) : (g.mapLanes ls f).splits = g.splits := rfl
@[simp] theorem mapLanes_ovf (g : Gang) (ls : List Nat) (f : Nat → Lane → Lane) : (g.mapLanes ls f).ovf = g.ovf := rfl
@[simp] theorem mapLanes_lanes (g : Gang) (ls : List Nat) (f : Nat → Lane → Lane) : (g.mapLanes ls f).lanes = mapLanesFrom (fun k l => if ls.contains k then f k l else l) 0 g.lanes := rfl
@[simp] theorem mapLanes_arv (g : Gang) (ls : List Nat) (f : Nat → Lane → Lane) : (g.mapLanes ls f).arv = g.arv := rfl
@[simp] theorem mapLanes_mrow (g : Gang) (ls : List Nat) (f : Nat → Lane → Lane) : (g.mapLanes ls f).mrow = g.mrow := rfl
@[simp] theorem mapLanes_mcol (g : Gang) (ls : List Nat) (f : Nat → Lane → Lane) : (g.mapLanes ls f).mcol = g.mcol := rfl
@[simp] theorem mapLanes_mdep (g : Gang) (ls : List Nat) (f : Nat → Lane → Lane) : (g.mapLanes ls f).mdep = g.mdep := rfl
@[simp] theorem mapLanes_mstat (g : Gang) (ls : List Nat) (f : Nat → Lane → Lane) : (g.mapLanes ls f).mstat = g.mstat := rfl
@[simp] theorem mapLanes_service (g : Gang) (ls : List Nat) (f : Nat → Lane → Lane) : (g.mapLanes ls f).service = g.service := rfl
@[simp] theorem mapLanes_handler (g : Gang) (ls : List Nat) (f : Nat → Lane → Lane) : (g.mapLanes ls f).handler = g.handler := rfl
@[simp] theorem mapLanes_pendingTrap (g : Gang) (ls : List Nat) (f : Nat → Lane → Lane) : (g.mapLanes ls f).pendingTrap = g.pendingTrap := rfl
@[simp] theorem mapLanes_saving (g : Gang) (ls : List Nat) (f : Nat → Lane → Lane) : (g.mapLanes ls f).saving = g.saving := rfl

@[simp] theorem raiseFlags_core (g : Gang) (f : Flags) : (g.raiseFlags f).core = g.core := rfl
@[simp] theorem raiseFlags_id (g : Gang) (f : Flags) : (g.raiseFlags f).id = g.id := rfl
@[simp] theorem raiseFlags_team (g : Gang) (f : Flags) : (g.raiseFlags f).team = g.team := rfl
@[simp] theorem raiseFlags_ctx (g : Gang) (f : Flags) : (g.raiseFlags f).ctx = g.ctx := rfl
@[simp] theorem raiseFlags_launch (g : Gang) (f : Flags) : (g.raiseFlags f).launch = g.launch := rfl
@[simp] theorem raiseFlags_width (g : Gang) (f : Flags) : (g.raiseFlags f).width = g.width := rfl
@[simp] theorem raiseFlags_slice (g : Gang) (f : Flags) : (g.raiseFlags f).slice = g.slice := rfl
@[simp] theorem raiseFlags_level (g : Gang) (f : Flags) : (g.raiseFlags f).level = g.level := rfl
@[simp] theorem raiseFlags_regBytes (g : Gang) (f : Flags) : (g.raiseFlags f).regBytes = g.regBytes := rfl
@[simp] theorem raiseFlags_spBytes (g : Gang) (f : Flags) : (g.raiseFlags f).spBytes = g.spBytes := rfl
@[simp] theorem raiseFlags_vb (g : Gang) (f : Flags) : (g.raiseFlags f).vb = g.vb := rfl
@[simp] theorem raiseFlags_tb (g : Gang) (f : Flags) : (g.raiseFlags f).tb = g.tb := rfl
@[simp] theorem raiseFlags_ab (g : Gang) (f : Flags) : (g.raiseFlags f).ab = g.ab := rfl
@[simp] theorem raiseFlags_fpctl (g : Gang) (f : Flags) : (g.raiseFlags f).fpctl = g.fpctl := rfl
@[simp] theorem raiseFlags_fpflags (g : Gang) (f : Flags) : (g.raiseFlags f).fpflags = g.fpflags ||| f.setWidth 32 := rfl
@[simp] theorem raiseFlags_batch (g : Gang) (f : Flags) : (g.raiseFlags f).batch = g.batch := rfl
@[simp] theorem raiseFlags_wbatch (g : Gang) (f : Flags) : (g.raiseFlags f).wbatch = g.wbatch := rfl
@[simp] theorem raiseFlags_waited (g : Gang) (f : Flags) : (g.raiseFlags f).waited = g.waited := rfl
@[simp] theorem raiseFlags_fuseTmo (g : Gang) (f : Flags) : (g.raiseFlags f).fuseTmo = g.fuseTmo := rfl
@[simp] theorem raiseFlags_trapCode (g : Gang) (f : Flags) : (g.raiseFlags f).trapCode = g.trapCode := rfl
@[simp] theorem raiseFlags_trapPc (g : Gang) (f : Flags) : (g.raiseFlags f).trapPc = g.trapPc := rfl
@[simp] theorem raiseFlags_trapMask (g : Gang) (f : Flags) : (g.raiseFlags f).trapMask = g.trapMask := rfl
@[simp] theorem raiseFlags_trapArg (g : Gang) (f : Flags) : (g.raiseFlags f).trapArg = g.trapArg := rfl
@[simp] theorem raiseFlags_trapSplit (g : Gang) (f : Flags) : (g.raiseFlags f).trapSplit = g.trapSplit := rfl
@[simp] theorem raiseFlags_tvec (g : Gang) (f : Flags) : (g.raiseFlags f).tvec = g.tvec := rfl
@[simp] theorem raiseFlags_argBase (g : Gang) (f : Flags) : (g.raiseFlags f).argBase = g.argBase := rfl
@[simp] theorem raiseFlags_accn (g : Gang) (f : Flags) : (g.raiseFlags f).accn = g.accn := rfl
@[simp] theorem raiseFlags_propn (g : Gang) (f : Flags) : (g.raiseFlags f).propn = g.propn := rfl
@[simp] theorem raiseFlags_proposal (g : Gang) (f : Flags) : (g.raiseFlags f).proposal = g.proposal := rfl
@[simp] theorem raiseFlags_ctrs (g : Gang) (f : Flags) : (g.raiseFlags f).ctrs = g.ctrs := rfl
@[simp] theorem raiseFlags_failures (g : Gang) (f : Flags) : (g.raiseFlags f).failures = g.failures := rfl
@[simp] theorem raiseFlags_splits (g : Gang) (f : Flags) : (g.raiseFlags f).splits = g.splits := rfl
@[simp] theorem raiseFlags_ovf (g : Gang) (f : Flags) : (g.raiseFlags f).ovf = g.ovf := rfl
@[simp] theorem raiseFlags_lanes (g : Gang) (f : Flags) : (g.raiseFlags f).lanes = g.lanes := rfl
@[simp] theorem raiseFlags_arv (g : Gang) (f : Flags) : (g.raiseFlags f).arv = g.arv := rfl
@[simp] theorem raiseFlags_mrow (g : Gang) (f : Flags) : (g.raiseFlags f).mrow = g.mrow := rfl
@[simp] theorem raiseFlags_mcol (g : Gang) (f : Flags) : (g.raiseFlags f).mcol = g.mcol := rfl
@[simp] theorem raiseFlags_mdep (g : Gang) (f : Flags) : (g.raiseFlags f).mdep = g.mdep := rfl
@[simp] theorem raiseFlags_mstat (g : Gang) (f : Flags) : (g.raiseFlags f).mstat = g.mstat := rfl
@[simp] theorem raiseFlags_service (g : Gang) (f : Flags) : (g.raiseFlags f).service = g.service := rfl
@[simp] theorem raiseFlags_handler (g : Gang) (f : Flags) : (g.raiseFlags f).handler = g.handler := rfl
@[simp] theorem raiseFlags_pendingTrap (g : Gang) (f : Flags) : (g.raiseFlags f).pendingTrap = g.pendingTrap := rfl
@[simp] theorem raiseFlags_saving (g : Gang) (f : Flags) : (g.raiseFlags f).saving = g.saving := rfl

@[simp] theorem setSplit_core (g : Gang) (i : Nat) (sp : Option Split) : (g.setSplit i sp).core = g.core := rfl
@[simp] theorem setSplit_id (g : Gang) (i : Nat) (sp : Option Split) : (g.setSplit i sp).id = g.id := rfl
@[simp] theorem setSplit_team (g : Gang) (i : Nat) (sp : Option Split) : (g.setSplit i sp).team = g.team := rfl
@[simp] theorem setSplit_ctx (g : Gang) (i : Nat) (sp : Option Split) : (g.setSplit i sp).ctx = g.ctx := rfl
@[simp] theorem setSplit_launch (g : Gang) (i : Nat) (sp : Option Split) : (g.setSplit i sp).launch = g.launch := rfl
@[simp] theorem setSplit_width (g : Gang) (i : Nat) (sp : Option Split) : (g.setSplit i sp).width = g.width := rfl
@[simp] theorem setSplit_slice (g : Gang) (i : Nat) (sp : Option Split) : (g.setSplit i sp).slice = g.slice := rfl
@[simp] theorem setSplit_level (g : Gang) (i : Nat) (sp : Option Split) : (g.setSplit i sp).level = g.level := rfl
@[simp] theorem setSplit_regBytes (g : Gang) (i : Nat) (sp : Option Split) : (g.setSplit i sp).regBytes = g.regBytes := rfl
@[simp] theorem setSplit_spBytes (g : Gang) (i : Nat) (sp : Option Split) : (g.setSplit i sp).spBytes = g.spBytes := rfl
@[simp] theorem setSplit_vb (g : Gang) (i : Nat) (sp : Option Split) : (g.setSplit i sp).vb = g.vb := rfl
@[simp] theorem setSplit_tb (g : Gang) (i : Nat) (sp : Option Split) : (g.setSplit i sp).tb = g.tb := rfl
@[simp] theorem setSplit_ab (g : Gang) (i : Nat) (sp : Option Split) : (g.setSplit i sp).ab = g.ab := rfl
@[simp] theorem setSplit_fpctl (g : Gang) (i : Nat) (sp : Option Split) : (g.setSplit i sp).fpctl = g.fpctl := rfl
@[simp] theorem setSplit_fpflags (g : Gang) (i : Nat) (sp : Option Split) : (g.setSplit i sp).fpflags = g.fpflags := rfl
@[simp] theorem setSplit_batch (g : Gang) (i : Nat) (sp : Option Split) : (g.setSplit i sp).batch = g.batch := rfl
@[simp] theorem setSplit_wbatch (g : Gang) (i : Nat) (sp : Option Split) : (g.setSplit i sp).wbatch = g.wbatch := rfl
@[simp] theorem setSplit_waited (g : Gang) (i : Nat) (sp : Option Split) : (g.setSplit i sp).waited = g.waited := rfl
@[simp] theorem setSplit_fuseTmo (g : Gang) (i : Nat) (sp : Option Split) : (g.setSplit i sp).fuseTmo = g.fuseTmo := rfl
@[simp] theorem setSplit_trapCode (g : Gang) (i : Nat) (sp : Option Split) : (g.setSplit i sp).trapCode = g.trapCode := rfl
@[simp] theorem setSplit_trapPc (g : Gang) (i : Nat) (sp : Option Split) : (g.setSplit i sp).trapPc = g.trapPc := rfl
@[simp] theorem setSplit_trapMask (g : Gang) (i : Nat) (sp : Option Split) : (g.setSplit i sp).trapMask = g.trapMask := rfl
@[simp] theorem setSplit_trapArg (g : Gang) (i : Nat) (sp : Option Split) : (g.setSplit i sp).trapArg = g.trapArg := rfl
@[simp] theorem setSplit_trapSplit (g : Gang) (i : Nat) (sp : Option Split) : (g.setSplit i sp).trapSplit = g.trapSplit := rfl
@[simp] theorem setSplit_tvec (g : Gang) (i : Nat) (sp : Option Split) : (g.setSplit i sp).tvec = g.tvec := rfl
@[simp] theorem setSplit_argBase (g : Gang) (i : Nat) (sp : Option Split) : (g.setSplit i sp).argBase = g.argBase := rfl
@[simp] theorem setSplit_accn (g : Gang) (i : Nat) (sp : Option Split) : (g.setSplit i sp).accn = g.accn := rfl
@[simp] theorem setSplit_propn (g : Gang) (i : Nat) (sp : Option Split) : (g.setSplit i sp).propn = g.propn := rfl
@[simp] theorem setSplit_proposal (g : Gang) (i : Nat) (sp : Option Split) : (g.setSplit i sp).proposal = g.proposal := rfl
@[simp] theorem setSplit_ctrs (g : Gang) (i : Nat) (sp : Option Split) : (g.setSplit i sp).ctrs = g.ctrs := rfl
@[simp] theorem setSplit_failures (g : Gang) (i : Nat) (sp : Option Split) : (g.setSplit i sp).failures = g.failures := rfl
@[simp] theorem setSplit_splits (g : Gang) (i : Nat) (sp : Option Split) : (g.setSplit i sp).splits = g.splits.set i sp := rfl
@[simp] theorem setSplit_ovf (g : Gang) (i : Nat) (sp : Option Split) : (g.setSplit i sp).ovf = g.ovf := rfl
@[simp] theorem setSplit_lanes (g : Gang) (i : Nat) (sp : Option Split) : (g.setSplit i sp).lanes = g.lanes := rfl
@[simp] theorem setSplit_arv (g : Gang) (i : Nat) (sp : Option Split) : (g.setSplit i sp).arv = g.arv := rfl
@[simp] theorem setSplit_mrow (g : Gang) (i : Nat) (sp : Option Split) : (g.setSplit i sp).mrow = g.mrow := rfl
@[simp] theorem setSplit_mcol (g : Gang) (i : Nat) (sp : Option Split) : (g.setSplit i sp).mcol = g.mcol := rfl
@[simp] theorem setSplit_mdep (g : Gang) (i : Nat) (sp : Option Split) : (g.setSplit i sp).mdep = g.mdep := rfl
@[simp] theorem setSplit_mstat (g : Gang) (i : Nat) (sp : Option Split) : (g.setSplit i sp).mstat = g.mstat := rfl
@[simp] theorem setSplit_service (g : Gang) (i : Nat) (sp : Option Split) : (g.setSplit i sp).service = g.service := rfl
@[simp] theorem setSplit_handler (g : Gang) (i : Nat) (sp : Option Split) : (g.setSplit i sp).handler = g.handler := rfl
@[simp] theorem setSplit_pendingTrap (g : Gang) (i : Nat) (sp : Option Split) : (g.setSplit i sp).pendingTrap = g.pendingTrap := rfl
@[simp] theorem setSplit_saving (g : Gang) (i : Nat) (sp : Option Split) : (g.setSplit i sp).saving = g.saving := rfl

@[simp] theorem setCtr_core (g : Gang) (c n : Nat) : (g.setCtr c n).core = g.core := rfl
@[simp] theorem setCtr_id (g : Gang) (c n : Nat) : (g.setCtr c n).id = g.id := rfl
@[simp] theorem setCtr_team (g : Gang) (c n : Nat) : (g.setCtr c n).team = g.team := rfl
@[simp] theorem setCtr_ctx (g : Gang) (c n : Nat) : (g.setCtr c n).ctx = g.ctx := rfl
@[simp] theorem setCtr_launch (g : Gang) (c n : Nat) : (g.setCtr c n).launch = g.launch := rfl
@[simp] theorem setCtr_width (g : Gang) (c n : Nat) : (g.setCtr c n).width = g.width := rfl
@[simp] theorem setCtr_slice (g : Gang) (c n : Nat) : (g.setCtr c n).slice = g.slice := rfl
@[simp] theorem setCtr_level (g : Gang) (c n : Nat) : (g.setCtr c n).level = g.level := rfl
@[simp] theorem setCtr_regBytes (g : Gang) (c n : Nat) : (g.setCtr c n).regBytes = g.regBytes := rfl
@[simp] theorem setCtr_spBytes (g : Gang) (c n : Nat) : (g.setCtr c n).spBytes = g.spBytes := rfl
@[simp] theorem setCtr_vb (g : Gang) (c n : Nat) : (g.setCtr c n).vb = g.vb := rfl
@[simp] theorem setCtr_tb (g : Gang) (c n : Nat) : (g.setCtr c n).tb = g.tb := rfl
@[simp] theorem setCtr_ab (g : Gang) (c n : Nat) : (g.setCtr c n).ab = g.ab := rfl
@[simp] theorem setCtr_fpctl (g : Gang) (c n : Nat) : (g.setCtr c n).fpctl = g.fpctl := rfl
@[simp] theorem setCtr_fpflags (g : Gang) (c n : Nat) : (g.setCtr c n).fpflags = g.fpflags := rfl
@[simp] theorem setCtr_batch (g : Gang) (c n : Nat) : (g.setCtr c n).batch = g.batch := rfl
@[simp] theorem setCtr_wbatch (g : Gang) (c n : Nat) : (g.setCtr c n).wbatch = g.wbatch := rfl
@[simp] theorem setCtr_waited (g : Gang) (c n : Nat) : (g.setCtr c n).waited = g.waited := rfl
@[simp] theorem setCtr_fuseTmo (g : Gang) (c n : Nat) : (g.setCtr c n).fuseTmo = g.fuseTmo := rfl
@[simp] theorem setCtr_trapCode (g : Gang) (c n : Nat) : (g.setCtr c n).trapCode = g.trapCode := rfl
@[simp] theorem setCtr_trapPc (g : Gang) (c n : Nat) : (g.setCtr c n).trapPc = g.trapPc := rfl
@[simp] theorem setCtr_trapMask (g : Gang) (c n : Nat) : (g.setCtr c n).trapMask = g.trapMask := rfl
@[simp] theorem setCtr_trapArg (g : Gang) (c n : Nat) : (g.setCtr c n).trapArg = g.trapArg := rfl
@[simp] theorem setCtr_trapSplit (g : Gang) (c n : Nat) : (g.setCtr c n).trapSplit = g.trapSplit := rfl
@[simp] theorem setCtr_tvec (g : Gang) (c n : Nat) : (g.setCtr c n).tvec = g.tvec := rfl
@[simp] theorem setCtr_argBase (g : Gang) (c n : Nat) : (g.setCtr c n).argBase = g.argBase := rfl
@[simp] theorem setCtr_accn (g : Gang) (c n : Nat) : (g.setCtr c n).accn = g.accn := rfl
@[simp] theorem setCtr_propn (g : Gang) (c n : Nat) : (g.setCtr c n).propn = g.propn := rfl
@[simp] theorem setCtr_proposal (g : Gang) (c n : Nat) : (g.setCtr c n).proposal = g.proposal := rfl
@[simp] theorem setCtr_ctrs (g : Gang) (c n : Nat) : (g.setCtr c n).ctrs = if n = 0 then tdel g.ctrs c else tput g.ctrs c n := rfl
@[simp] theorem setCtr_failures (g : Gang) (c n : Nat) : (g.setCtr c n).failures = g.failures := rfl
@[simp] theorem setCtr_splits (g : Gang) (c n : Nat) : (g.setCtr c n).splits = g.splits := rfl
@[simp] theorem setCtr_ovf (g : Gang) (c n : Nat) : (g.setCtr c n).ovf = g.ovf := rfl
@[simp] theorem setCtr_lanes (g : Gang) (c n : Nat) : (g.setCtr c n).lanes = g.lanes := rfl
@[simp] theorem setCtr_arv (g : Gang) (c n : Nat) : (g.setCtr c n).arv = g.arv := rfl
@[simp] theorem setCtr_mrow (g : Gang) (c n : Nat) : (g.setCtr c n).mrow = g.mrow := rfl
@[simp] theorem setCtr_mcol (g : Gang) (c n : Nat) : (g.setCtr c n).mcol = g.mcol := rfl
@[simp] theorem setCtr_mdep (g : Gang) (c n : Nat) : (g.setCtr c n).mdep = g.mdep := rfl
@[simp] theorem setCtr_mstat (g : Gang) (c n : Nat) : (g.setCtr c n).mstat = g.mstat := rfl
@[simp] theorem setCtr_service (g : Gang) (c n : Nat) : (g.setCtr c n).service = g.service := rfl
@[simp] theorem setCtr_handler (g : Gang) (c n : Nat) : (g.setCtr c n).handler = g.handler := rfl
@[simp] theorem setCtr_pendingTrap (g : Gang) (c n : Nat) : (g.setCtr c n).pendingTrap = g.pendingTrap := rfl
@[simp] theorem setCtr_saving (g : Gang) (c n : Nat) : (g.setCtr c n).saving = g.saving := rfl

@[simp] theorem putPred_regs (o : Opnd) (b : Bool) (l : Lane) : (putPred o b l).regs = l.regs := rfl
@[simp] theorem putPred_poison (o : Opnd) (b : Bool) (l : Lane) : (putPred o b l).poison = l.poison := rfl
@[simp] theorem putPred_ofile (o : Opnd) (b : Bool) (l : Lane) : (putPred o b l).ofile = l.ofile := rfl
@[simp] theorem putPred_preds (o : Opnd) (b : Bool) (l : Lane) : (putPred o b l).preds = setBit l.preds (o.toNat % 8) b := rfl
@[simp] theorem putPred_latch (o : Opnd) (b : Bool) (l : Lane) : (putPred o b l).latch = l.latch := rfl
@[simp] theorem putPred_rand (o : Opnd) (b : Bool) (l : Lane) : (putPred o b l).rand = l.rand := rfl
@[simp] theorem putPred_live (o : Opnd) (b : Bool) (l : Lane) : (putPred o b l).live = l.live := rfl
@[simp] theorem putPred_takes (o : Opnd) (b : Bool) (l : Lane) : (putPred o b l).takes = l.takes := rfl
@[simp] theorem putPred_shadow (o : Opnd) (b : Bool) (l : Lane) : (putPred o b l).shadow = l.shadow := rfl
@[simp] theorem putPred_bank (o : Opnd) (b : Bool) (l : Lane) : (putPred o b l).bank = l.bank := rfl
@[simp] theorem putPred_written (o : Opnd) (b : Bool) (l : Lane) : (putPred o b l).written = l.written := rfl
@[simp] theorem putPred_shPoison (o : Opnd) (b : Bool) (l : Lane) : (putPred o b l).shPoison = l.shPoison := rfl
@[simp] theorem putPred_umbra (o : Opnd) (b : Bool) (l : Lane) : (putPred o b l).umbra = l.umbra := rfl

@[simp] theorem resPred_regs (o : Opnd) (b : Bool) (l : Lane) : (resPred o b l).regs = l.regs := rfl
@[simp] theorem resPred_poison (o : Opnd) (b : Bool) (l : Lane) : (resPred o b l).poison = l.poison := rfl
@[simp] theorem resPred_ofile (o : Opnd) (b : Bool) (l : Lane) : (resPred o b l).ofile = l.ofile := rfl
@[simp] theorem resPred_preds (o : Opnd) (b : Bool) (l : Lane) : (resPred o b l).preds = setBit l.preds (o.toNat % 8) b := rfl
@[simp] theorem resPred_latch (o : Opnd) (b : Bool) (l : Lane) : (resPred o b l).latch = some (if b then 1 else 0) := rfl
@[simp] theorem resPred_rand (o : Opnd) (b : Bool) (l : Lane) : (resPred o b l).rand = l.rand := rfl
@[simp] theorem resPred_live (o : Opnd) (b : Bool) (l : Lane) : (resPred o b l).live = l.live := rfl
@[simp] theorem resPred_takes (o : Opnd) (b : Bool) (l : Lane) : (resPred o b l).takes = l.takes := rfl
@[simp] theorem resPred_shadow (o : Opnd) (b : Bool) (l : Lane) : (resPred o b l).shadow = l.shadow := rfl
@[simp] theorem resPred_bank (o : Opnd) (b : Bool) (l : Lane) : (resPred o b l).bank = l.bank := rfl
@[simp] theorem resPred_written (o : Opnd) (b : Bool) (l : Lane) : (resPred o b l).written = l.written := rfl
@[simp] theorem resPred_shPoison (o : Opnd) (b : Bool) (l : Lane) : (resPred o b l).shPoison = l.shPoison := rfl
@[simp] theorem resPred_umbra (o : Opnd) (b : Bool) (l : Lane) : (resPred o b l).umbra = l.umbra := rfl

@[simp] theorem setCtxRec_mem (s : State) (die c : Nat) (r : CtxRec) : (s.setCtxRec die c r).mem = s.mem := rfl
@[simp] theorem setCtxRec_gangs (s : State) (die c : Nat) (r : CtxRec) : (s.setCtxRec die c r).gangs = s.gangs := rfl
@[simp] theorem setCtxRec_teams (s : State) (die c : Nat) (r : CtxRec) : (s.setCtxRec die c r).teams = s.teams := rfl
@[simp] theorem setCtxRec_cores (s : State) (die c : Nat) (r : CtxRec) : (s.setCtxRec die c r).cores = s.cores := rfl
@[simp] theorem setCtxRec_dies (s : State) (die c : Nat) (r : CtxRec) : (s.setCtxRec die c r).dies = tput s.dies die { s.die die with recs := tput (s.die die).recs c r } := rfl
@[simp] theorem setCtxRec_bases (s : State) (die c : Nat) (r : CtxRec) : (s.setCtxRec die c r).bases = s.bases := rfl
@[simp] theorem setCtxRec_ctxs (s : State) (die c : Nat) (r : CtxRec) : (s.setCtxRec die c r).ctxs = s.ctxs := rfl
@[simp] theorem setCtxRec_launches (s : State) (die c : Nat) (r : CtxRec) : (s.setCtxRec die c r).launches = s.launches := rfl
@[simp] theorem setCtxRec_pkg (s : State) (die c : Nat) (r : CtxRec) : (s.setCtxRec die c r).pkg = s.pkg := rfl
@[simp] theorem setCtxRec_flight (s : State) (die c : Nat) (r : CtxRec) : (s.setCtxRec die c r).flight = s.flight := rfl
@[simp] theorem setCtxRec_agenda (s : State) (die c : Nat) (r : CtxRec) : (s.setCtxRec die c r).agenda = s.agenda := rfl
@[simp] theorem setCtxRec_inputs (s : State) (die c : Nat) (r : CtxRec) : (s.setCtxRec die c r).inputs = s.inputs := rfl
@[simp] theorem setCtxRec_schedule (s : State) (die c : Nat) (r : CtxRec) : (s.setCtxRec die c r).schedule = s.schedule := rfl
@[simp] theorem setCtxRec_cursor (s : State) (die c : Nat) (r : CtxRec) : (s.setCtxRec die c r).cursor = s.cursor := rfl
@[simp] theorem setCtxRec_asked (s : State) (die c : Nat) (r : CtxRec) : (s.setCtxRec die c r).asked = s.asked := rfl
@[simp] theorem setCtxRec_asks (s : State) (die c : Nat) (r : CtxRec) : (s.setCtxRec die c r).asks = s.asks := rfl
@[simp] theorem setCtxRec_spent (s : State) (die c : Nat) (r : CtxRec) : (s.setCtxRec die c r).spent = s.spent := rfl
@[simp] theorem setCtxRec_nextOp (s : State) (die c : Nat) (r : CtxRec) : (s.setCtxRec die c r).nextOp = s.nextOp := rfl
@[simp] theorem setCtxRec_steps (s : State) (die c : Nat) (r : CtxRec) : (s.setCtxRec die c r).steps = s.steps := rfl

@[simp] theorem setQueue_mem (s : State) (die q : Nat) (x : Queue) : (s.setQueue die q x).mem = s.mem := rfl
@[simp] theorem setQueue_gangs (s : State) (die q : Nat) (x : Queue) : (s.setQueue die q x).gangs = s.gangs := rfl
@[simp] theorem setQueue_teams (s : State) (die q : Nat) (x : Queue) : (s.setQueue die q x).teams = s.teams := rfl
@[simp] theorem setQueue_cores (s : State) (die q : Nat) (x : Queue) : (s.setQueue die q x).cores = s.cores := rfl
@[simp] theorem setQueue_dies (s : State) (die q : Nat) (x : Queue) : (s.setQueue die q x).dies = tput s.dies die { s.die die with queues := tput (s.die die).queues q x } := rfl
@[simp] theorem setQueue_bases (s : State) (die q : Nat) (x : Queue) : (s.setQueue die q x).bases = s.bases := rfl
@[simp] theorem setQueue_ctxs (s : State) (die q : Nat) (x : Queue) : (s.setQueue die q x).ctxs = s.ctxs := rfl
@[simp] theorem setQueue_launches (s : State) (die q : Nat) (x : Queue) : (s.setQueue die q x).launches = s.launches := rfl
@[simp] theorem setQueue_pkg (s : State) (die q : Nat) (x : Queue) : (s.setQueue die q x).pkg = s.pkg := rfl
@[simp] theorem setQueue_flight (s : State) (die q : Nat) (x : Queue) : (s.setQueue die q x).flight = s.flight := rfl
@[simp] theorem setQueue_agenda (s : State) (die q : Nat) (x : Queue) : (s.setQueue die q x).agenda = s.agenda := rfl
@[simp] theorem setQueue_inputs (s : State) (die q : Nat) (x : Queue) : (s.setQueue die q x).inputs = s.inputs := rfl
@[simp] theorem setQueue_schedule (s : State) (die q : Nat) (x : Queue) : (s.setQueue die q x).schedule = s.schedule := rfl
@[simp] theorem setQueue_cursor (s : State) (die q : Nat) (x : Queue) : (s.setQueue die q x).cursor = s.cursor := rfl
@[simp] theorem setQueue_asked (s : State) (die q : Nat) (x : Queue) : (s.setQueue die q x).asked = s.asked := rfl
@[simp] theorem setQueue_asks (s : State) (die q : Nat) (x : Queue) : (s.setQueue die q x).asks = s.asks := rfl
@[simp] theorem setQueue_spent (s : State) (die q : Nat) (x : Queue) : (s.setQueue die q x).spent = s.spent := rfl
@[simp] theorem setQueue_nextOp (s : State) (die q : Nat) (x : Queue) : (s.setQueue die q x).nextOp = s.nextOp := rfl
@[simp] theorem setQueue_steps (s : State) (die q : Nat) (x : Queue) : (s.setQueue die q x).steps = s.steps := rfl

@[simp] theorem setChan_mem (s : State) (die k : Nat) (c : Chan) : (s.setChan die k c).mem = s.mem := rfl
@[simp] theorem setChan_gangs (s : State) (die k : Nat) (c : Chan) : (s.setChan die k c).gangs = s.gangs := rfl
@[simp] theorem setChan_teams (s : State) (die k : Nat) (c : Chan) : (s.setChan die k c).teams = s.teams := rfl
@[simp] theorem setChan_cores (s : State) (die k : Nat) (c : Chan) : (s.setChan die k c).cores = s.cores := rfl
@[simp] theorem setChan_dies (s : State) (die k : Nat) (c : Chan) : (s.setChan die k c).dies = tput s.dies die { s.die die with chans := tput (s.die die).chans k c } := rfl
@[simp] theorem setChan_bases (s : State) (die k : Nat) (c : Chan) : (s.setChan die k c).bases = s.bases := rfl
@[simp] theorem setChan_ctxs (s : State) (die k : Nat) (c : Chan) : (s.setChan die k c).ctxs = s.ctxs := rfl
@[simp] theorem setChan_launches (s : State) (die k : Nat) (c : Chan) : (s.setChan die k c).launches = s.launches := rfl
@[simp] theorem setChan_pkg (s : State) (die k : Nat) (c : Chan) : (s.setChan die k c).pkg = s.pkg := rfl
@[simp] theorem setChan_flight (s : State) (die k : Nat) (c : Chan) : (s.setChan die k c).flight = s.flight := rfl
@[simp] theorem setChan_agenda (s : State) (die k : Nat) (c : Chan) : (s.setChan die k c).agenda = s.agenda := rfl
@[simp] theorem setChan_inputs (s : State) (die k : Nat) (c : Chan) : (s.setChan die k c).inputs = s.inputs := rfl
@[simp] theorem setChan_schedule (s : State) (die k : Nat) (c : Chan) : (s.setChan die k c).schedule = s.schedule := rfl
@[simp] theorem setChan_cursor (s : State) (die k : Nat) (c : Chan) : (s.setChan die k c).cursor = s.cursor := rfl
@[simp] theorem setChan_asked (s : State) (die k : Nat) (c : Chan) : (s.setChan die k c).asked = s.asked := rfl
@[simp] theorem setChan_asks (s : State) (die k : Nat) (c : Chan) : (s.setChan die k c).asks = s.asks := rfl
@[simp] theorem setChan_spent (s : State) (die k : Nat) (c : Chan) : (s.setChan die k c).spent = s.spent := rfl
@[simp] theorem setChan_nextOp (s : State) (die k : Nat) (c : Chan) : (s.setChan die k c).nextOp = s.nextOp := rfl
@[simp] theorem setChan_steps (s : State) (die k : Nat) (c : Chan) : (s.setChan die k c).steps = s.steps := rfl

@[simp] theorem setACtx_mem (s : State) (sock k : Nat) (x : ACtx) : (s.setACtx sock k x).mem = s.mem := rfl
@[simp] theorem setACtx_gangs (s : State) (sock k : Nat) (x : ACtx) : (s.setACtx sock k x).gangs = s.gangs := rfl
@[simp] theorem setACtx_teams (s : State) (sock k : Nat) (x : ACtx) : (s.setACtx sock k x).teams = s.teams := rfl
@[simp] theorem setACtx_cores (s : State) (sock k : Nat) (x : ACtx) : (s.setACtx sock k x).cores = s.cores := rfl
@[simp] theorem setACtx_dies (s : State) (sock k : Nat) (x : ACtx) : (s.setACtx sock k x).dies = s.dies := rfl
@[simp] theorem setACtx_bases (s : State) (sock k : Nat) (x : ACtx) : (s.setACtx sock k x).bases = tput s.bases sock { s.base sock with actxs := tput (s.base sock).actxs k x } := rfl
@[simp] theorem setACtx_ctxs (s : State) (sock k : Nat) (x : ACtx) : (s.setACtx sock k x).ctxs = s.ctxs := rfl
@[simp] theorem setACtx_launches (s : State) (sock k : Nat) (x : ACtx) : (s.setACtx sock k x).launches = s.launches := rfl
@[simp] theorem setACtx_pkg (s : State) (sock k : Nat) (x : ACtx) : (s.setACtx sock k x).pkg = s.pkg := rfl
@[simp] theorem setACtx_flight (s : State) (sock k : Nat) (x : ACtx) : (s.setACtx sock k x).flight = s.flight := rfl
@[simp] theorem setACtx_agenda (s : State) (sock k : Nat) (x : ACtx) : (s.setACtx sock k x).agenda = s.agenda := rfl
@[simp] theorem setACtx_inputs (s : State) (sock k : Nat) (x : ACtx) : (s.setACtx sock k x).inputs = s.inputs := rfl
@[simp] theorem setACtx_schedule (s : State) (sock k : Nat) (x : ACtx) : (s.setACtx sock k x).schedule = s.schedule := rfl
@[simp] theorem setACtx_cursor (s : State) (sock k : Nat) (x : ACtx) : (s.setACtx sock k x).cursor = s.cursor := rfl
@[simp] theorem setACtx_asked (s : State) (sock k : Nat) (x : ACtx) : (s.setACtx sock k x).asked = s.asked := rfl
@[simp] theorem setACtx_asks (s : State) (sock k : Nat) (x : ACtx) : (s.setACtx sock k x).asks = s.asks := rfl
@[simp] theorem setACtx_spent (s : State) (sock k : Nat) (x : ACtx) : (s.setACtx sock k x).spent = s.spent := rfl
@[simp] theorem setACtx_nextOp (s : State) (sock k : Nat) (x : ACtx) : (s.setACtx sock k x).nextOp = s.nextOp := rfl
@[simp] theorem setACtx_steps (s : State) (sock k : Nat) (x : ACtx) : (s.setACtx sock k x).steps = s.steps := rfl

@[simp] theorem setLink_mem (s : State) (r port : Nat) (l : Link) : (s.setLink r port l).mem = s.mem := rfl
@[simp] theorem setLink_gangs (s : State) (r port : Nat) (l : Link) : (s.setLink r port l).gangs = s.gangs := rfl
@[simp] theorem setLink_teams (s : State) (r port : Nat) (l : Link) : (s.setLink r port l).teams = s.teams := rfl
@[simp] theorem setLink_cores (s : State) (r port : Nat) (l : Link) : (s.setLink r port l).cores = s.cores := rfl
@[simp] theorem setLink_dies (s : State) (r port : Nat) (l : Link) : (s.setLink r port l).dies = s.dies := rfl
@[simp] theorem setLink_bases (s : State) (r port : Nat) (l : Link) : (s.setLink r port l).bases = tput s.bases r { s.base r with links := tput (s.base r).links port l } := rfl
@[simp] theorem setLink_ctxs (s : State) (r port : Nat) (l : Link) : (s.setLink r port l).ctxs = s.ctxs := rfl
@[simp] theorem setLink_launches (s : State) (r port : Nat) (l : Link) : (s.setLink r port l).launches = s.launches := rfl
@[simp] theorem setLink_pkg (s : State) (r port : Nat) (l : Link) : (s.setLink r port l).pkg = s.pkg := rfl
@[simp] theorem setLink_flight (s : State) (r port : Nat) (l : Link) : (s.setLink r port l).flight = s.flight := rfl
@[simp] theorem setLink_agenda (s : State) (r port : Nat) (l : Link) : (s.setLink r port l).agenda = s.agenda := rfl
@[simp] theorem setLink_inputs (s : State) (r port : Nat) (l : Link) : (s.setLink r port l).inputs = s.inputs := rfl
@[simp] theorem setLink_schedule (s : State) (r port : Nat) (l : Link) : (s.setLink r port l).schedule = s.schedule := rfl
@[simp] theorem setLink_cursor (s : State) (r port : Nat) (l : Link) : (s.setLink r port l).cursor = s.cursor := rfl
@[simp] theorem setLink_asked (s : State) (r port : Nat) (l : Link) : (s.setLink r port l).asked = s.asked := rfl
@[simp] theorem setLink_asks (s : State) (r port : Nat) (l : Link) : (s.setLink r port l).asks = s.asks := rfl
@[simp] theorem setLink_spent (s : State) (r port : Nat) (l : Link) : (s.setLink r port l).spent = s.spent := rfl
@[simp] theorem setLink_nextOp (s : State) (r port : Nat) (l : Link) : (s.setLink r port l).nextOp = s.nextOp := rfl
@[simp] theorem setLink_steps (s : State) (r port : Nat) (l : Link) : (s.setLink r port l).steps = s.steps := rfl

@[simp] theorem setErrlog_mem (s : State) (m : Mail) (l : ErrLog) : (s.setErrlog m l).mem = s.mem := rfl
@[simp] theorem setErrlog_gangs (s : State) (m : Mail) (l : ErrLog) : (s.setErrlog m l).gangs = s.gangs := rfl
@[simp] theorem setErrlog_teams (s : State) (m : Mail) (l : ErrLog) : (s.setErrlog m l).teams = s.teams := rfl
@[simp] theorem setErrlog_cores (s : State) (m : Mail) (l : ErrLog) : (s.setErrlog m l).cores = s.cores := rfl
@[simp] theorem setErrlog_dies (s : State) (m : Mail) (l : ErrLog) : (s.setErrlog m l).dies = s.dies := rfl
@[simp] theorem setErrlog_bases (s : State) (m : Mail) (l : ErrLog) : (s.setErrlog m l).bases = s.bases := rfl
@[simp] theorem setErrlog_ctxs (s : State) (m : Mail) (l : ErrLog) : (s.setErrlog m l).ctxs = s.ctxs := rfl
@[simp] theorem setErrlog_launches (s : State) (m : Mail) (l : ErrLog) : (s.setErrlog m l).launches = s.launches := rfl
@[simp] theorem setErrlog_pkg (s : State) (m : Mail) (l : ErrLog) : (s.setErrlog m l).pkg = { s.pkg with errlogs := tput s.pkg.errlogs m.sock l } := rfl
@[simp] theorem setErrlog_flight (s : State) (m : Mail) (l : ErrLog) : (s.setErrlog m l).flight = s.flight := rfl
@[simp] theorem setErrlog_agenda (s : State) (m : Mail) (l : ErrLog) : (s.setErrlog m l).agenda = s.agenda := rfl
@[simp] theorem setErrlog_inputs (s : State) (m : Mail) (l : ErrLog) : (s.setErrlog m l).inputs = s.inputs := rfl
@[simp] theorem setErrlog_schedule (s : State) (m : Mail) (l : ErrLog) : (s.setErrlog m l).schedule = s.schedule := rfl
@[simp] theorem setErrlog_cursor (s : State) (m : Mail) (l : ErrLog) : (s.setErrlog m l).cursor = s.cursor := rfl
@[simp] theorem setErrlog_asked (s : State) (m : Mail) (l : ErrLog) : (s.setErrlog m l).asked = s.asked := rfl
@[simp] theorem setErrlog_asks (s : State) (m : Mail) (l : ErrLog) : (s.setErrlog m l).asks = s.asks := rfl
@[simp] theorem setErrlog_spent (s : State) (m : Mail) (l : ErrLog) : (s.setErrlog m l).spent = s.spent := rfl
@[simp] theorem setErrlog_nextOp (s : State) (m : Mail) (l : ErrLog) : (s.setErrlog m l).nextOp = s.nextOp := rfl
@[simp] theorem setErrlog_steps (s : State) (m : Mail) (l : ErrLog) : (s.setErrlog m l).steps = s.steps := rfl

@[simp] theorem setRing_mem (s : State) (m : Mail) (r : Ring) : (s.setRing m r).mem = s.mem := rfl
@[simp] theorem setRing_gangs (s : State) (m : Mail) (r : Ring) : (s.setRing m r).gangs = s.gangs := rfl
@[simp] theorem setRing_teams (s : State) (m : Mail) (r : Ring) : (s.setRing m r).teams = s.teams := rfl
@[simp] theorem setRing_cores (s : State) (m : Mail) (r : Ring) : (s.setRing m r).cores = s.cores := rfl
@[simp] theorem setRing_dies (s : State) (m : Mail) (r : Ring) : (s.setRing m r).dies = s.dies := rfl
@[simp] theorem setRing_bases (s : State) (m : Mail) (r : Ring) : (s.setRing m r).bases = s.bases := rfl
@[simp] theorem setRing_ctxs (s : State) (m : Mail) (r : Ring) : (s.setRing m r).ctxs = s.ctxs := rfl
@[simp] theorem setRing_launches (s : State) (m : Mail) (r : Ring) : (s.setRing m r).launches = s.launches := rfl
@[simp] theorem setRing_pkg (s : State) (m : Mail) (r : Ring) : (s.setRing m r).pkg = { s.pkg with rings := tput s.pkg.rings m.sock r } := rfl
@[simp] theorem setRing_flight (s : State) (m : Mail) (r : Ring) : (s.setRing m r).flight = s.flight := rfl
@[simp] theorem setRing_agenda (s : State) (m : Mail) (r : Ring) : (s.setRing m r).agenda = s.agenda := rfl
@[simp] theorem setRing_inputs (s : State) (m : Mail) (r : Ring) : (s.setRing m r).inputs = s.inputs := rfl
@[simp] theorem setRing_schedule (s : State) (m : Mail) (r : Ring) : (s.setRing m r).schedule = s.schedule := rfl
@[simp] theorem setRing_cursor (s : State) (m : Mail) (r : Ring) : (s.setRing m r).cursor = s.cursor := rfl
@[simp] theorem setRing_asked (s : State) (m : Mail) (r : Ring) : (s.setRing m r).asked = s.asked := rfl
@[simp] theorem setRing_asks (s : State) (m : Mail) (r : Ring) : (s.setRing m r).asks = s.asks := rfl
@[simp] theorem setRing_spent (s : State) (m : Mail) (r : Ring) : (s.setRing m r).spent = s.spent := rfl
@[simp] theorem setRing_nextOp (s : State) (m : Mail) (r : Ring) : (s.setRing m r).nextOp = s.nextOp := rfl
@[simp] theorem setRing_steps (s : State) (m : Mail) (r : Ring) : (s.setRing m r).steps = s.steps := rfl

@[simp] theorem loseAsks_mem (s : State) (gone : Cursor → Bool) : (s.loseAsks gone).mem = s.mem := rfl
@[simp] theorem loseAsks_gangs (s : State) (gone : Cursor → Bool) : (s.loseAsks gone).gangs = s.gangs := rfl
@[simp] theorem loseAsks_teams (s : State) (gone : Cursor → Bool) : (s.loseAsks gone).teams = s.teams := rfl
@[simp] theorem loseAsks_cores (s : State) (gone : Cursor → Bool) : (s.loseAsks gone).cores = s.cores := rfl
@[simp] theorem loseAsks_dies (s : State) (gone : Cursor → Bool) : (s.loseAsks gone).dies = s.dies := rfl
@[simp] theorem loseAsks_bases (s : State) (gone : Cursor → Bool) : (s.loseAsks gone).bases = s.bases := rfl
@[simp] theorem loseAsks_ctxs (s : State) (gone : Cursor → Bool) : (s.loseAsks gone).ctxs = s.ctxs := rfl
@[simp] theorem loseAsks_launches (s : State) (gone : Cursor → Bool) : (s.loseAsks gone).launches = s.launches := rfl
@[simp] theorem loseAsks_pkg (s : State) (gone : Cursor → Bool) : (s.loseAsks gone).pkg = s.pkg := rfl
@[simp] theorem loseAsks_flight (s : State) (gone : Cursor → Bool) : (s.loseAsks gone).flight = s.flight := rfl
@[simp] theorem loseAsks_agenda (s : State) (gone : Cursor → Bool) : (s.loseAsks gone).agenda = s.agenda := rfl
@[simp] theorem loseAsks_inputs (s : State) (gone : Cursor → Bool) : (s.loseAsks gone).inputs = s.inputs := rfl
@[simp] theorem loseAsks_schedule (s : State) (gone : Cursor → Bool) : (s.loseAsks gone).schedule = s.schedule := rfl
@[simp] theorem loseAsks_cursor (s : State) (gone : Cursor → Bool) : (s.loseAsks gone).cursor = s.cursor := rfl
@[simp] theorem loseAsks_asked (s : State) (gone : Cursor → Bool) : (s.loseAsks gone).asked = s.asked.filter fun x => !gone x.2.owner := rfl
@[simp] theorem loseAsks_asks (s : State) (gone : Cursor → Bool) : (s.loseAsks gone).asks = s.asks := rfl
@[simp] theorem loseAsks_spent (s : State) (gone : Cursor → Bool) : (s.loseAsks gone).spent = s.spent := rfl
@[simp] theorem loseAsks_nextOp (s : State) (gone : Cursor → Bool) : (s.loseAsks gone).nextOp = s.nextOp := rfl
@[simp] theorem loseAsks_steps (s : State) (gone : Cursor → Bool) : (s.loseAsks gone).steps = s.steps := rfl

@[simp] theorem staled_mem (s : State) (core : Nat) (c : Part → Bool) : (s.staled core c).mem = s.mem := rfl
@[simp] theorem staled_gangs (s : State) (core : Nat) (c : Part → Bool) : (s.staled core c).gangs = s.gangs := rfl
@[simp] theorem staled_teams (s : State) (core : Nat) (c : Part → Bool) : (s.staled core c).teams = s.teams := rfl
@[simp] theorem staled_cores (s : State) (core : Nat) (c : Part → Bool) : (s.staled core c).cores = s.cores := rfl
@[simp] theorem staled_dies (s : State) (core : Nat) (c : Part → Bool) : (s.staled core c).dies = s.dies := rfl
@[simp] theorem staled_bases (s : State) (core : Nat) (c : Part → Bool) : (s.staled core c).bases = s.bases := rfl
@[simp] theorem staled_ctxs (s : State) (core : Nat) (c : Part → Bool) : (s.staled core c).ctxs = s.ctxs := rfl
@[simp] theorem staled_launches (s : State) (core : Nat) (c : Part → Bool) : (s.staled core c).launches = s.launches := rfl
@[simp] theorem staled_pkg (s : State) (core : Nat) (c : Part → Bool) : (s.staled core c).pkg = s.pkg := rfl
@[simp] theorem staled_flight (s : State) (core : Nat) (c : Part → Bool) : (s.staled core c).flight = s.flight.map fun x => if x.2.gang / 64 = core then (x.1, { x.2 with job := x.2.job.staled c }) else x := rfl
@[simp] theorem staled_agenda (s : State) (core : Nat) (c : Part → Bool) : (s.staled core c).agenda = s.agenda := rfl
@[simp] theorem staled_inputs (s : State) (core : Nat) (c : Part → Bool) : (s.staled core c).inputs = s.inputs := rfl
@[simp] theorem staled_schedule (s : State) (core : Nat) (c : Part → Bool) : (s.staled core c).schedule = s.schedule := rfl
@[simp] theorem staled_cursor (s : State) (core : Nat) (c : Part → Bool) : (s.staled core c).cursor = s.cursor := rfl
@[simp] theorem staled_asked (s : State) (core : Nat) (c : Part → Bool) : (s.staled core c).asked = s.asked := rfl
@[simp] theorem staled_asks (s : State) (core : Nat) (c : Part → Bool) : (s.staled core c).asks = s.asks := rfl
@[simp] theorem staled_spent (s : State) (core : Nat) (c : Part → Bool) : (s.staled core c).spent = s.spent := rfl
@[simp] theorem staled_nextOp (s : State) (core : Nat) (c : Part → Bool) : (s.staled core c).nextOp = s.nextOp := rfl
@[simp] theorem staled_steps (s : State) (core : Nat) (c : Part → Bool) : (s.staled core c).steps = s.steps := rfl

@[simp] theorem enterReplicas_mem (s : State) (region : Nat) : (s.enterReplicas region).mem = s.mem := rfl
@[simp] theorem enterReplicas_gangs (s : State) (region : Nat) : (s.enterReplicas region).gangs = s.gangs := rfl
@[simp] theorem enterReplicas_teams (s : State) (region : Nat) : (s.enterReplicas region).teams = s.teams := rfl
@[simp] theorem enterReplicas_cores (s : State) (region : Nat) : (s.enterReplicas region).cores = s.cores := rfl
@[simp] theorem enterReplicas_dies (s : State) (region : Nat) : (s.enterReplicas region).dies = s.dies := rfl
@[simp] theorem enterReplicas_bases (s : State) (region : Nat) : (s.enterReplicas region).bases = s.bases.map fun b => (b.1, { b.2 with lostTokens := b.2.lostTokens.filter (· != region) }) := rfl
@[simp] theorem enterReplicas_ctxs (s : State) (region : Nat) : (s.enterReplicas region).ctxs = s.ctxs := rfl
@[simp] theorem enterReplicas_launches (s : State) (region : Nat) : (s.enterReplicas region).launches = s.launches := rfl
@[simp] theorem enterReplicas_pkg (s : State) (region : Nat) : (s.enterReplicas region).pkg = s.pkg := rfl
@[simp] theorem enterReplicas_flight (s : State) (region : Nat) : (s.enterReplicas region).flight = s.flight := rfl
@[simp] theorem enterReplicas_agenda (s : State) (region : Nat) : (s.enterReplicas region).agenda = s.agenda := rfl
@[simp] theorem enterReplicas_inputs (s : State) (region : Nat) : (s.enterReplicas region).inputs = s.inputs := rfl
@[simp] theorem enterReplicas_schedule (s : State) (region : Nat) : (s.enterReplicas region).schedule = s.schedule := rfl
@[simp] theorem enterReplicas_cursor (s : State) (region : Nat) : (s.enterReplicas region).cursor = s.cursor := rfl
@[simp] theorem enterReplicas_asked (s : State) (region : Nat) : (s.enterReplicas region).asked = s.asked := rfl
@[simp] theorem enterReplicas_asks (s : State) (region : Nat) : (s.enterReplicas region).asks = s.asks := rfl
@[simp] theorem enterReplicas_spent (s : State) (region : Nat) : (s.enterReplicas region).spent = s.spent := rfl
@[simp] theorem enterReplicas_nextOp (s : State) (region : Nat) : (s.enterReplicas region).nextOp = s.nextOp := rfl
@[simp] theorem enterReplicas_steps (s : State) (region : Nat) : (s.enterReplicas region).steps = s.steps := rfl

@[simp] theorem setClock_mem (s : State) (island mhz : Nat) : (s.setClock island mhz).mem = s.mem := by unfold State.setClock; split <;> rfl
@[simp] theorem setClock_gangs (s : State) (island mhz : Nat) : (s.setClock island mhz).gangs = s.gangs := by unfold State.setClock; split <;> rfl
@[simp] theorem setClock_teams (s : State) (island mhz : Nat) : (s.setClock island mhz).teams = s.teams := by unfold State.setClock; split <;> rfl
@[simp] theorem setClock_dies (s : State) (island mhz : Nat) : (s.setClock island mhz).dies = s.dies := by unfold State.setClock; split <;> rfl
@[simp] theorem setClock_bases (s : State) (island mhz : Nat) : (s.setClock island mhz).bases = s.bases := by unfold State.setClock; split <;> rfl
@[simp] theorem setClock_ctxs (s : State) (island mhz : Nat) : (s.setClock island mhz).ctxs = s.ctxs := by unfold State.setClock; split <;> rfl
@[simp] theorem setClock_launches (s : State) (island mhz : Nat) : (s.setClock island mhz).launches = s.launches := by unfold State.setClock; split <;> rfl
@[simp] theorem setClock_pkg (s : State) (island mhz : Nat) : (s.setClock island mhz).pkg = { s.pkg with clocks := tput s.pkg.clocks island mhz } := by unfold State.setClock; split <;> rfl
@[simp] theorem setClock_flight (s : State) (island mhz : Nat) : (s.setClock island mhz).flight = s.flight := by unfold State.setClock; split <;> rfl
@[simp] theorem setClock_agenda (s : State) (island mhz : Nat) : (s.setClock island mhz).agenda = s.agenda := by unfold State.setClock; split <;> rfl
@[simp] theorem setClock_inputs (s : State) (island mhz : Nat) : (s.setClock island mhz).inputs = s.inputs := by unfold State.setClock; split <;> rfl
@[simp] theorem setClock_schedule (s : State) (island mhz : Nat) : (s.setClock island mhz).schedule = s.schedule := by unfold State.setClock; split <;> rfl
@[simp] theorem setClock_cursor (s : State) (island mhz : Nat) : (s.setClock island mhz).cursor = s.cursor := by unfold State.setClock; split <;> rfl
@[simp] theorem setClock_asked (s : State) (island mhz : Nat) : (s.setClock island mhz).asked = s.asked := by unfold State.setClock; split <;> rfl
@[simp] theorem setClock_asks (s : State) (island mhz : Nat) : (s.setClock island mhz).asks = s.asks := by unfold State.setClock; split <;> rfl
@[simp] theorem setClock_spent (s : State) (island mhz : Nat) : (s.setClock island mhz).spent = s.spent := by unfold State.setClock; split <;> rfl
@[simp] theorem setClock_nextOp (s : State) (island mhz : Nat) : (s.setClock island mhz).nextOp = s.nextOp := by unfold State.setClock; split <;> rfl
@[simp] theorem setClock_steps (s : State) (island mhz : Nat) : (s.setClock island mhz).steps = s.steps := by unfold State.setClock; split <;> rfl
@[simp] theorem setClock_cores (s : State) (island mhz : Nat) : (s.setClock island mhz).cores = if island < 512 then
    tput s.cores island { s.core island with counted := s.cycle island, since := s.pkg.uptime } else s.cores := by unfold State.setClock; split <;> rfl

end Sys2Proof.Laws
end

