-- ==== Sys2Proof/Tests/Slice0.lean ====
section
/-!
SUPPORT. The model's own tests: what WellFormed refuses, words written out from the spec's encodings, witnesses of the statements' hypotheses,
and single steps whose results come from the spec.
-/
namespace Sys2Proof.Tests
open Sys2Proof Sys2Proof.Machine

set_option Elab.async false

/-! What WellFormed refuses: one ill-formed term for each of its checks. -/

def gx1 (ord : BitVec 2) (off : BitVec 16) : MemGx := ⟨false, false, 0, ord, off⟩

theorem test_illFormedWords : ([.view 3 0, .shli 0 0 32, .shri 0 0 32, .sari 0 0 32, .bfe 0 0 false 1 32, .bfe 0 0 false 1 0, .bfi 0 0 1 32, .bfi 0 0 1 0,
    .cvt 0 0 true 1 0 0, .cvt 0 0 false 0 12 0, .cvt 0 0 false 0 0 12, .frnd 0 0 false true 1, .gred 0 0 false 9, .gscan 0 0 false 9, .split 0 64, .joine 0 2,
    .ldt 0 0 0 6, .stt 0 0 0 6, .atomt 0 0 0 false 11 0, .ldsp 0 0 0 4, .stsp 0 0 0 4, .ldp 0 0 0 6, .stp 0 0 0 6, .ringrot 0 0 0 1 1 0, .ringrot 0 0 0 11 1 0,
    .ringrot 0 0 0 2 0 0, .ringrot 0 0 0 2 21 0, .ldg 0 0 0 6 (gx1 0 0), .ldg 0 0 0 0 (gx1 3 0), .stg 0 0 0 6 (gx1 0 0), .stg 0 0 0 0 (gx1 3 0),
    .atomg 0 0 0 1 (gx1 0 0), .atomg 0 0 0 2 (gx1 2 0), .atomg 0 0 0 2 (gx1 0 10), .faddg 0 0 0 4 (gx1 0 0), .faddg 0 0 0 2 (gx1 2 0),
    .casg 0 0 0 1 (gx1 0 0), .casg 0 0 0 2 (gx1 2 0), .prefg 0 0 4 (gx1 0 0), .prefg 0 0 5 (gx1 1 0), .acq 0 0 0 (gx1 1 0), .rel 0 0 0 (gx1 1 0)] : List Instr).all
    (fun i => !i.wf) = true := by decide

theorem test_illFormedEngineWords : ([.tmma 0 0 12 0 0 0, .tgmma 0 0 12 0 0 0, .tld 0 8 0 0, .tst 0 8 0 0, .accst 0 8 0 0, .accld 0 8 0 0, .tamax 0 8 0 0, .tamax 0 0 0 2,
    .ttrans 1 0 0, .ttrans 8 0 0, .tbmap 8 0 0, .strsub 7 0 0, .strsub 12 0 0, .stradv 7 0, .strunsub 12 0, .cvop 0 0 0 12, .copen 0 0 0 12 0, .cstat 0 0 6] :
    List Instr).all (fun i => !i.wf) = true := by decide

theorem test_illFormedSteps : ([.issueAgePromotion 32768 0, .issueAgePromotion 0 4, .fusetmoExpiry 0 4, .gangEnd 32768, .dozeWake 0 4, .drainlimExpiry 256,
    .preemptEntry 32768, .forcedSaveHeldTimeout 256, .handlerRttTimeout 256, .tileStep 512, .matrixHang 512, .prismTileWrite 0 4, .prismTileWrite 4096 0,
    .chainRecordStep 8 0, .chainRecordStep 0 64, .attarStart 16, .contributionAccept 0 ⟨0, none, 0, 0, 256, 0, List.replicate 8 0⟩, .slotDeadline 0 256,
    .contributionRetry 0 16, .messageStore 0 ⟨0, none, 0, 0, 0, 0, []⟩, .messageExpiry 16, .crecvTimeout 0 16, .routerPacketArrive 0 10 {}, .outputGrant 16 0, .echoReply 16 {},
    .failedReply 16 {}, .linkFlitReceive 0 7 ⟨0, 0, [], false⟩ true, .linkRetrain 0 7, .linkDown 0 9, .memoryRequest 26 {}, .tokenAcquireRequest 16 {}, .recallAck 16 0 0,
    .scrubArrays 26, .scrubDram 16, .hostWrite 9 0 [], .hostRead 9 0 0] : List Instr).all (fun i => !i.wf) = true := by decide

theorem test_illFormedFrontEnd : ([.doorbell 0 2048 0, .queueEnable 8 0, .queueDisable 8 0, .queueRecordWrite 0 0 0 9 [], .packetProcessorStep 8, .waitsigTimeout 0 2048,
    .launchComplete 8 0, .completionRecordRetry 0 256, .bindRecordWrite 0 512 ⟨0, 0, 0, 0, 0, 0, 0, 0, 0, 0, 0, 0⟩, .teamDispatch 8, .contextValidSet 0 256, .contextValidClear 0 256,
    .contextRecordWrite 0 256 0 [], .faultReplay 8 0, .faultCancel 8 0, .mmioRegisterWrite 26 0 0 [], .dieResetComplete 8, .functionLevelReset 9, .ideKm 9 0 [],
    .tdispMessage 9 .lock, .baseDieResetComplete 16, .coreResetComplete 512, .governorClockChange 640 0] : List Instr).all (fun i => !i.wf) = true := by decide

theorem test_illFormedMail : (let m : Mail := ⟨0, 0, 26, []⟩
    ([.powerRead m, .powerPackageLimit m, .powerIslandLimit m, .powerDieDown m, .powerDieUp m, .resetDrain m, .resetCore m, .resetMatrixEngine m, .resetDie m, .resetBaseDie m,
      .resetPackage m, .resetTlbinv m, .errlogRead m, .errlogCounters m, .errlogClear m, .timeStatus m, .timeStep m, .timeLoad m, .timePortSelect m, .keysLoad m [] false,
      .keysLoad { m with sock := 0 } [0] false, .keysClear m, .keysRead m, .telemetrySetRing m, .telemetryDrain m, .telemetryRead m, .routesSetPkg m, .routesWrite m, .routesAgemax m,
      .routesPartitionMap m, .migrationThreshold m, .migrationReadCounters m] : List Instr).all (fun i => !i.wf)) = true := by decide

/-! Words written out from the fixed bits and fields of the opcode table and from the extension words that the descriptions give, one for each instruction. -/

/-- A word of a class, with its extension word, is read as an instruction. -/
def reads (cls : Nat) (w : Word) (gx : Option Word) (i : Instr) : Bool := match decodeWord cls w gx with
  | .ok j => decide (j = i)
  | .error _ => false

/-- Each word of a table, with its class and extension word, is read as the instruction beside it, and takes the words that its format says (R25). -/
def readsAll (t : List (Nat × Word × Option Word × Instr)) : Bool :=
  t.all fun x => reads x.1 x.2.1 x.2.2.1 x.2.2.2 && wordLen x.1 x.2.1 == if x.2.2.1.isSome then 2 else 1

/-- R30, R31, R37 to R39, R147 to R154. -/
theorem test_decodeInteger : readsAll [
    (0, 0x00000000, none, .nop), (0, 0x01140600, none, .mov 0x14 6), (0, 0x02149ABC, none, .movi 0x14 0x9ABC),
    (0, 0x03149ABC, none, .movh 0x14 0x9ABC), (0, 0x06029ABC, none, .view 2 0x9ABC), (0, 0x07140103, none, .rdsr 0x14 0x103),
    (0, 0x08140103, none, .wrsr 0x14 0x103), (0, 0x1014062C, none, .add 0x14 6 0x2C), (0, 0x1114062C, none, .sub 0x14 6 0x2C),
    (0, 0x1214061D, none, .addi 0x14 6 0x1D), (0, 0x1314062C, none, .mul 0x14 6 0x2C), (0, 0x1414062C, none, .mulhi 0x14 6 0x2C),
    (0, 0x1514062C, none, .mulhu 0x14 6 0x2C), (0, 0x1614062C, none, .mad 0x14 6 0x2C), (0, 0x1714062C, none, .add64 0x14 6 0x2C),
    (0, 0x1814062C, none, .sub64 0x14 6 0x2C), (0, 0x1914062C, none, .mul64 0x14 6 0x2C), (0, 0x1A14062C, none, .min 0x14 6 0x2C),
    (0, 0x1B14062C, none, .max 0x14 6 0x2C), (0, 0x1C14062C, none, .minu 0x14 6 0x2C), (0, 0x1D14062C, none, .maxu 0x14 6 0x2C),
    (0, 0x1E140600, none, .abs 0x14 6), (0, 0x1F14062C, none, .adds 0x14 6 0x2C), (0, 0x2014062C, none, .and 0x14 6 0x2C),
    (0, 0x2114062C, none, .or 0x14 6 0x2C), (0, 0x2214062C, none, .xor 0x14 6 0x2C), (0, 0x2314062C, none, .andn 0x14 6 0x2C),
    (0, 0x24140600, none, .not 0x14 6), (0, 0x2514062C, none, .shl 0x14 6 0x2C), (0, 0x2614062C, none, .shr 0x14 6 0x2C),
    (0, 0x2714062C, none, .sar 0x14 6 0x2C), (0, 0x2814061D, none, .shli 0x14 6 0x1D), (0, 0x2914061D, none, .shri 0x14 6 0x1D),
    (0, 0x2A14061D, none, .sari 0x14 6 0x1D), (0, 0x2B14062C, none, .rotl 0x14 6 0x2C), (0, 0x2C140600, none, .popc 0x14 6),
    (0, 0x2D140600, none, .clz 0x14 6)] = true := by decide +kernel

/-- R37 to R39, R155 to R160. -/
theorem test_decodeFloat : readsAll [
    (0, 0x3014062C, none, .cmpeq 0x14 6 0x2C), (0, 0x3114062C, none, .cmpne 0x14 6 0x2C), (0, 0x3214062C, none, .cmplt 0x14 6 0x2C),
    (0, 0x3314062C, none, .cmple 0x14 6 0x2C), (0, 0x3414062C, none, .cmpltu 0x14 6 0x2C), (0, 0x3514062C, none, .cmpleu 0x14 6 0x2C),
    (0, 0x3614062C, none, .fcmpeq 0x14 6 0x2C), (0, 0x3714062C, none, .fcmplt 0x14 6 0x2C), (0, 0x3814062C, none, .fcmple 0x14 6 0x2C),
    (0, 0x3914062C, none, .fcmpun 0x14 6 0x2C), (0, 0x3A14062C, none, .pand 0x14 6 0x2C), (0, 0x3B14062C, none, .por 0x14 6 0x2C),
    (0, 0x3C14062C, none, .pxor 0x14 6 0x2C), (0, 0x3D140600, none, .pnot 0x14 6), (0, 0x3E140600, none, .p2v 0x14 6),
    (0, 0x3F140600, none, .v2p 0x14 6), (0, 0x4014062C, none, .fadd 0x14 6 0x2C), (0, 0x4114062C, none, .fsub 0x14 6 0x2C),
    (0, 0x4214062C, none, .fmul 0x14 6 0x2C), (0, 0x4314062C, none, .ffma 0x14 6 0x2C), (0, 0x4414062C, none, .fmin 0x14 6 0x2C),
    (0, 0x4514062C, none, .fmax 0x14 6 0x2C), (0, 0x46140600, none, .fabs 0x14 6), (0, 0x47140600, none, .fneg 0x14 6),
    (0, 0x48140600, none, .frcp 0x14 6), (0, 0x49140600, none, .frsq 0x14 6), (0, 0x4A140600, none, .fsqrt 0x14 6),
    (0, 0x4B14062C, none, .fdiv 0x14 6 0x2C), (0, 0x4C140600, none, .flog2 0x14 6), (0, 0x4D140600, none, .fexp2 0x14 6),
    (0, 0x4E140600, none, .fln 0x14 6), (0, 0x4F140600, none, .fexp 0x14 6), (0, 0x5014062C, none, .dadd 0x14 6 0x2C),
    (0, 0x5114062C, none, .dsub 0x14 6 0x2C), (0, 0x5214062C, none, .dmul 0x14 6 0x2C), (0, 0x5314062C, none, .dfma 0x14 6 0x2C),
    (0, 0x5414062C, none, .dmin 0x14 6 0x2C), (0, 0x5514062C, none, .dmax 0x14 6 0x2C), (0, 0x5614062C, none, .ddiv 0x14 6 0x2C),
    (0, 0x57140600, none, .dsqrt 0x14 6), (0, 0x5814062C, none, .dcmpeq 0x14 6 0x2C), (0, 0x5914062C, none, .dcmplt 0x14 6 0x2C),
    (0, 0x5A14062C, none, .dcmple 0x14 6 0x2C), (0, 0x5B14062C, none, .dcmpun 0x14 6 0x2C)] = true := by decide +kernel

/-- R37 to R39, R173 to R180. -/
theorem test_decodeControl : readsAll [
    (0, 0x64140600, none, .voteall 0x14 6), (0, 0x65140600, none, .voteany 0x14 6), (0, 0x66140600, none, .ballot 0x14 6),
    (0, 0x69140600, none, .matchLanes 0x14 6), (0, 0x6A140010, none, .split 0x14 0x10), (0, 0x6B140000, none, .fuse 0x14),
    (0, 0x6C000000, none, .converge), (0, 0x709ABCDE, none, .bra 0x9ABCDE), (0, 0x71D9ABCD, none, .brp true 5 0x9ABCD),
    (0, 0x72D9ABCD, none, .bru true 5 0x9ABCD), (0, 0x73000600, none, .brx 6), (0, 0x749ABCDE, none, .call 0x9ABCDE),
    (0, 0x75140600, none, .callx 0x14 6), (0, 0x76000600, none, .ret 6), (0, 0x77000000, none, .exit), (0, 0x78009ABC, none, .trap 0x9ABC),
    (0, 0x79000000, none, .rtt), (0, 0x7C140001, none, .joine 0x14 1), (0, 0x7D000600, none, .doze 6), (0, 0x7E000000, none, .yield),
    (0, 0x7F000000, none, .brk)] = true := by decide +kernel

/-- R31, R37 to R40, R199. -/
theorem test_decodeAccess : readsAll [
    (0, 0x80140652, none, .ldt 0x14 6 5 2), (0, 0x81140652, none, .stt 0x14 6 5 2), (0, 0x83140652, none, .ldsp 0x14 6 5 2),
    (0, 0x84140652, none, .stsp 0x14 6 5 2), (0, 0x85140652, none, .ldp 0x14 6 5 2), (0, 0x86140652, none, .stp 0x14 6 5 2),
    (0, 0x96070021, none, .waitc 7 0x21), (0, 0x97000001, none, .fence 1), (0, 0x9B000600, none, .unbind 6), (0, 0x9D140600, none, .tokrel 0x14 6),
    (0, 0x9E140600, none, .tokqry 0x14 6), (0, 0xA0070121, none, .bar 7 true 0x21), (0, 0xA1070121, none, .bararv 7 true 0x21),
    (0, 0xA2070000, none, .barwt 7), (0, 0xA3140653, none, .mbinit 0x14 6 5), (0, 0xA4140653, none, .mbarv 0x14 6 5),
    (0, 0xA5140603, none, .mbwait 0x14 6), (0, 0xA6140000, none, .bseal 0x14), (0, 0xA7149ABC, none, .bwait 0x14 0x9ABC),
    (0, 0xA8000100, none, .clbar true), (0, 0xA900062C, none, .signal 6 0x2C), (0, 0xB0140021, none, .shbegin 0x14 0x21),
    (0, 0xB2000000, none, .shabort), (0, 0xB3140600, none, .shread 0x14 6), (0, 0xB4140000, none, .rand 0x14), (0, 0xB5000600, none, .rseed 6),
    (0, 0xB6140000, none, .accrd 0x14), (0, 0xB7000000, none, .accclr), (0, 0xB8140000, none, .time 0x14), (0, 0xBA140000, none, .cycle 0x14),
    (0, 0xC0000600, none, .xsave 6), (0, 0xC1000600, none, .xrstr 6), (0, 0xC2140600, none, .splrd 0x14 6), (0, 0xC300062C, none, .splwr 6 0x2C),
    (0, 0xC4000600, none, .replv 6), (0, 0xC500062C, none, .tlbinv 6 0x2C), (0, 0xC6000600, none, .shsave 6), (0, 0xC7000600, none, .shrstr 6),
    (0, 0xC800062C, none, .mstore 6 0x2C)] = true := by decide +kernel

/-- R41, R44. -/
theorem test_decodeMatrix : readsAll [
    (1, 0x04736596, none, .tmma 0xD 9 6 0x1C 5 2), (1, 0x08736596, none, .tgmma 0xD 9 6 0x1C 5 2), (1, 0x0C034014, none, .tzero 0xD 5),
    (1, 0x10002596, none, .tld 9 6 5 2), (1, 0x14002596, none, .tst 9 6 5 2), (1, 0x18034196, none, .accst 0xD 6 5 2),
    (1, 0x1C034196, none, .accld 0xD 6 5 2), (1, 0x20034195, none, .tamax 0xD 6 5 1), (1, 0x24700114, none, .ttrans 4 0x1C 5),
    (1, 0x28700194, none, .tbmap 6 0x1C 5), (1, 0x2C700014, none, .strdef 0x1C 5), (1, 0x30700254, none, .strsub 9 0x1C 5),
    (1, 0x34000254, none, .stradv 9 5), (1, 0x38000254, none, .strunsub 9 5), (1, 0x3C000000, none, .mloop), (1, 0x40000000, none, .mend),
    (1, 0x44700014, none, .mresume 0x1C 5), (1, 0x48700015, none, .msave 0x1C 5 true)] = true := by decide +kernel

/-- R42, R44. -/
theorem test_decodeCopy : readsAll [
    (2, 0x04501960, none, .copy 0x14 6 5 true), (2, 0x08501960, none, .copyt 0x14 6 5 true), (2, 0x0C501960, none, .copyg 0x14 6 5 true),
    (2, 0x10501960, none, .copys 0x14 6 5 true), (2, 0x14501960, none, .copym 0x14 6 5 true), (2, 0x18501960, none, .copyn 0x14 6 5 true),
    (2, 0x1C501960, none, .fill 0x14 6 5 true), (2, 0x20501960, none, .chain 0x14 6 5 true), (2, 0x24501960, none, .chstat 0x14 6 5 true),
    (2, 0x28501960, none, .chabort 0x14 6 5 true), (2, 0x2C501960, none, .migr 0x14 6 5 true), (2, 0x30501960, none, .copyr 0x14 6 5 true)] = true := by decide +kernel

/-- R43, R44. -/
theorem test_decodeCollective : readsAll [
    (3, 0x066C2BCD, none, .cmovi 9 0xB 0x2BCD), (3, 0x0A742BCD, none, .caddi 9 0xD 0x2BCD), (3, 0x0E758000, none, .cadd 9 0xD 6),
    (3, 0x12742BCD, none, .cld 9 0xD 0x2BCD), (3, 0x1435ABCD, none, .cst 0xD 6 0x2BCD), (3, 0x19B42BCD, none, .cldl 6 0xD 0x2BCD),
    (3, 0x1C35ABCD, none, .cstl 0xD 6 0x2BCD), (3, 0x214D8007, none, .cvop 5 3 6 7), (3, 0x267587A5, none, .copen 9 0xD 6 7 0xA5),
    (3, 0x2A758000, none, .ccont 9 0xD 6), (3, 0x2E740000, none, .cwait 9 0xD), (3, 0x31B40000, none, .cres 6 0xD),
    (3, 0x36740004, none, .cstat 9 0xD 4), (3, 0x3A758000, none, .csend 9 0xD 6), (3, 0x3DB58000, none, .crecv 6 0xD 6),
    (3, 0x40342BCD, none, .cbz 0xD 0x2BCD), (3, 0x44342BCD, none, .cbnz 0xD 0x2BCD), (3, 0x48002BCD, none, .cbra 0x2BCD),
    (3, 0x4C340000, none, .csig 0xD), (3, 0x50340000, none, .cfree 0xD), (3, 0x54000000, none, .cend)] = true := by decide +kernel

/-- R32, R37, R45 and the extension word of each description. -/
theorem test_decodeExtended : readsAll [
    (0, 0x04140000, some 0x89ABCDEF, .movw 0x14 0x89ABCDEF), (0, 0x0514062C, some 0x0000001D, .sel 0x14 6 0x2C true true 5),
    (0, 0x2E140600, some 0x0001051B, .bfe 0x14 6 true 5 0x1B), (0, 0x2F140600, some 0x0000051B, .bfi 0x14 6 5 0x1B),
    (0, 0x5C140600, some 0x00000362, .cvt 0x14 6 false 3 6 2), (0, 0x5C140600, some 0x00000462, .cvt 0x14 6 true 0 6 2),
    (0, 0x5D282024, some 0x00000003, .pkln6 0x28 0x20 0x24 3), (0, 0x5E2C2824, some 0x00000006, .upln6 0x2C 0x28 0x24 6),
    (0, 0x5F140600, some 0x00000B00, .frnd 0x14 6 true false 3), (0, 0x60020103, some 0x00000011, .shfl 2 1 3 true 1),
    (0, 0x61020103, some 0x00000005, .shflup 2 1 3 false 5), (0, 0x62020103, some 0x00000001, .shfldn 2 1 3 false 1),
    (0, 0x63020103, some 0x00000017, .shflx 2 1 3 true 7), (0, 0x67140600, some 0x00000018, .gred 0x14 6 true 8),
    (0, 0x68140600, some 0x00000003, .gscan 0x14 6 false 3), (0, 0x7A0700E9, some 0x15050414, .mcall 7 0xE9 0x15050414),
    (0, 0x7B2810E9, some 0x00000005, .fork 0x28 0x10 0xE9 5), (0, 0x8214062C, some 0x000001A7, .atomt 0x14 6 0x2C true 0xA 7),
    (0, 0x8714062C, some 0x00001317, .ringrot 0x14 6 0x2C 9 0x11 7),
    (0, 0x90080232, some 0x000A0040, .ldg 8 2 3 2 { nt := false, lat := false, scope := 2, ord := 2, offset := 0x40 }),
    (0, 0x90200245, some 0x00080000, .ldg 0x20 2 4 5 { nt := false, lat := false, scope := 2, ord := 0, offset := 0 }),
    (0, 0x91140673, some 0x0035FFF0, .stg 0x14 6 7 3 { nt := true, lat := true, scope := 1, ord := 1, offset := 0xFFF0 }),
    (0, 0x92140673, some 0x000D0019, .atomg 0x14 6 7 3 { nt := false, lat := false, scope := 3, ord := 1, offset := 0x19 }),
    (0, 0x93140672, some 0x00000008, .faddg 0x14 6 7 2 { nt := false, lat := false, scope := 0, ord := 0, offset := 8 }),
    (0, 0x94140673, some 0x00100008, .casg 0x14 6 7 3 { nt := false, lat := true, scope := 0, ord := 0, offset := 8 }),
    (0, 0x95000675, some 0x00200040, .prefg 6 7 5 { nt := true, lat := false, scope := 0, ord := 0, offset := 0x40 }),
    (0, 0x98140673, some 0x000A0000, .acq 0x14 6 7 { nt := false, lat := false, scope := 2, ord := 2, offset := 0 }),
    (0, 0x99140673, some 0x000E0000, .rel 0x14 6 7 { nt := false, lat := false, scope := 3, ord := 2, offset := 0 }),
    (0, 0x9A14042C, some 0x00000003, .bind 0x14 4 0x2C 3), (0, 0x9C140600, some 0x00000017, .tokacq 0x14 6 true 7),
    (0, 0x9F14062C, some 0x000000D7, .coll 0x14 6 0x2C 0xD 7), (0, 0xB1F3181E, some 0x00000001, .accept 0xF3 0x18 0x1E true),
    (0, 0xB9000600, some 0x0000BEEF, .trace 6 0xBEEF)] = true := by decide +kernel

/-- What the decoder does not accept, by name. -/
def refuses (cls : Nat) (w : Word) (gx : Option Word) (e : Reject) : Bool := match decodeWord cls w gx with
  | .ok _ => false
  | .error f => decide (f = e)

/-- R37, R39, R44, R49: reserved opcodes and ops; used reserved fields, sizes and orders; a missing extension word. -/
theorem test_refusedWords : (refuses 0 0x0F000000 none .illOp && refuses 0 0x88000000 none .illOp && refuses 0 0xD0000000 none .illOp && refuses 1 0x4C000000 none .illOp &&
    refuses 1 0x00000000 none .illOp && refuses 2 0x34000000 none .illOp && refuses 3 0x58000000 none .illOp && refuses 0 0x00000001 none .illOpnd &&
    refuses 0 0x01140601 none .illOpnd && refuses 0 0x80140656 none .illOpnd && refuses 0 0x90080232 (some 0x000B0040) .illOpnd && refuses 0 0x90080232 (some 0x00400000) .illOpnd &&
    refuses 0 0x67140600 (some 9) .illOpnd && refuses 0 0x96100000 none .illOpnd && refuses 2 0x045054A1 none .illOpnd && refuses 1 0x30080000 none .illOpnd &&
    refuses 0 0x90080232 none .illClause) = true := by decide +kernel

/-- The opcode table's numbering: the first word lowest; ADD, and LDG with its extension word. -/
theorem test_tableWords : decodeTableWord 32 0x1014062C = some (.add 0x14 6 0x2C) ∧
    decodeTableWord 64 0x000A004090080232 = some (.ldg 8 2 3 2 ⟨false, false, 2, 2, 0x40⟩) := by decide +kernel

/-! The setting: one gang of four lanes on core 0, its split before the word `i` of a clause, with a handler address set. -/

/-- A gang before the word `i`; v0 to v9 hold small numbers, the latch is full. -/
def seat (i : Instr) : Gang := { placedGang (encode i).1 i.span with
  tvec := 0x2000
  lanes := List.replicate 4 { takes := true, latch := some 5, regs := [(0, 8), (2, 64), (4, 3), (6, 1)] } }

/-- The machine with the gang and its team at the word. -/
def stand (g : Gang) : State := { State.reset with
  gangs := [(0, g)]
  teams := [(0, { core := 0, slot := 0, tslot := 0, ctx := 0, launch := 0, base := 0, shared := 4096, dx := 0, dy := 0 })]
  cursor := .gang 0 0 }

/-- The word is issued, and the state and its issue meet a condition. -/
def met (s : State) (i : Instr) (p : State → Issue → Bool) : Bool :=
  match s.issuer with
  | some c => decide (c.act ≠ []) && decide (c.placeTrap i i.span = none) && p s c
  | none => false

theorem issues_of_met {s : State} {i : Instr} {p : State → Issue → Bool} (h : met s i p = true) : ∃ c, s.issues c i ∧ p s c = true := by
  unfold met at h
  split at h
  · next c hc =>
    simp only [Bool.and_eq_true, decide_eq_true_eq] at h
    exact ⟨c, ⟨hc, h.1.1, h.1.2⟩, h.2⟩
  · cases h

/-- The word is issued and answers a next state in which its gang has taken no trap and stands past it, or waits for nothing. -/
def runs (s : State) (i : Instr) : Bool :=
  met s i (fun _ _ => true) && match exec i s with
    | .next t => match t.gang 0 with
      | some g => g.handler.isNone && g.trapCode == 0 && (g.split 0).any fun sp => sp.pc == (0x1004 : DWord) + BitVec.ofNat 64 (4 * i.span)
      | none => false
    | _ => false

def runsAll (is : List Instr) : Bool := is.all fun i => runs (stand (seat i)) i

theorem test_witness_IntegerResults : runsAll [.add 8 0 2, .sub 8 0 2, .addi 8 0 0xFF, .mul 8 0 2, .mulhi 8 0 2, .mulhu 8 0 2, .mad 8 0 2,
    .min 8 0 2, .max 8 0 2, .minu 8 0 2, .maxu 8 0 2, .abs 8 0, .adds 8 0 2, .add64 8 0 2, .sub64 8 0 2, .mul64 8 0 2] = true := by decide +kernel

theorem test_witness_LogicResults : runsAll [.and 8 0 2, .or 8 0 2, .xor 8 0 2, .andn 8 0 2, .not 8 0, .shl 8 0 2, .shr 8 0 2, .sar 8 0 2, .shli 8 0 31,
    .shri 8 0 31, .sari 8 0 31, .rotl 8 0 2, .popc 8 0, .clz 8 0, .bfe 8 0 true 31 1, .bfe 8 0 false 0 32, .bfi 8 0 0 32] = true := by decide +kernel

theorem test_witness_LogicResults_fields : (Instr.bfe 8 0 true 31 1).wf = true ∧ (Instr.bfi 8 0 0 32).wf = true := by decide

theorem test_witness_MoveAndCompareResults : runsAll [.mov 8 0, .movi 8 0xFFFF, .movh 8 1, .movw 8 1, .sel 8 0 2 false true 7, .sel 8 0 2 true false 0,
    .p2v 8 0xF0, .v2p 0xF7 0, .cmpeq 0xF0 0 2, .cmpne 0xF0 0 2, .cmplt 0xF0 0 2, .cmple 0xF0 0 2, .cmpltu 0xF0 0 2, .cmpleu 0xF0 0 2,
    .pand 0xF0 0xF1 0xF2, .por 0xF0 0xF1 0xF2, .pxor 0xF0 0xF1 0xF2, .pnot 0xF0 0xF1] = true := by decide +kernel

theorem test_witness_FloatCompareResults : runsAll [.fcmpeq 0xF0 0 2, .fcmplt 0xF0 0 2, .fcmple 0xF0 0 2, .fcmpun 0xF0 0 2, .dcmpeq 0xF0 0 2,
    .dcmplt 0xF0 0 2, .dcmple 0xF0 0 2, .dcmpun 0xF0 0 2] = true := by decide +kernel

theorem test_witness_FloatCompareResults_order : (0xFF800000 < 2 ^ (1 + f32.ew + f32.mw) ∧ (f32.decode 0xFF800000).isNan = false) ∧
    0xFFF0000000000000 < 2 ^ (1 + f64.ew + f64.mw) ∧ (f64.decode 0xFFF0000000000000).isNan = false := by decide +kernel

theorem test_witness_FloatResults : runsAll [.fadd 8 0 2, .fsub 8 0 2, .fmul 8 0 2, .fdiv 8 0 2, .ffma 8 0 2, .fmin 8 0 2, .fmax 8 0 2, .fabs 8 0,
    .fneg 8 0, .frcp 8 0, .frsq 8 0, .fsqrt 8 0, .flog2 8 0, .fexp2 8 0, .fln 8 0, .fexp 8 0] = true := by decide +kernel

theorem test_witness_DoubleAndConversionResults : runsAll [.dadd 8 0 2, .dsub 8 0 2, .dmul 8 0 2, .ddiv 8 0 2, .dfma 8 0 2, .dmin 8 0 2, .dmax 8 0 2,
    .dsqrt 8 0, .frnd 8 0 false true 0, .frnd 8 0 true false 3, .cvt 8 0 false 0 6 2, .cvt 8 0 true 0 11 0] = true := by decide +kernel

theorem test_witness_Ln6Results : runsAll [.pkln6 8 0 4 7, .upln6 8 0 4 0] = true := by decide +kernel

theorem test_witness_CrossLaneResults : runsAll [.shfl 8 0 2 false 7, .shflup 8 0 2 true 0, .shfldn 8 0 2 false 0, .shflx 8 0 2 true 0,
    .voteall 0xF0 0xF1, .voteany 0xF0 0xF1, .ballot 8 0xF1, .matchLanes 8 0, .gred 8 0 false 0, .gred 8 0 true 8, .gscan 8 0 false 1] = true := by
  decide +kernel

/-- The word is issued and answers a next state in which its gang runs its handler with a trap code. -/
def traps (s : State) (i : Instr) (code : Nat) : Bool :=
  met s i (fun _ _ => true) && match exec i s with
    | .next t => (t.gang 0).any fun g => g.inHandler && bits g.trapCode 0 8 == code
    | _ => false

/-- The word is issued and answers a next state in which its split holds for a reason at the word. -/
def holds (s : State) (i : Instr) (h : Hold) : Bool :=
  met s i (fun _ _ => true) && match exec i s with
    | .next t => (t.gang 0).any fun g => !g.inHandler && (g.split 0).any fun sp => sp.pc == (0x1004 : DWord) && sp.hold == h
    | _ => false

/-- A gang inside a handler, before the word. -/
def handling (i : Instr) : Gang := { seat i with
  handler := some { reason := none, splits := [some { pc := 0x1000, mask := 0xF }, none, none, none], lanes := List.replicate 4 ⟨0, none, true⟩ }
  lanes := List.replicate 4 { takes := true, latch := some 5, umbra := [(0, 0x100), (2, 64), (4, 3), (6, 1)] } }

/-- A word inside a handler answers a next state in which the handler stands past it. -/
def runsInHandler (s : State) (i : Instr) : Bool :=
  met s i (fun _ _ => true) && match exec i s with
    | .next t => (t.gang 0).any fun g => g.inHandler && (g.split 0).any fun sp => sp.pc == (0x1004 : DWord) + BitVec.ofNat 64 (4 * i.span)
    | _ => false

theorem test_witness_ServiceWordResults : runsAll [.nop, .yield, .accclr, .view 2 0, .rand 8, .rseed 0, .time 8, .cycle 8, .accrd 8, .trace 0 7] = true ∧
    traps (stand (seat (.view 3 0))) (.view 3 0) cILLOPND = true ∧ traps (stand (seat (.trace 221 0))) (.trace 221 0) cILLOPND = true ∧
    met (stand (seat (.trace 220 0))) (.trace 220 0) (fun _ c => c.g.place c.g.vbNow 880 16 != none && c.g.poisonAt [c.low] 220 4 == none) = true := by
  decide +kernel

theorem test_witness_SpecialRegisterReads :
    ([0x000, 0x002, 0x00B, 0x021, 0x024, 0x027, 0x001, 0x003, 0x00C, 0x022, 0x025, 0x028].all fun n =>
      runs (stand (seat (.rdsr 8 n))) (.rdsr 8 n)) = true ∧
    ([0x004, 0x005, 0x006, 0x007, 0x008, 0x009, 0x00A, 0x00D, 0x00E, 0x010, 0x011, 0x012, 0x013, 0x020, 0x023, 0x026, 0x029, 0x02A, 0x02B, 0x030, 0x031,
      0x032, 0x040, 0x050, 0x051, 0x052, 0x053].all fun n => runs (stand (seat (.rdsr 9 n))) (.rdsr 9 n)) = true ∧
    ([0x100, 0x101, 0x102, 0x103, 0x104, 0x105, 0x106, 0x107, 0x108, 0x109].all fun n =>
      runs (stand { seat (.rdsr 8 n) with service := true }) (.rdsr 8 n)) = true ∧
    traps (stand (seat (.rdsr 8 0x1FF))) (.rdsr 8 0x1FF) cPRIV = true ∧ traps (stand (seat (.rdsr 8 0x00F))) (.rdsr 8 0x00F) cILLOPND = true := by
  decide +kernel

theorem test_witness_SpecialRegisterWrites :
    ([0x000, 0x002, 0x00B, 0x024, 0x021, 0x027, 0x004, 0x005, 0x006, 0x007, 0x008, 0x009, 0x00A, 0x00D, 0x00E, 0x013, 0x020, 0x023, 0x030, 0x031,
      0x032, 0x040, 0x050, 0x051, 0x052, 0x053, 0x026, 0x029, 0x02A, 0x02B, 0x010, 0x011, 0x012].all fun n =>
      runs (stand (seat (.wrsr 8 n))) (.wrsr 8 n)) = true ∧
    ([0x108, 0x100, 0x102, 0x103, 0x104, 0x105, 0x107].all fun n =>
      runs (stand { seat (.wrsr 8 n) with service := true }) (.wrsr 8 n)) = true ∧
    traps (stand (seat (.wrsr 8 0x100))) (.wrsr 8 0x100) cPRIV = true ∧
    met (stand (seat (.wrsr 8 0x012))) (.wrsr 8 0x012) (fun _ c => viewOk c.g.inHandler 2 (field (c.g.r32 8 c.low) 0 16)) = true ∧
    met (stand { seat (.wrsr 8 0x105) with service := true }) (.wrsr 8 0x105) (fun s c => windowOk (c.g.r64 8 c.low) (s.ctx c.g.ctx).spLim) = true ∧
    met (stand { seat (.wrsr 8 0x107) with service := true }) (.wrsr 8 0x107) (fun s c => windowOk (s.ctx c.g.ctx).spBase (c.g.r32 8 c.low)) = true := by
  decide +kernel

/-- A gang at a clause header, with an outstanding operation under c1 and lane 0's p0 set. -/
def header : Gang := { seat .nop with
  splits := [some (headerAt 0x1000 0xF), none, none, none]
  ctrs := [(1, 2)]
  lanes := [{ preds := 1 }, {}, {}, {}] }

/-- R21: a header that waits on c1 for at most 1, and one guarded by p0. -/
theorem test_witness_HeaderIssue :
    ((stand header).issuer.isSome && (decodeHeader 0).isNone &&
      ((decodeHeader 0x21104000).any fun h => h.we && decide (h.wthr.toNat < header.outstanding h.wctr.toNat)) &&
      ((decodeHeader 0x21108000).any fun h => h.we && decide (header.outstanding h.wctr.toNat ≤ h.wthr.toNat)) &&
      ((decodeHeader 0x20002000).any fun h => !h.we && h.ge)) = true ∧
    (match exec (.clauseIssue 0x20002000) (stand header) with
      | .next t => (t.gang 0).map fun g => g.lanes.map (·.takes)
      | _ => none) = some [true, false, false, false] ∧
    (match exec (.issueAgePromotion 0 0) (stand { header with splits := [some { headerAt 0x1000 0xF with age := 64 }] }) with
      | .next t => (t.gang 0).bind fun g => (g.split 0).map (·.promoted)
      | _ => none) = some true := by decide +kernel

/-- A gang whose v0:v1 and o6:o7 hold the header address 0x1000 and whose lanes 0 and 1 have p0 set, before a word. -/
def branching (i : Instr) : Gang := { seat i with
  lanes := (List.range 4).map fun k => { takes := true, preds := if k < 2 then 1 else 0, regs := [(0, 0x1000), (2, 0x1001)] } }

/-- Where the lanes of a gang stand after a word: the position and the mask of each split. -/
def places (s : State) (i : Instr) : List (DWord × BitVec 64) :=
  match exec i s with
  | .next t => ((t.gang 0).map fun g => g.splits.filterMap fun o => o.map fun sp => (sp.pc, sp.mask)).getD []
  | _ => []

/-- R27: displacements count words from the header, at 0x1000; the clause of one word ends at 0x1008. R173: lanes 0 and 1 take a branch on p0. -/
theorem test_witness_ControlTransfers :
    (places (stand (branching (.bra 4))) (.bra 4) = [(0x1010, 0xF)] ∧
    places (stand (branching (.brp false 0 0xFFFFF))) (.brp false 0 0xFFFFF) = [(0xFFC, 3), (0x1008, 0xC)] ∧
    places (stand (branching (.bru false 0 4))) (.bru false 0 4) = [(0x1008, 0xF)] ∧
    places (stand (branching (.brx 0))) (.brx 0) = [(0x1000, 0xF)] ∧
    places (stand (branching (.call 4))) (.call 4) = [(0x1010, 0xF)] ∧
    places (stand (branching (.callx 4 0))) (.callx 4 0) = [(0x1000, 0xF)] ∧
    places (stand (branching (.ret 0))) (.ret 0) = [(0x1000, 0xF)]) ∧
    (runs (stand (branching (.bra 2))) (.bra 2) && runs (stand (branching (.brp false 1 0))) (.brp false 1 0)
      && runs (stand (branching (.bru false 1 0))) (.bru false 1 0) && runs (stand (branching (.call 2))) (.call 2)
      && met (stand (branching .exit)) .exit (fun _ c => c.g.handler.isNone)
      && traps (stand (branching (.brx 2))) (.brx 2) cMISALIGN) = true ∧
    (match exec .exit (stand (branching .exit)) with | .next t => (t.gang 0).map (·.liveList) | _ => none) = some [] := by decide +kernel

/-- R112: with lanes 0 and 1 taking the branch, the others take entry 1. -/
theorem test_witness_BranchDivides : met (stand (branching (.brp false 0 4))) (.brp false 0 4) (fun _ c =>
    let take := maskOf (c.act.filter fun k => (c.g.lane k).preds.getLsbD 0 ^^ false)
    take == 3 && (c.sp.mask &&& ~~~take) == 0xC && c.sp.header + 16 != c.sp.after && c.g.splits.length == 4 && c.idx == 0 &&
      (c.g.split 1).isNone && (c.g.split 2).isNone && (c.g.split 3).isNone) = true ∧
    places (stand (branching (.brp false 0 4))) (.brp false 0 4) = [(0x1010, 3), (0x1008, 0xC)] := by decide +kernel

theorem test_witness_TrapInstructions :
    (traps (stand (seat (.trap 0xFFFF))) (.trap 0xFFFF) cSWTRAP && traps (stand (seat .brk)) .brk cDEBUG && traps (stand (seat .rtt)) .rtt cILLOPND) = true ∧
    (let two := stand { handling .rtt with splits := [(handling .rtt).split 0, some (headerAt 0x1000 1), none, none] }
     met two .rtt (fun _ c => c.g.handler.isSome && (c.g.split 1).any (·.hold != .rtt)) && match exec .rtt two with
      | .next t => (t.gang 0).any fun g => g.inHandler && (g.split 0).any (·.hold == .rtt)
      | _ => false) = true ∧
    (met (stand (handling .rtt)) .rtt (fun _ c => c.g.handler.isSome && (List.range 3).all fun j => (c.g.split (j + 1)).isNone) &&
      match exec .rtt (stand (handling .rtt)) with
      | .next t => (t.gang 0).any fun g => !g.inHandler && (g.split 0).any fun sp => sp.pc == 0x1000 && sp.mask == 0xF
      | _ => false) = true := by decide +kernel

theorem test_witness_TrapEntry : (let s := stand (seat .nop)
    (s.gang 0).any fun g => (g.split 0).any fun sp => g.handler.isNone && g.tvec != 0 && !s.umbraTaken (g.setSplit 0 (some { sp with hold := .run }))) = true ∧
    (let t := (stand (seat .nop)).takeTrap 0 0 cSWTRAP 0 0x42 0xF true none
     (t.gang 0).any fun g => g.trapCode == 0x14 && g.trapPc == 0x1004 && g.trapArg == 0x42 && g.trapMask == 0xF && g.trapSplit == 0x10 &&
       (g.split 0).any (·.pc == 0x2000)) = true := by decide +kernel

theorem test_witness_TrapReturn : (let s := stand (handling .rtt)
    (s.gang 0).any fun g => g.handler.any fun h => h.reason.isNone && g.saving.isNone &&
      tableOk g.live ((h.splits.filterMap fun o => o.map (·.mask)) ++ s.ovfMasks g) 0 && h.lanes.length == g.lanes.length) = true := by decide +kernel

/-- The machine at a word, with core 0 in a given state. -/
def standCore (g : Gang) (x : Core) : State := (stand g).setCore 0 x

/-- A program of the gang on the sequencer of core 0. -/
def program : Nest := { gang := 0, ctr := 1, ppc := 0, pblk := 0 }

theorem test_witness_EngineCallWords :
    (traps (stand (seat (.mcall 1 0 7))) (.mcall 1 0 7) cILLOP &&
      met (standCore (seat (.mcall 1 0 7)) { control := [(1, [0])] }) (.mcall 1 0 7)
        (fun s c => (c.one.check [(.src false, 0)]).isNone && tgetD (s.core c.g.core).control 1 [] != [])) = true ∧
    (traps (stand (seat (.fork 8 4 6 5))) (.fork 8 4 6 5) cMISALIGN && runs (stand (seat (.fork 8 0 6 5))) (.fork 8 0 6 5) &&
      runs (standCore (seat (.fork 8 0 6 5)) { nest := some program }) (.fork 8 0 6 5) &&
      runs (standCore (seat (.fork 8 0 6 5)) { nest := some { program with gang := 1 } }) (.fork 8 0 6 5) &&
      holds (stand { seat (.fork 8 0 6 5) with ctrs := [(5, 63)] }) (.fork 8 0 6 5) .wait) = true ∧
    (holds (standCore (seat (.joine 8 0)) { nest := some program }) (.joine 8 0) .wait && runs (stand (seat (.joine 8 0))) (.joine 8 0) &&
      runs (standCore (seat (.joine 8 1)) { nest := some program }) (.joine 8 1)) = true ∧
    (runs (stand (seat (.doze 8))) (.doze 8) && holds (stand (seat (.doze 0))) (.doze 0) (.doze 8)) = true ∧
    (let s := { stand { seat (.doze 0) with splits := [some { headerAt 0x1004 0xF with hold := .doze 8 }] } with pkg := { time := 8 } }
     (s.gang 0).any (fun g => !g.frozen && (g.split 0).any fun sp => sp.hold == .doze 8) && match exec (.dozeWake 0 0) s with
      | .next t => (t.gang 0).any fun g => (g.split 0).any (·.hold == .woken)
      | _ => false) = true := by decide +kernel

/-- A gang of eight lanes on slices 0 and 1, and one of four lanes on slice `k`. -/
def eight (i : Instr) : Gang := { seat i with
  width := 8
  lanes := (List.range 8).map fun k => { takes := true, regs := [(0, BitVec.ofNat 32 k)] }
  splits := [(placedGang 0 i.span).split 0 |>.map fun sp => { sp with mask := 0xFF }, none, none, none] }
def quarter (i : Instr) (id slice : Nat) (hold : Hold) : Gang := { seat i with
  id := id
  slice := slice
  splits := [(placedGang 0 i.span).split 0 |>.map fun sp => { sp with hold := hold }, none, none, none] }

/-- R115, R117, R118: eight lanes divide into two gangs of four; two gangs of four that wait in FUSE become one of eight. -/
theorem test_witness_WidthChanges :
    (let two := stand { seat .converge with splits := [(seat .converge).split 0, some (headerAt 0x1000 0), none, none] }
     holds two .converge .converge && met two .converge (fun _ c => !c.gathered)) = true ∧
    (runs (stand (seat .converge)) .converge && met (stand (seat .converge)) .converge (fun _ c => c.gathered && (c.g.split 0).isSome)) = true ∧
    (traps (stand (seat (.split 8 4))) (.split 8 4) cILLOPND && holds (stand { eight (.split 8 4) with ctrs := [(0, 1)] }) (.split 8 4) .converge &&
      met (stand (eight (.split 8 4))) (.split 8 4) (fun s c => (c.check [(.dst false, 8)]).isNone && c.g.handler.isNone && decide (4 < c.g.width) &&
        c.g.proposal.isNone && c.gathered && c.g.drained && decide (1 ≤ (s.freeIds c.g.core).length)) &&
      match exec (.split 8 4) (stand (eight (.split 8 4))) with
      | .next t => t.gangs.map (fun x => (x.2.width, x.2.slice, x.2.lanes.length)) == [(4, 0, 4), (4, 1, 4)]
      | _ => false) = true ∧
    (runs (stand (quarter (.fuse 8) 0 0 .fuseTmo)) (.fuse 8) && runs (stand (quarter (.fuse 8) 0 0 .fuseGone)) (.fuse 8) &&
      runs (stand (quarter (.fuse 8) 0 0 .run)) (.fuse 8)) = true ∧
    (let s := { stand (quarter (.fuse 8) 0 0 .run) with gangs := [(0, quarter (.fuse 8) 0 0 .run), (1, quarter (.fuse 8) 1 1 (.fuse 0 8))] }
     met s (.fuse 8) (fun s c => (c.check [(.dst false, 8)]).isNone && c.sp.hold == .run && (s.fuseCheck c.g).isNone && c.g.drained &&
      (s.buddy c.g).any fun b => (pairCheck c.g b.2.1).isNone && decide (c.g.slice < b.2.1.slice)) && match exec (.fuse 8) s with
      | .next t => t.gangs.map (fun x => (x.1, x.2.width)) == [(0, 8)]
      | _ => false) = true ∧
    (let s := { stand (quarter (.fuse 8) 0 0 (.fuse 0 8)) with pkg := { uptime := 8000 } }
     match exec (.fusetmoExpiry 0 0) s with
      | .next t => (t.gang 0).any fun g => (g.split 0).any (·.hold == .fuseTmo)
      | _ => false) = true ∧
    (let s := stand { seat .nop with lanes := List.replicate 4 { live := false } }
     ((s.gang 0).any fun g => s.gangDone g && g.failures.isEmpty) && match exec (.gangEnd 0) s with
      | .next t => (t.gang 0).isNone
      | _ => false) = true := by decide +kernel

theorem test_witness_WidthKeepsLanes : (eight .nop).lanes.length = (eight .nop).width ∧ 4 ∣ (eight .nop).width ∧
    ((eight .nop).part (headerAt 0 0) 4 1 1).lane 3 = (eight .nop).lane 7 ∧
    (fuseGangs (eight .nop) (seat .nop) none none).lane 11 = (seat .nop).lane 3 := by decide +kernel

/-- A gang with an open proposal of v4 and v5. -/
def proposing (i : Instr) : Gang := { seat i with
  proposal := some ⟨4, 2, 0⟩
  lanes := List.replicate 4 { takes := true, written := 1, shadow := [(0, 77)], regs := [(0, 8), (2, 64), (4, 3)] } }

/-- R183 to R186: a lane accepts where A is at least B. -/
theorem test_witness_ProposalWords :
    (runs (stand (seat (.shbegin 208 16))) (.shbegin 208 16) && traps (stand (proposing (.shbegin 0 1))) (.shbegin 0 1) cSHADOWERR &&
      traps (stand (seat (.accept 0xF0 0 2 true))) (.accept 0xF0 0 2 true) cSHADOWERR &&
      runs (stand (proposing (.accept 0xF0 0 2 false))) (.accept 0xF0 0 2 false) &&
      traps (stand (seat .shabort)) .shabort cSHADOWERR && runs (stand (proposing .shabort)) .shabort &&
      traps (stand (seat (.shread 8 4))) (.shread 8 4) cSHADOWERR && traps (stand (proposing (.shread 8 6))) (.shread 8 6) cILLOPND &&
      traps (stand (proposing (.shread 8 3))) (.shread 8 3) cILLOPND &&
      runs (stand (proposing (.shread 8 4))) (.shread 8 4) && runs (stand (proposing (.shread 8 5))) (.shread 8 5)) = true := by decide +kernel

theorem test_witness_AcceptExchanges : (let p : Proposal := ⟨4, 2, 0⟩
    let l := (proposing .nop).lane 0
    decide (p.n ≤ 16) && l.written.getLsbD 0 && !l.written.getLsbD 1 && tgetD (l.accept p).regs 4 0 == 77 && tgetD (l.accept p).shadow 0 0 == 3) = true := by
  decide +kernel

/-- A context with a scratchpad window of 4,096 bytes. -/
def standPad (g : Gang) : State := (stand g).setCtx 0 { spLim := 4096 }

/-- A gang whose counter c3 stands at 63. -/
def full3 (g : Gang) : Gang := { g with ctrs := [(3, 63)] }

def teamWords : List Instr := [.ldt 8 2 3 2, .ldt 16 2 3 5, .stt 6 2 3 0, .atomt 8 2 4 false 10 3, .atomt 8 2 4 true 0 3, .ringrot 8 2 4 2 1 3,
  .ringrot 8 2 4 10 20 3, .mbinit 4 2 3, .mbarv 4 2 3]

theorem test_witness_TeamMemoryAccesses :
    (teamWords.all fun i => runs (stand (seat i)) i && holds (stand (full3 (seat i))) i .wait) = true ∧
    (traps (stand (seat (.ldt 8 4 3 2))) (.ldt 8 4 3 2) cMISALIGN && traps (stand (seat (.stt 0xE8 2 3 5))) (.stt 0xE8 2 3 5) cILLOPND &&
      traps (stand (seat (.atomt 8 2 4 false 11 3))) (.atomt 8 2 4 false 11 3) cILLOPND &&
      traps (stand (seat (.ringrot 8 2 4 1 1 3))) (.ringrot 8 2 4 1 1 3) cILLOPND && traps (stand (seat (.mbinit 4 4 3))) (.mbinit 4 4 3) cMISALIGN) = true := by
  decide +kernel

def gx0 : MemGx := ⟨false, false, 0, 0, 0⟩
def virtualWords : List Instr := [.ldg 8 2 3 2 gx0, .ldg 16 2 3 5 { gx0 with ord := 2, offset := 64 }, .stg 6 2 3 3 gx0, .atomg 8 2 3 2 gx0,
  .atomg 8 2 3 3 { gx0 with offset := 9, ord := 1 }, .faddg 8 2 3 2 gx0, .casg 8 2 3 3 gx0, .prefg 2 3 5 gx0, .acq 8 2 3 { gx0 with ord := 2 },
  .rel 8 2 3 { gx0 with ord := 2 }, .ldp 16 2 3 5, .stp 6 2 3 2]

theorem test_witness_VirtualMemoryAccesses :
    (virtualWords.all fun i => runs (standPad (seat i)) i && holds (standPad (full3 (seat i))) i .wait) = true ∧
    ([.ldsp 8 2 3 3, .stsp 6 2 3 0].all fun i => runs (stand { seat i with spBytes := 4096 }) i && holds (stand { full3 (seat i) with spBytes := 4096 }) i .wait &&
      traps (stand { seat i with spBytes := 128 }) i cSPILLOVF) = true ∧
    (traps (stand (seat (.ldg 8 4 3 2 gx0))) (.ldg 8 4 3 2 gx0) cMISALIGN && traps (stand (seat (.ldp 8 2 3 2))) (.ldp 8 2 3 2) cPERMFAULT &&
      traps (stand (seat (.prefg 1 3 5 gx0))) (.prefg 1 3 5 gx0) cILLOPND) = true := by decide +kernel

/-- The machine with the first GiB of context 0 mapped on die 0, to the same address of package 0, or of another package through aperture 1. -/
def mapTo (pkg : Nat) (s : State) : State :=
  let e : DWord := BitVec.ofNat 64 (pkg * 2 ^ 44 + if pkg = 0 then 0x2807 else 0x2907)
  s.setDie 0 { s.die 0 with tlb := [(tlbKey 0 2 0, e)] }

/-- The machine with an access of lane 0 of gang 0 in flight. -/
def busy (s : State) : State := { s with
  flight := [(1, ⟨0, 0, 1, .access { kind := .load, space := .virt, dest := .none, size := 2, parts := [{ lane := 0, va := 0, len := 4 }] }⟩)] }

/-- The machine with a copy of gang 0 in flight, of batch 1. -/
def copying (s : State) : State := { s with flight := [(1, ⟨0, 0, 1, .copy { op := 1, desc := [], arg := 0, dest := .none, batch := some 1, lanes := [0] }⟩)] }

theorem test_witness_OrderingWords :
    (holds (stand { seat (.waitc 1 1) with ctrs := [(1, 2)] }) (.waitc 1 1) .wait &&
      traps (stand { seat (.waitc 1 2) with ctrs := [(1, 2)], failures := [{ ctr := 1, code := cMEMUE }] }) (.waitc 1 2) cMEMUE &&
      runs (stand { seat (.waitc 1 2) with ctrs := [(1, 2)] }) (.waitc 1 2)) = true ∧
    (holds (busy (stand (seat (.fence 3)))) (.fence 3) .wait && runs (stand (seat (.fence 3))) (.fence 3) && runs (stand (seat (.fence 0))) (.fence 0)) = true ∧
    (runs (stand (seat (.bseal 8))) (.bseal 8) && traps (stand (seat (.bwait 0 0))) (.bwait 0 0) cILLOPND &&
      holds (copying (stand { seat (.bwait 8 1) with batch := 1 })) (.bwait 8 1) .wait &&
      runs (stand { seat (.bwait 0 0) with batch := 8 }) (.bwait 0 0)) = true ∧
    (runs (stand (seat (.bind 12 0 8 3))) (.bind 12 0 8 3) &&
      runs ((stand (seat (.bind 12 0 8 3))).setCtx 0 { bindings := (List.range 64).map fun k => (k, ⟨0, 64, 0, 0⟩) }) (.bind 12 0 8 3) &&
      met (stand (seat (.bind 12 0 8 3))) (.bind 12 0 8 3) (fun s c => (c.check [(.dst false, 12)]).isNone && (c.one.check [(.src true, 8)]).isNone &&
        (c.one.dataTrap true true 0 16).isNone && (c.g.r64 2 c.low).toNat != 0 && tfree (s.ctx c.g.ctx).bindings 64 == some 0) &&
      runs (stand (seat (.unbind 0))) (.unbind 0)) = true ∧
    (runs (stand (seat (.tokqry 8 0))) (.tokqry 8 0) && runs (mapTo 1 (stand (seat (.tokqry 8 0)))) (.tokqry 8 0) &&
      runs (stand (seat (.tokrel 8 0))) (.tokrel 8 0) && runs (mapTo 1 (stand (seat (.tokrel 8 0)))) (.tokrel 8 0) &&
      met (mapTo 1 (stand (seat (.tokrel 8 0)))) (.tokrel 8 0) (fun s c => s.peerRegion c.g (c.g.r64 0 c.low) == some (2 ^ 23)) &&
      met (stand (seat (.tokrel 8 0))) (.tokrel 8 0) (fun s c => (s.peerRegion c.g (c.g.r64 0 c.low)).isNone)) = true := by decide +kernel

/-- A team whose barrier 0 has a target of 8 arrivals, 4 of them made. -/
def standBar (g : Gang) (b : Barrier) : State := let s := stand g
  { s with teams := s.teams.map fun x => (x.1, { x.2 with bars := [(0, b)] }) }

/-- A gang that holds at its word. -/
def waiting (g : Gang) (h : Hold) : Gang := { g with splits := [(g.split 0).map fun sp => { sp with hold := h }, none, none, none] }

/-- The machine with a live memory barrier word of phase 3 at offset 64 of the team's memory. -/
def barrierAt (g : Gang) : State := let s := stand g
  { s with mem := (s.mem.writeNat (teamBase 0 + 64) 8 (barWord 3 4 4)).setTag (teamBase 0 + 64) true }

theorem test_witness_BarrierWords :
    (traps (stand (handling (.bar 0 false 1))) (.bar 0 false 1) cILLOPND = false) ∧
    (met (stand (handling (.bar 0 false 1))) (.bar 0 false 1) (fun _ c => c.g.handler.isSome) &&
      traps (standBar (seat (.bar 0 false 1)) { count := 1, target := some 8 }) (.bar 0 false 1) cILLOPND &&
      holds (standBar (seat (.bar 0 true 2)) { count := 3, target := some 8 }) (.bar 0 true 2) (.bar 0 0) &&
      runs (standBar (seat (.bar 0 true 2)) { count := 4, target := some 8 }) (.bar 0 true 2) &&
      runs (stand (seat (.bar 0 false 0))) (.bar 0 false 0) &&
      runs (standBar (waiting (seat (.bar 0 false 2)) (.bar 0 0)) { phase := 1 }) (.bar 0 false 2)) = true ∧
    (traps (standBar (seat (.bararv 0 false 1)) { count := 1, target := some 8 }) (.bararv 0 false 1) cILLOPND &&
      runs (stand (seat (.bararv 0 true 2))) (.bararv 0 true 2) &&
      met (stand (handling (.barwt 0))) (.barwt 0) (fun _ c => c.g.handler.isSome) &&
      holds (stand { seat (.barwt 0) with arv := [(0, 0)] }) (.barwt 0) .wait && runs (stand (seat (.barwt 0))) (.barwt 0)) = true ∧
    (met (stand (handling (.clbar false))) (.clbar false) (fun s c => (s.team c.g.teamKey).isSome && c.g.handler.isSome) &&
      met (stand (waiting (seat (.clbar false)) (.clbar 0))) (.clbar false) (fun s c => (s.team c.g.teamKey).any (·.clPhase == 0) && c.g.handler.isNone &&
        c.sp.hold == .clbar 0) &&
      runs (stand (waiting (seat (.clbar false)) (.clbar 1))) (.clbar false) && runs (stand (seat (.clbar true))) (.clbar true)) = true ∧
    (met (barrierAt (handling (.mbwait 4 2))) (.mbwait 4 2) (fun s c => (s.barrierTrap c 4 2).isNone && c.g.handler.isSome) &&
      holds (barrierAt (seat (.mbwait 4 2))) (.mbwait 4 2) .wait && runs (barrierAt (seat (.mbwait 6 2))) (.mbwait 6 2)) = true ∧
    (let s := standBar (seat .nop) { count := 8, target := some 8 }
     let u := standBar (seat .nop) { count := 7, target := some 8 }
     ((s.barCheck 0 0).team 0).any (fun t => (t.bar 0).phase == 1 && (t.bar 0).count == 0) &&
      ((u.barCheck 0 0).team 0).any (fun t => (t.bar 0).phase == 0 && (t.bar 0).count == 7)) = true := by decide +kernel

/-- The machine after a word, with gang 0 before `i`. -/
def again (s : State) (first i : Instr) : State :=
  match exec first s with
  | .next t => match t.gang 0 with
    | some g => t.setGang 0 { g with splits := (placedGang (encode i).1 i.span).splits }
    | none => t
  | _ => s

theorem test_witness_SplitRequests :
    (holds (stand (full3 (seat (.tokacq 8 0 true 3)))) (.tokacq 8 0 true 3) .wait && runs (stand (seat (.tokacq 8 0 true 3))) (.tokacq 8 0 true 3) &&
      runs (mapTo 1 (stand (seat (.tokacq 8 0 true 3)))) (.tokacq 8 0 true 3) && traps (stand (seat (.tokacq 8 1 true 3))) (.tokacq 8 1 true 3) cILLOPND) = true ∧
    (holds (stand (full3 (seat (.coll 8 2 4 15 3)))) (.coll 8 2 4 15 3) .wait && runs (stand (seat (.coll 8 2 4 15 3))) (.coll 8 2 4 15 3) &&
      holds ((stand (seat (.coll 8 2 4 0 3))).setBase 0 { starts := List.replicate 64 ⟨0, 0, 0, 0, 0, 0, 0, 0⟩ }) (.coll 8 2 4 0 3) .wait) = true ∧
    (holds (busy (stand (seat (.signal 2 4)))) (.signal 2 4) .wait && runs (mapTo 0 (stand (seat (.signal 2 4)))) (.signal 2 4) &&
      met (mapTo 0 (stand (seat (.signal 2 4)))) (.signal 2 4) (fun s c => (s.follows c.key c.g.ctx { kind := .store, space := .virt, dest := .none, size := 3, ord := 2, scope := 2, parts := [] }
        { lane := c.low, va := c.g.r64 2 c.low, len := 8 }).afterLane.isEmpty &&
        match s.translateParts c.g .store [{ lane := c.low, va := c.g.r64 2 c.low, len := 8 }] with
        | (t, [p]) => !p.isHeld && (t.signalSub c.g.die c.g.ctx (c.g.r64 2 c.low) ((c.g.r32 4 c.low).setWidth 64)).isOk
        | _ => false)) = true := by decide +kernel

/-- The machine with a load of lane 0 of gang 0 performed, whose four bytes go to v9. -/
def loaded : State := { stand { seat .nop with ctrs := [(1, 1)] } with
  flight := [(7, ⟨0, 0, 1, .access { kind := .load, space := .team, dest := .reg false 36, size := 2
                                     parts := [{ lane := 0, va := 0, len := 4, st := .done 77 }] }⟩)] }

/-- R202: the value lands and the counter falls. -/
theorem test_witness_AccessCompletion :
    ((tget loaded.flight 7).any fun f => (loaded.gang f.gang).isSome && match f.job with
      | .access a => a.parts.all (fun p => !p.isOpen) && a.kind != .acq
      | _ => false) = true ∧
    (match exec (.accessComplete 7) loaded with
      | .next t => (t.gang 0).any fun g => tgetD (g.lane 0).regs 9 0 == 77 && g.outstanding 1 == 0 && t.flight.isEmpty
      | _ => false) = true := by decide +kernel

/-- R203: at the last word of the first HBM stack's team aperture the store keeps its neighbours. -/
theorem test_witness_DirectStore :
    (let s := stand (seat .nop)
     let a : Access := { kind := .store, space := .team, dest := .none, size := 2, parts := [] }
     let p : Part := { lane := 0, va := 4, pa := teamBase 0 + 4, len := 4, data := 0x112233445 }
     let t := (s.performDirect 16 0 a p).1
     !s.mem.isBad (p.pa % 2 ^ 44) && !s.mem.touchesTag (p.pa % 2 ^ 44) p.len && t.mem.readNat (teamBase 0) 12 == 0x1223344500000000) = true := by decide +kernel

/-- R227: an arrival that is the last of its phase, and one that is not; phase 0x7FFF is followed by phase 0. -/
theorem test_witness_MemoryOperators : (barArrival (barWord 0x7FFF 4 1) 1 == barWord 0 4 4 && barArrival (barWord 3 4 2) 1 == barWord 3 4 1 &&
    barArrival 5 1 == 5 && atomicOp 4 0 0 0xFFFFFFFF 1 0 == 0 && atomicOp 4 0 2 0x80000000 1 0 == 0x80000000 &&
    atomicOp 4 0 4 0x80000000 1 0 == 1 && atomicOp 8 0 10 5 6 5 == 6 && atomicOp 8 0 10 5 6 4 == 5) = true := by decide +kernel

theorem test_witness_WordsOutOfPlace :
    (let idle (i : Instr) : State := stand { seat i with lanes := List.replicate 4 {} }
     ((idle (.add 8 0 2)).issuer.any fun c => c.act.isEmpty) && ((encode (.add 8 0 2)).1 < 3 : Bool)) = true ∧
    (([Instr.xsave 0, .xrstr 0, .splrd 8 0, .splwr 0 2, .replv 0, .tlbinv 0 2, .shsave 0, .shrstr 0, .mstore 0 2].all fun i =>
      match exec i (stand (seat i)) with
      | .next t => (t.gang 0).any fun g => g.inHandler && bits g.trapCode 0 8 == cPRIV
      | _ => false) &&
     ([Instr.bra 1, .brp false 0 1, .bru false 0 1, .brx 0, .call 1, .callx 4 0, .ret 0, .exit, .rtt].all fun i =>
      let g := seat i
      (match exec i (stand { g with splits := [(g.split 0).map fun sp => { sp with hdr := 0x20000000 }, none, none, none] }) with
        | .next t => (t.gang 0).any fun g => g.inHandler && bits g.trapCode 0 8 == cILLCLAUSE
        | _ => false) &&
      (match exec i (stand { g with splits := [(g.split 0).map fun sp => { sp with mvalid := true }, none, none, none] }) with
        | .next t => (t.gang 0).any fun g => g.inHandler && bits g.trapCode 0 8 == cILLOP
        | _ => false))) = true := by decide +kernel

/-- A word that only the handler of a SERVICE gang may issue, in such a handler. -/
def guarded (i : Instr) : State := mapTo 0 (stand { handling i with service := true, regBytes := 32 })

theorem test_witness_PrivilegedWords :
    (met (mapTo 0 (stand { handling (.xsave 0) with ctrs := [(1, 1)], service := true })) (.xsave 0) (fun _ c => !c.g.drained) && runsInHandler (guarded (.xsave 0)) (.xsave 0) &&
      runsInHandler (again (guarded (.xsave 0)) (.xsave 0) (.xrstr 0)) (.xrstr 0) &&
      met (guarded (.xrstr 0)) (.xrstr 0) (fun s c => match s.vread c.g.die c.g.ctx (c.g.r64 0 c.low) c.g.imageSize with
        | .ok img => !c.g.imageOk img
        | .error _ => false)) = true ∧
    ([Instr.splrd 8 4, .splwr 6 8, .splwr 6 2, .tlbinv 0 6, .tlbinv 0 8, .shsave 0].all fun i => runsInHandler (guarded i) i) = true ∧
    met (guarded (.tlbinv 0 4)) (.tlbinv 0 4) (fun _ c => decide (1 < (c.g.r32 4 c.low).toNat)) = true ∧
    (runsInHandler { guarded (.shrstr 0) with mem := ({} : Mem).writeNat 0x110 4 4 } (.shrstr 0) && runsInHandler (guarded (.mstore 0 0)) (.mstore 0 0)) = true ∧
    (let f : Failure := { ctr := 1, code := cMEMUE, cause := 1, mask := 0xF, repl := some (.reg false 0, 4) }
     let g := handling (.replv 0)
     runsInHandler (stand { g with service := true, trapCode := 0x10D, trapMask := 0xF, failures := [f], handler := g.handler.map fun h => { h with failure := some f } })
       (.replv 0)) = true := by decide +kernel

theorem test_witness_SaveImageRoundTrip : (let g := handling .nop
    decide (3 < g.width) && g.regBytes % 4 == 0 && (g.lane 3).poison.isEmpty) = true := by decide +kernel

/-- A context that drains, with its gang frozen and a PVEC. -/
def draining (g : Gang) (pvec : DWord) (since : Option DWord) : State := { (stand g).setCtx 0 { pvec := pvec, drains := [{
  die := none
  escalated := since.map fun t => (0, t) }] } with pkg := { time := 2000000 } }

theorem test_witness_Preemption :
    (let s := draining (seat .nop) 0x3000 none
     s.hasTeams 0 none && decide (1000 * (s.ctx 0).drainLim.toNat ≤ (s.pkg.time - 0).toNat) && match exec (.drainlimExpiry 0) s with
      | .next t => (t.gang 0).any fun g => g.saving == some 0
      | _ => false) = true ∧
    (let s := draining { seat .nop with saving := some 0 } 0x3000 (some 0)
     ((s.gang 0).any fun g => g.handler.isNone && g.pendingTrap.isNone && g.drained && !s.gangHeld 0 g && !s.umbraTaken g) &&
      match exec (.preemptEntry 0) s with
      | .next t => (t.gang 0).any fun g => g.trapCode == 0x13 && (g.split 0).any (·.pc == 0x3000)
      | _ => false) = true ∧
    (let s := draining { seat .nop with saving := some 0 } 0 (some 0)
     match exec (.preemptEntry 0) s with
      | .next t => (t.gang 0).isNone
      | _ => false) = true ∧
    (let s := draining (waiting { seat .nop with saving := some 0 } (.fault 1 0 0)) 0x3000 (some 0)
     s.saveOverdue 0 0 && (s.gang 0).any fun g => g.frozen && s.gangHeld 0 g) = true ∧
    (let s := draining { handling .nop with saving := some 0 } 0x3000 (some 0)
     s.saveOverdue 0 0 && (s.gang 0).any fun g => g.saving.isSome && g.handler.isSome) = true := by decide +kernel

/-- A gang before a matrix word: v7 the format word, v8:v9 an image address, v10:v11 a subscription, v12:v15 a stream; o4 and o5 addresses. -/
def matrixGang (i : Instr) : Gang := { seat i with
  lanes := (List.range 4).map fun k => { takes := true, ofile := [(4, BitVec.ofNat 32 (256 * k)), (5, 2048)]
                                         regs := [(8, 0x4000), (10, 0x200), (11, 1024), (12, 0x8000), (14, 3), (15, 64)] } }

def rowWords : List Instr := [.tmma 2 1 4 7 5 0, .tgmma 2 4 4 7 5 0, .tzero 2 5, .tld 1 4 5 0, .tst 1 4 5 3, .accst 2 4 5 1, .accld 2 4 5 2, .tamax 2 4 5 0]

/-- R24, R258: each row word is handed off, and stalls at a counter of 63. -/
theorem test_witness_MatrixRowHandOffs : (rowWords.all fun i => runs (stand (matrixGang i)) i &&
    holds (stand { matrixGang i with ctrs := [(5, 63)] }) i .wait) = true ∧
    (traps (stand (matrixGang (.tmma 2 1 4 8 5 0))) (.tmma 2 1 4 8 5 0) cILLOPND && traps (stand (matrixGang (.tld 15 4 5 1))) (.tld 15 4 5 1) cILLOPND &&
      traps (stand (matrixGang (.tamax 2 4 5 2))) (.tamax 2 4 5 2) cILLOPND) = true := by decide +kernel

/-- The machine with gang 0's team subscribed, under handle 0, to stream 0 of 64-byte tiles at address 0x8000. -/
def subscribed (s : State) : State := (mapTo 0 s).setDie 0 { (mapTo 0 s).die 0 with streams := [(0, ⟨0, 0x8000, 3, 64⟩)] } |>.setSub 0 1
  { handle := some 0, stream := 0, window := 2, buf := 1024, active := true }

/-- A program of gang 0 that has ended, and one that runs. -/
def ended : Core := { nest := some { program with state := 3 } }

def wholeWords : List Instr := [.ttrans 4 7 5, .tbmap 4 7 5, .strdef 12 5, .strsub 8 10 5]

theorem test_witness_MatrixWholeHandOffs :
    (wholeWords.all fun i => runs (stand (matrixGang i)) i && holds (stand { matrixGang i with ctrs := [(5, 63)] }) i .wait) = true ∧
    ([Instr.stradv 8 5, .strunsub 8 5, .tbmap 8 7 5].all fun i => runs (subscribed (stand (matrixGang i))) i && traps (stand (matrixGang i)) i cILLOPND) = true ∧
    (runs (standCore (matrixGang (.msave 8 5 true)) ended) (.msave 8 5 true) && traps (stand (matrixGang (.msave 8 5 true))) (.msave 8 5 true) cILLOPND &&
      runs (stand (matrixGang (.mresume 8 5))) (.mresume 8 5) && traps (stand (matrixGang .mloop)) .mloop cILLOPND &&
      traps (stand (matrixGang .mend)) .mend cILLOPND) = true := by decide +kernel


/-- The machine before the quarter operation of a matrix word. -/
def handedOff (s : State) (m : MJob) : State := { s with flight := [(7, ⟨0, 0, 5, .matrix m⟩)] }

/-- TZERO of lane 1's acc2 before its one quarter operation; the lanes' register words hold 7. -/
def zeroing : State := handedOff (stand { matrixGang .nop with
  ctrs := [(5, 1)]
  lanes := List.replicate 4 { regs := (List.range 128).map fun k => (k, 7) } }) { op := 3, lanes := [⟨1, 0, [], 0⟩], quarters := [0], acc := 2, off := 256 }

def subbed : State := subscribed (stand (matrixGang .nop))

/-- A program of one tile step on the sequencer: its clause at 0x1000, its block at 0xE00 of team memory, C from zero. -/
def tiling : State :=
  let s := mapTo 0 (standCore (matrixGang .nop) { nest := some { program with ppc := 0x1000, pblk := 0xE00 } })
  let mem := (s.mem.write 0x1000 (wordBytes [0x22000000, 0x3C000000, 0x40000000])).write (teamBase 0 + 0xE00)
    (leBytes 4 0 ++ leBytes 4 2048 ++ leBytes 4 8192 ++ leBytes 12 0x80000000000000000 ++ leBytes 2 1 ++ leBytes 2 1 ++ leBytes 2 1 ++ leBytes 2 8 ++ leBytes 2 0x911)
  { s with
    mem := mem
    teams := s.teams.map fun x => (x.1, { x.2 with shared := 65536 }) }

def booted (s : State) : Option (State × Gang × Nest) := match (s.core 0).nest, s.gang 0 with
  | some n, some g => match s.bootNest g n with
    | (t, b, none) => some (t, g, b)
    | _ => none
  | _, _ => none
def stepped (x : State × Gang × Nest) : Bool := match x.1.stepNest x.2.1 x.2.2 with
  | (_, .ok _) => true
  | _ => false

theorem test_witness_MatrixEngineSteps :
    (match exec (.quarterOpComplete 7) zeroing with
      | .next t => (t.gang 0).any fun g => tgetD (g.lane 1).regs 64 9 == 0 && tgetD (g.lane 1).regs 96 9 == 7 && tgetD (g.lane 0).regs 64 9 == 7 && g.outstanding 5 == 0
      | _ => false) = true ∧
    ((tget zeroing.flight 7).any fun f => f.matrix.any fun m => (zeroing.gang f.gang).any fun g => !zeroing.matrixBlocked 7 f g m &&
      (tget (zeroing.runMatrix g m).1.flight 7).isSome) = true ∧
    ((booted tiling).any stepped) = true ∧
    (let s := standCore (matrixGang .nop) { nest := some { program with ppc := 0x1000 } }
     (booted s).isNone && match exec (.tileStep 0) s with
      | .next t => (t.core 0).nest.any (·.state == 3)
      | _ => false) = true ∧
    ((subbed.team 0).any fun t => (tget t.subs 1).any fun x => subbed.tileAdmitted 0 1 x && (subbed.stream 0 0).isSome &&
      !subbed.tileAdmitted 0 1 { x with active := false }) = true ∧
    (match exec (.prismTileWrite 0 1) subbed with
      | .next t => (t.team 0).any fun x => x.subs.any fun y => y.2.arrived == 1
      | _ => false) = true ∧
    (let s := { zeroing with pkg := { uptime := 16777216 } }
     (s.oldestWork 0).isSome && match exec (.matrixHang 0) s with
      | .next t => (t.gang 0).any fun g => g.failures.any (·.code == cTILEFAIL)
      | _ => false) = true := by decide +kernel

/-- R253: the place of a step of a program of 2 × 2 × 2 tiles. R264: a B tile object of 32 rows in each format. -/
theorem test_witness_MatrixValues :
    (let n : Nest := { program with params := List.replicate 24 0 ++ [2, 0, 2, 0, 2, 0], mcol := 1, mdep := 1 }
     decide (n.mdep < n.kt) && decide (n.mcol < n.nt) && n.forward.mrow == 1 && n.forward.mcol == 0 && n.forward.mdep == 0) = true ∧
    ((List.range 4).all fun af => (List.replicate (8 + 32 * rowBytes af) (1 : Byte)).length == 8 + 32 * rowBytes af) = true ∧
    isZeroElem 0 0x10 = true ∧ (0x31 : Nat) < 64 ∧ (0x31 : Nat) ≠ 0x30 ∧ (0x31 : Nat) ≠ 0x10 := by decide +kernel

/-- R292, R293: the descriptor at 64 of team memory; MIGR is privileged. -/
theorem test_witness_CopyHandOffs :
    ([Instr.copy 16 2 3 true, .copyt 16 2 3 false, .copyg 16 2 3 false, .copys 16 2 3 false, .copym 16 2 3 false, .copyn 16 2 3 false, .fill 16 2 3 false,
      .chain 16 2 3 false, .chstat 16 2 3 false, .chabort 16 2 3 false, .copyr 16 2 3 false].all fun i => runs (stand (seat i)) i &&
        holds (stand (full3 (seat i))) i .wait) = true ∧
    (runsInHandler (guarded (.migr 16 2 3 false)) (.migr 16 2 3 false) && traps (stand (seat (.migr 16 2 3 false))) (.migr 16 2 3 false) cPRIV &&
      traps (stand (seat (.copy 16 4 3 false))) (.copy 16 4 3 false) cMISALIGN) = true := by decide +kernel

/-- The machine with a copy-class job of gang 0 in flight. -/
def jobAt (s : State) (j : CJob) : State := { s with flight := [(7, ⟨0, 0, 5, .copy j⟩)] }

/-- A chain channel 0 of context 0, running at 0x4000, whose record there is `rec`. -/
def chained (rec : List Byte) : State :=
  let s := mapTo 0 (stand (seat .nop))
  { s.setDie 0 { s.die 0 with chans := [(0, { ctx := some 0, state := 1, pos := 0x4000 })] } with mem := s.mem.write 0x4000 rec }

/-- A message of the network path with one packet, sent 0x100000 ns ago. -/
def sending (retries : Nat) : State := { jobAt (stand (seat .nop)) { op := 6 } with
  pkg := { time := 0x100000, net := [(1, { op := 7, fetch := false, peer := ⟨0, 0, 0, []⟩, ctx := 0, len := 64, data := [], raddr := 0, rsig := 0, retries := retries })] } }

/-- A network packet for context 0, partition 0, of 8 bytes. -/
def netIn (ext : Option Word) (fetch : Bool := false) : NetPacket := ⟨5, ext, 0, 9, 0, 8, 0x6000, 0, [1, 2, 3, 4, 5, 6, 7, 8], fetch⟩
def receiving : State :=
  let s := mapTo 0 ((stand (seat .nop)).setCtx 0 {})
  s.setCtxRec 0 0 { valid := true }

/-- A record of a chain that hands a block copy to the engine. -/
def ownedRecord : List Byte := List.replicate 8 0 ++ leBytes 4 0x80000000 ++ List.replicate 52 0

/-- The job may be performed, and the flight is its own. -/
def mayRun (s : State) : Bool := (s.gang 0).isSome && (tget s.flight 7).any fun f => match f.job with
  | .copy j => !s.writesBefore 7 0 j && j.held.isNone && j.cause == 0
  | _ => false

theorem test_witness_CopyEngineSteps :
    ([({ op := 1, lanes := [0] } : CJob), { op := 8, arg := 0x4000 }, { op := 9, arg := 63 }, { op := 10, arg := 0 }, { op := 5 }, { op := 6 }, { op := 12 }].all fun j =>
      mayRun (jobAt (stand (seat .nop)) j) && match exec (.copyJobComplete 7) (jobAt (stand (seat .nop)) j) with
      | .next t => t.flight.isEmpty
      | _ => false) = true ∧
    (let s := { stand (seat .nop) with flight := [(6, ⟨0, 0, 5, .copy { op := 1, held := some (1, 9) }⟩), (7, ⟨0, 0, 5, .copy { op := 7 }⟩)] }
     s.writesBefore 7 0 { op := 7 } && !s.writesBefore 7 0 { op := 6 } && !s.writesBefore 6 0 { op := 1 } && (chained []).chan 0 0 == { ctx := some 0, state := 1, pos := 0x4000 }) = true ∧
    (let s := jobAt (stand (seat .nop)) { op := 5, desc := List.replicate 64 0, due := [0, 1] }
     (s.gang 0).any fun g => (s.team g.teamKey).any fun t => t.clusterCores == [0] && ((s.clusterTeams t).find? fun x => x.2.core == 512).isNone &&
      ((s.clusterTeams t).find? fun x => x.2.core == 0).any fun x => decide (0 + 16 ≤ x.2.shared) && match (s.blockWrite 16 (teamBase 0 + x.2.base) [1, 2]).2 with
      | (n, e) => n == 2 && e == none) = true ∧
    ([chained [], chained ownedRecord].all fun s => (s.chan 0 0).ctx == some 0 && (s.chan 0 0).state == 1 && (s.chan 0 0).cur.isNone &&
      (s.unitCheck 0 0 0x4000 64 .load).isNone && match s.vread 0 0 0x4000 64 with
      | .ok rec => decide (fieldBytes rec 8 4 = 0) || (match recordJob rec (0, 0) with | .ok _ => true | .error _ => false)
      | .error _ => false) = true ∧
    (({ op := 1, cause := 3 } : CJob).over && !({ op := 1 } : CJob).over && !({ op := 1, started := true } : CJob).over) = true ∧
    (decide (netTimeout 8 ≤ 0x100000) = false ∧ decide (netTimeout 8 ≤ 2000000) = true ∧ decide (netTimeout 3 ≤ 0x100000) = true) ∧
    ((sending 3).pkg.net.all fun x => x.2.packets == 1 && x.2.acked.isEmpty && !x.2.fetch) = true ∧
    (extOk none 0 = false ∧ extOk (some 0x10000000) 0 = true) ∧
    (receiving.homeDie 0 = some 0 ∧ (tget receiving.ctxs 0).isSome = true ∧
      (match receiving.netWrite 0 0 0x6000 (netIn none).data with
        | .ok t => t.pkg.recvDone.isEmpty
        | .error _ => false) = true ∧
      (match exec (.netPacketReceive (netIn (some 0x10000000) true)) receiving, exec (.netPacketReceive (netIn (some 0x10000000))) receiving with
        | .next t, .next u => t.pkg.outs.length == 1 && u.pkg.recvDone.length == 1 && u.mem.readNat 0x6000 2 == 0x201
        | _, _ => false) = true) := by decide +kernel

/-- R53, R296: 200 bytes from 0x3F are four moves, the second one whole line. R280: a box of 2 × 3 × 2 × 2. -/
theorem test_witness_CopyShapes : ((blockMoves 0 0x3F 1 0 200)[1]?.any fun m => m.src == some (0, 0x40) && m.len == 64) = true ∧
    (let j : CJob := { op := 2, desc := List.replicate 64 2 }
     decide (0 < j.box 0) && decide (0 < j.box 1) && decide (0 < j.box 2)) = true := by decide +kernel

/-- An Attar context before the last word of its clause: x0 an address, x1 = 3, x2 = 0. -/
def turn0 : ACtx := { pc := 1, left := 1, gang := 0, op := 0, ctx := 0, die := 0, x := [(0, 0x6000), (1, 3)] }
/-- A slot of the context, and a completed one. -/
def slot0 : Slot := { state := 1, owner := 0, tag := 0, part := 0, op := 0, expMask := 3 }
/-- The machine at a word of the context. -/
def turning (x : ACtx) (b : Base) : State := { (mapTo 0 State.reset).setBase 0 { b with actxs := [(0, x)] } with cursor := .attar 0 0 }

/-- The word answers a next state in which a condition on its context holds. -/
def turns (s : State) (i : Instr) (p : ACtx → Bool) : Bool := s.attarTurn.isSome && match exec i s with
  | .next t => (tget (t.base 0).actxs 0).any p
  | _ => false
/-- The word answers a next state in which its program has ended. -/
def endsProgram (s : State) (i : Instr) : Bool := s.attarTurn.isSome && match exec i s with
  | .next t => (tget (t.base 0).actxs 0).isNone
  | _ => false

theorem test_witness_AttarWords :
    (let past (x : ACtx) : Bool := x.pc == 2
     let idle := turning turn0 {}
     let open1 := turning turn0 { slots := [(0, slot0)] }
     let open2 := turning turn0 { slots := [(0, { slot0 with state := 2 })] }
     let full := turning turn0 { slots := (List.range 256).map fun k => (k, slot0) }
     ([Instr.cmovi 4 1 5, .caddi 4 0 0x3FFF, .cadd 4 0 1, .cld 4 0 0, .cst 0 1 0, .cldl 1 0 0, .cstl 0 1 0, .cvop 1 2 3 11, .copen 5 1 2 11 7,
        .cstat 4 2 8, .cstat 4 2 9, .cbz 1 4, .cbnz 2 4, .csig 1].all fun i => turns idle i past) &&
     endsProgram idle (.cvop 1 2 3 12) && turns full (.copen 5 1 2 0 0) (fun x => past x && x.xr 5 == 0xFFFFFFFFFFFFFFFF) &&
     turns idle (.ccont 5 1 1) (fun x => x.pc == 1) && turns idle (.csend 5 2 1) (fun x => x.pc == 1) &&
     turns open2 (.cwait 5 2) past && turns open1 (.cwait 5 2) (fun x => x.wait == .slot) && turns open2 (.cres 1 2) past && endsProgram open1 (.cres 1 2) &&
     turns open1 (.cfree 2) past && turns open1 (.cstat 5 2 0) (fun x => past x && x.xr 5 == 3) && turns open1 (.cstat 5 2 5) past &&
     turns (turning turn0 { msgs := [⟨0, 0, [7], 0⟩] }) (.crecv 1 2 3) (fun x => past x && x.lr 1 == [7]) &&
     turns (turning turn0 { msgs := [⟨1, 0, [7], 0⟩] }) (.crecv 1 2 3) (fun x => x.pc == 1) &&
     turns idle (.cbz 2 4) (fun x => x.pc == 4) && turns idle (.cbnz 1 4) (fun x => x.pc == 4) && turns idle (.cbra 0x1FFF) (fun x => x.pc == 8191) &&
     endsProgram idle (.cbra 0x3FFF) && endsProgram (turning { turn0 with status := 1 } {}) (.csig 1) && endsProgram idle .cend &&
     endsProgram (turning { turn0 with status := 1 } {}) .cend && endsProgram (turning { turn0 with left := 2 } {}) (.cbra 4)) = true := by decide +kernel

/-- A contribution, or a message, for slot 0. -/
def contribution : AttarMsg := ⟨0, some (0, 0), 0, 0, 0, 1, List.replicate 8 5⟩

/-- R330, R338, R339, R348. -/
theorem test_witness_AttarEngineSteps :
    (let s := (mapTo 0 (stand (seat .nop))).setBase 3 { starts := [⟨9, 0, 0, 0, 64, 0x6000, 0x6000, placedLeaf 0⟩] }
     tfree (s.base 3).actxs 16 == some 0 && (match s.readLine (placedLeaf 0) 0x6000 with | .ok _ => true | .error _ => false) &&
      match exec (.attarStart 3) s with
      | .next t => (tget (t.base 3).actxs 0).any fun x => x.pc == 64 && x.xr 0 == 0x6000 && x.xr 3 == 3
      | _ => false) = true ∧
    ((State.reset.setBase 0 { inReset := true }).base 0).inReset = true ∧
    (let at_ (e : Slot) : State := State.reset.setBase 0 { slots := [(0, e)] }
     let after (e : Slot) : Option (BitVec 64 × Nat) := match exec (.contributionAccept 0 contribution) (at_ e) with
      | .next t => (tget (t.base 0).slots 0).map fun (x : Slot) => (x.arrMask, x.state)
      | _ => none
     (after slot0 == some (2, 1) && after { slot0 with arrMask := 1 } == some (3, 2) && after { slot0 with arrMask := 2 } == some (2, 1) &&
      after { slot0 with tag := 1 } == some (0, 1) && after { slot0 with state := 2 } == some (0, 2))) = true ∧
    (let s : State := { State.reset.setBase 0 { slots := [(0, { slot0 with deadline := 5 })] } with pkg := { time := 5 } }
     match exec (.slotDeadline 0 0) s with
      | .next t => (tget (t.base 0).slots 0).any fun e => e.state == 2 && e.lateMask == 3
      | _ => false) = true ∧
    (let full := State.reset.setBase 0 { msgs := List.replicate 1024 ⟨1, 0, [], 0⟩ }
     let waits := turning { turn0 with wait := .recv 0 1000 1 0 2 3 } {}
     (full.receiver 0 0 0).isNone && (waits.receiver 0 0 0).isSome && (State.reset.receiver 0 0 0).isNone) = true ∧
    (let s : State := { State.reset.setBase 0 { msgs := [⟨1, 0, [], 0⟩] } with pkg := { time := 2000000 } }
     match exec (.messageExpiry 0) s with
      | .next t => (t.base 0).msgs.isEmpty && (t.base 0).drops == 1
      | _ => false) = true ∧
    (let s : State := { turning { turn0 with wait := .recv 0 1000 1 0 2 3 } {} with pkg := { time := 1000 } }
     match exec (.crecvTimeout 0 0) s with
      | .next t => (tget (t.base 0).actxs 0).any fun x => x.xr 3 == 1 && x.wait == .run
      | _ => false) = true ∧
    (let s : State := { turning { turn0 with wait := .send 0 0 true false 0 contribution 4 } {} with pkg := { time := 2000000 } }
     match exec (.contributionRetry 0 0) s with
      | .next t => (tget (t.base 0).actxs 0).any fun x => x.xr 4 == 2 && x.wait == .run
      | _ => false) = true := by decide +kernel

/-- A FADD request of this package to stack 5's memory. -/
def fadd : Packet := { kind := 3, dsock := 5, size := 2, leaves := 1, opnd := 1, addr := 0x140, tag := 0 }

/-- The machine with packets queued at output 0 of router 0. -/
def queued (qs : List Queued) (links : Tab Link) : State := State.reset.setBase 0 { outs := [(0, qs)], links := links }

/-- R311: from router 0 the way to stack 5 (0101) has two links. R316, R318: combining, refusals, grants. -/
theorem test_witness_RouterSteps :
    (reservedPacket {} && !reservedPacket fadd && combines fadd fadd && !combines fadd { fadd with addr := 0 }) = true ∧
    ((State.reset.base 0).parts.contains (5 * 4096) = false) ∧
    (match State.reset.way 0 fadd with
      | .out g => decide (g < 5) && neighbour 0 g ∈ [1, 4]
      | .fail _ _ => false) = true ∧
    (match State.reset.way 0 { fadd with dpkg := 1 } with
      | .fail code _ => code == cPERMFAULT
      | .out _ => false) = true ∧
    ((State.reset.base (State.reset.destStack fadd)).inReset = false ∧ State.reset.destStack fadd = 5) ∧
    (match exec (.routerPacketArrive 0 0 fadd) (queued [⟨1, 0, 0, fadd⟩] []) with
      | .next t => (tgetD (t.base 0).outs 0 []).map (fun x => (x.p.opnd, x.p.leaves, x.p.echo)) == [(2, 2, true)] && (t.base 0).echo.length == 1
      | _ => false) = true ∧
    (match exec (.routerPacketArrive 0 0 fadd) (queued [⟨1, 0, 0, { fadd with addr := 0 }⟩] []) with
      | .next t => (tgetD (t.base 0).outs 0 []).map (fun x => x.inPort) == [1, 0]
      | _ => false) = true ∧
    (match exec (.outputGrant 0 0) (queued [⟨1, 0, 31, { fadd with tag := 1 }⟩, ⟨2, 0, 32, { fadd with tag := 2 }⟩] []) with
      | .next t => (tgetD (t.base 0).outs 0 []).map (fun x => x.p.tag) == [1]
      | _ => false) = true ∧
    ((headsOf [⟨1, 0, 0, fadd⟩]).filter (fun h => (queued [⟨1, 0, 0, fadd⟩] [(0, { training := true })]).eligible 0 0 h.2.p)).isEmpty = true := by
  decide +kernel

/-- R318, R319: an echo record answers both requests. -/
def echoing : Base := { echo := [(3, { addr := 0x140, part := 0, size := 2, leaves := 2, firstLeaves := 1, first := 0, second := 0, firstOp := 1 })] }

theorem test_witness_FabricReplies :
    ((echoing.echoOf 3).isSome && ({} : Base).echoOf 3 == none) = true ∧ (fadd.size.toNat ≤ 3) ∧
    (match exec (.echoReply 0 { fadd with tag := 3, payload := [10, 0, 0] }) (State.reset.setBase 0 echoing) with
      | .next t => t.agenda.length == 2 && ((t.base 0).echoOf 3).isNone
      | _ => false) = true ∧
    ([0, 15, 16].all fun n => match exec (.linkFlitReceive 0 1 ⟨0, 0, [], false⟩ false) (State.reset.setLink 0 1 { fails := n }) with
      | .next t => tgetD (t.base 0).links 1 {} == { fails := n + 1, training := decide (n = 16) }
      | _ => false) = true ∧
    (match exec (.linkFlitReceive 0 1 ⟨0, 3, [], false⟩ true) State.reset, exec (.linkFlitReceive 0 1 ⟨1, 0, [], false⟩ true) State.reset with
      | .next t, .next u => tgetD (t.base 0).links 1 {} == { accepted := 1, acked := 3 } && tgetD (u.base 0).links 1 {} == {}
      | _, _ => false) = true ∧
    (match exec (.linkDown 0 4) State.reset, exec (.linkDown 0 5) State.reset with
      | .next t, .next u => t.pkg.down == [(0, 4)] && u.pkg.down == [(0, 5)]
      | _, _ => false) = true ∧
    (let s : State := { State.reset with pkg := { uptime := 10000000, outbound := [(3, { fadd with tag := 7 }, 0), (3, { fadd with tag := 8 }, 0)] } }
     match exec (.responseTimeout 7) s with
      | .next t => t.pkg.outbound.length == 1 && t.agenda.length == 1
      | _ => false) = true ∧
    (isResponse fadd.kind = false ∧ fadd.kind ≠ 0x0A ∧ fadd.kind ≠ 0x0D) := by decide +kernel

/-- A request of core 0's die to line 0x10000 of stack 0's memory. -/
def request (kind : BitVec 8) : Packet := { kind := kind, ssock := 16, size := 3, addr := 0x10000, opnd := 1, gcnt := 1, nopnd := 1, payload := [7] }

/-- R52 to R54, R313, R321. -/
theorem test_witness_MemoryUnits :
    (let s := State.reset
     apertureOf 0x10000 == .hbm (stackOf 0x10000) && (s.lineErr 0x10000).isNone && !s.lineLocked (stackOf 0x10000) (request 4) &&
      s.mem.clobbered 0x10000 8 1 == 0 && !s.mem.touchesTag 0x10000 8) = true ∧
    ([(1, 0), (2, 1), (3, 1), (4, 0)].all fun x : Nat × Nat => match exec (.memoryRequest (stackOf 0x10000) (request (BitVec.ofNat 8 x.1))) State.reset with
      | .next t => x.1 == 4 || t.mem.readNat 0x10000 8 % 256 == (if x.1 = 2 then 7 else x.2)
      | _ => false) = true ∧
    (let e : DirEnt := { exclusive := true, holders := [3], granted := 0 }
     let s := State.reset.setBase (homeOf 0) { dir := [(0, e)] }
     e.holders != [0] && e.blockers 0 false true == [3] && ({ e with exclusive := false } : DirEnt).blockers 0 false true == [] &&
      match exec (.memoryRequest (stackOf 0x10000) (request 1)) s with
      | .next t => (tget (t.base (homeOf 0)).dir 0).any fun e => e.pending.length == 1
      | _ => false) = true ∧
    ((({ State.reset with mem := { bad := [0x400] } }).lineErr 0x10000 == some (cMEMUE, 1)) && apertureOf 0xFFFFFFFFFFF == .none &&
      apertureOf 0x30000000000 == .mmio 0 0) = true ∧
    (match exec (.hostWrite 0 0x10000 [1, 2]) State.reset, exec (.hostWrite 1 0x10000 [1, 2]) State.reset,
        exec (.hostWrite 0 0x10000 [1, 2]) { State.reset with pkg := { recovery := true } } with
      | .next t, .next u, .next v => t.mem.readNat 0x10000 4 == 0x201 && t.pkg.hostq.isEmpty && u.mem.readNat 0x10000 4 == 0 &&
        u.pkg.outs.contains (.pcie none) && v.mem.readNat 0x10000 4 == 0 && v.pkg.errlogs == [] && v.pkg.outs == [.pcie none]
      | _, _, _ => false) = true ∧
    ([true, false].all fun ex => match exec (.tokenAcquireRequest (homeOf 0) { request 8 with side := if ex then 1 else 0, spkg := 5 }) State.reset with
      | .next t => (tget (t.base (homeOf 0)).dir 0).any fun e => e.holders == [5] && e.exclusive == ex
      | _ => false) = true ∧
    (let q : Packet := { request 8 with spkg := 5 }
     let e : DirEnt := { exclusive := true, holders := [3], granted := 0, pending := [(5, false, q)] }
     regionOf q.addr.toNat == 0 && ({ e with holders := [] } : DirEnt).blockers 5 false true == [] &&
      match exec (.recallAck (homeOf 0) 3 0) (State.reset.setBase (homeOf 0) { dir := [(0, e)] }) with
      | .next t => (tget (t.base (homeOf 0)).dir 0).all fun e => e.pending.isEmpty
      | _ => false) = true := by decide +kernel

/-- The machine with queue 3 of die 0. -/
def queuing (x : Queue) : State := (mapTo 0 State.reset).setDie 0 { (mapTo 0 State.reset).die 0 with queues := [(3, x)], recs := [(0, { valid := true })] }

/-- A queue of 64 slots at 0x10000 with a packet at READ. -/
def queue64 : Queue := { base := 0x10000, logsize := 6, tickets := 1, enable := true, write := 1 }
def ready64 : Queue := { queue64 with state := 1 }

/-- R367, R376: WRITE moves by at most 2^LOGSIZE. R366, R384, R216, R389: the registers' stores. -/
theorem test_witness_FrontEndRegisters :
    (let doors (x : Queue) (w : DWord) : Option (Nat × Nat) := match exec (.doorbell 0 3 w) (queuing x) with
      | .next t => some ((t.queue 0 3).state, (t.queue 0 3).write)
      | _ => none
     doors queue64 2 == some (1, 2) && doors queue64 64 == some (1, 64) && doors queue64 65 == some (3, 1) && doors queue64 0 == some (3, 1) &&
      doors queue64 1 == some (0, 1) && doors { queue64 with state := 3 } 2 == some (3, 1) && doors { queue64 with enable := false } 2 == some (0, 2)) = true ∧
    (let on (s : State) : Option Nat := match exec (.queueEnable 0 3) s with
      | .next t => some (if (t.queue 0 3).enable then (t.queue 0 3).state else 9)
      | _ => none
     on (queuing { queue64 with enable := false }) == some 1 && on (queuing { queue64 with enable := false, write := 0 }) == some 0 &&
      on (queuing { queue64 with enable := false, logsize := 5 }) == some 9 && on (queuing { queue64 with state := 4 }) == some 1 &&
      on ((queuing { queue64 with enable := false }).setCtx 0 { drains := [{ die := none }] }) == some 4) = true ∧
    (let store (x : Queue) (off : Nat) (bs : List Byte) : Option Queue := match exec (.queueRecordWrite 0 3 off 1 bs) (queuing x) with
      | .next t => some (t.queue 0 3)
      | _ => none
     (store queue64 37 [0]).any (fun x => !x.enable && x.state == 4) && (store queue64 32 [5, 0]).any (fun x => x.enable && x.tickets == 5) &&
      (store { queue64 with enable := false } 37 [1]).any (fun x => x.enable) && (store { queue64 with enable := false } 37 [0]).any (fun x => !x.enable) &&
      (store { queue64 with enable := false } 16 [9]).any (fun x => x.read == 9 && x.write == 9)) = true ∧
    (let valid (r : CtxRec) (i : Instr) : Option Bool := match exec i (State.reset.setCtxRec 0 4 r) with
      | .next t => some (t.ctxRec 0 4).valid
      | _ => none
     let bad : List Byte := List.replicate 96 0 ++ [1] ++ List.replicate 31 0
     valid {} (.contextValidSet 0 4) == some true && valid { bytes := bad } (.contextValidSet 0 4) == some false &&
      valid { valid := true } (.contextValidSet 0 4) == some true && valid { valid := true } (.contextValidClear 0 4) == some false &&
      valid { valid := true } (.contextRecordWrite 0 4 16 [0]) == some false && valid { valid := true } (.contextRecordWrite 0 4 40 [0]) == some true &&
      valid {} (.contextRecordWrite 0 4 16 [1]) == some true && valid {} (.contextRecordWrite 0 4 40 [0]) == some false &&
      valid { valid := true } (.contextRecordWrite 0 4 80 [0]) == some true) = true ∧
    ((State.reset.regWrite 16 0x8000000 1 [0]).isSome && (State.reset.regWrite 0 0x3FFFFFF0 1 [0]).isNone &&
      match exec (.mmioRegisterWrite 24 16 0 (leBytes 8 1)) State.reset with
      | .next t => t.pkg.mdoor == 1 && t.agenda.length == 1
      | _ => false) = true ∧
    (let p : Part := { lane := 0, va := 0x6000, len := 4, st := .held 2 9 0 }
     let s (key : Nat) : State := { mapTo 0 (stand (seat .nop)) with
      flight := [(7, ⟨0, 0, 1, .access { kind := .load, space := .virt, dest := .none, size := 2, parts := [{ p with st := .held 2 key 0 }] }⟩)] }
     let after (i : Instr) (key : Nat) : Option (List AccSt) := match exec i (s key) with
      | .next t => some ((tget t.flight 7).elim [] fun f => match f.job with | .access a => a.parts.map (·.st) | _ => [])
      | _ => none
     p.heldBy 9 && (after (.faultReplay 0 9) 8 == some [.held 2 8 0]) && (after (.faultCancel 0 9) 9).any (fun l => l.all fun x => match x with
      | .held _ _ _ => false
      | _ => true) && (after (.faultReplay 0 9) 9).any fun l => l.all fun x => match x with
      | .held _ _ _ => false
      | _ => true) = true := by decide +kernel

/-- A packet of queue 3 of die 0. -/
def packetOf (bytes : List Byte) : Pk := { bytes := bytes ++ List.replicate (64 - bytes.length) 0, die := 0, q := 3, index := 0, ctx := 0 }

/-- A signal packet on the object at 0x6000 with VALUE 5 and CONDITION or OP k. -/
def sigPacket (type : Byte) (k : Nat) : Pk := packetOf ([type, 0, 0, 0] ++ leBytes 4 0 ++ leBytes 8 0 ++ leBytes 8 0x6000 ++ leBytes 8 5 ++ leBytes 1 k)

/-- A launch of one team of one gang of 32 lanes on core (0, 0), and its bind record. -/
def launched (left : Nat) (status : Nat) : Launch := { origin := .packet 0 3 0, ctx := 0, tag := 0, crec := false, donesig := 0, kdesc := 0, args := 0
                                                       k := ⟨0, 0, 0x1000, 0, 64, 256, 0, 0, 0, 32, 1, 1, 0, 0, 0, 0, false, false⟩
                                                       x0 := 0, y0 := 0, w := 1, h := 1, prio := 0, left := left, status := status }
def bindRec : BindRec := { kdesc := 0, args := 0, launch := 1, tfirst := 0, tcount := 1, x := 0, y := 0, w := 1, h := 1, tpc := 1, prio := 0, state := 1 }
def launching (left : Nat) : State := { queuing ready64 with launches := [(1, launched left 0)] }

theorem test_witness_FrontEndSteps :
    (let s := queuing ready64
     match s.sigValue 0 0 (sigPacket 3 0).bytes with
      | .ok v => v == 0 && (s.vwrite 0 0 0x6000 (leBytes 8 5)).isOk && (sigPacket 3 0).f 24 8 == 5 && (sigPacket 4 0).addr == 0x6000
      | .error _ => false) = true ∧
    ([0, 1, 2, 3].map fun k => (((queuing ready64).decidePacket (sigPacket 3 k)).queue 0 3).state) = [2, 0, 0, 2] ∧
    ([0, 1, 2].map fun k => ((queuing ready64).decidePacket (sigPacket 4 k)).mem.readNat 0x6000 8) = [5, 5, 2 ^ 64 - 5] ∧
    (((queuing { ready64 with open_ := [9] }).decidePacket (packetOf [7, 0])).queue 0 3).state = 2 ∧
    (let s := queuing { queue64 with state := 2, waitFrom := some 0 }
     let p := (sigPacket 3 0).bytes.take 40 ++ leBytes 8 100 ++ List.replicate 16 0
     let t (time : DWord) (cond : Nat) : State := { s with
      pkg := { time := time }
      mem := s.mem.write 0x10000 (patchBytes p 32 [BitVec.ofNat 8 cond]) }
     (t 99 0).waitExpired 0 3 == false && (t 100 0).waitExpired 0 3 && (t 100 0).mustWait 0 ((t 100 0).queue 0 3) &&
      !(t 100 1).mustWait 0 ((t 100 1).queue 0 3) && match exec (.waitsigTimeout 0 3) (t 100 0) with
      | .next u => (u.queue 0 3).state == 3
      | _ => false) = true ∧
    (let s : State := { State.reset.setCtxRec 0 4 { valid := true, retrying := true, waiting := [([], 0)] } with pkg := { time := 1000 } }
     decide (1000 ≤ (s.pkg.time - (s.ctxRec 0 4).failedAt).toNat) && (s.ctxRec 0 4).retrying) = true ∧
    ([0, 1].all fun left => match exec (.launchComplete 0 1) (launching left) with
      | .next t => (tget t.launches 1).isSome == decide (left = 1)
      | _ => false) = true ∧
    ((queuing ready64).die 0).freeSlot 600 = some 0 ∧
    (match exec (.bindRecordWrite 0 600 bindRec) (launching 1) with
      | .next t => ((t.die 0).slots.map (·.1)) == [0] && match exec (.teamDispatch 0) t with
        | .next u => u.gangs.length == 1 && u.teams.length == 1 && (u.dispatchOne 0).isNone
        | _ => false
      | _ => false) = true ∧
    findPlace [⟨0, 0, 8, 3840⟩] 8 1024 = some (0, 8) := by decide +kernel

/-- A table that holds one entry at each of the listed indices. -/
theorem tget_map_const {α : Type} (x : α) (l : List Nat) (j : Nat) (h : j ∈ l) : tget (l.map fun k => (k, x)) j = some x := by
  induction l with
  | nil => cases h
  | cons a t ih => 
    simp only [List.map_cons, tget]
    grind

/-- R382: a full bind table. -/
theorem test_witness_FrontEndSteps_full : ({ slots := (List.range 512).map fun k => (k, bindRec) } : Die).freeSlot 600 = none := by
  have h : ∀ k, k < 512 → tget ((List.range 512).map fun k => (k, bindRec)) k = some bindRec := fun k hk => tget_map_const _ _ _ (List.mem_range.2 hk)
  simp only [Die.freeSlot]
  rw [if_neg (by decide), List.find?_eq_none]
  intro k hk
  rw [h k (List.mem_range.1 hk)]
  decide
/-- A message of the mailbox. -/
def mailTo (sock : Nat) (ws : List DWord) : Mail := { slot := 0, tag := 0, sock := sock, words := ws ++ List.replicate (7 - ws.length) 0 }

/-- A context in use, with the identifier 9. -/
def named : State := (State.reset.setCtx 4 { ctxid := 9 }).setCtxRec 0 4 { valid := true }

def mailed (s : State) (i : Mail → Instr) (m : Mail) (p : State → Bool) : Bool := !s.pkg.recovery && !s.unserving m.sock && match exec (i m) s with
  | .next t => p t
  | _ => false

theorem test_witness_ManagementMail :
    (mailed State.reset .powerPackageLimit (mailTo 25 [100]) (·.pkg.powerLimit == 100) && mailed State.reset .powerPackageLimit (mailTo 25 [99]) (·.pkg.powerLimit == 1800) &&
      mailed State.reset .powerIslandLimit (mailTo 16 [0, 1200]) (fun t => t.ceiling 0 == 1200) && mailed State.reset .powerDieDown (mailTo 24 [7, 0]) (fun t => (t.die 7).down) &&
      mailed (State.reset.setDie 7 { down := true }) .powerDieUp (mailTo 24 [7, 1]) (fun t => !(t.die 7).down) &&
      mailed State.reset .timeStep (mailTo 24 [5]) (·.pkg.time == 5) && mailed State.reset .timeLoad (mailTo 24 [5]) (·.pkg.timeLoaded) &&
      mailed State.reset .timePortSelect (mailTo 25 [7]) (·.pkg.portNext == 7) && mailed State.reset .routesAgemax (mailTo 15 [255]) (fun t => (t.base 15).ageMax == 255) &&
      mailed State.reset .routesSetPkg (mailTo 0 [4095]) (·.pkg.id == 4095) && mailed named .routesSetPkg (mailTo 0 [5]) (·.pkg.id == 0) &&
      mailed State.reset .routesWrite (mailTo 3 [16, 2, 0xF4]) (fun t => (t.base 3).routes == [(16, 4)]) &&
      mailed State.reset .routesPartitionMap (mailTo 3 [1, 256, 1]) (fun t => (t.base 3).parts == [6 * 4096 + 256]) &&
      mailed State.reset .migrationThreshold (mailTo 3 [65535]) (fun t => (t.base 3).threshold == 65535) &&
      mailed (State.reset.setBase 3 { counters := [(8, 4)] }) .migrationReadCounters (mailTo 3 [65536]) (fun t => (t.base 3).counters == []) &&
      mailed State.reset .telemetrySetRing (mailTo 3 [8192, 4096]) (fun t => t.pkg.rings.any fun r => r.2.set && r.2.base == 8192) &&
      mailed (mapTo 0 named) .resetTlbinv (mailTo 16 [9, 1]) (fun t => (t.ctx 4).ctxid == 9)) = true ∧
    ([Instr.powerRead, .errlogRead, .errlogCounters, .errlogClear, .telemetryRead, .telemetryDrain].all fun i => mailed State.reset i (mailTo 25 []) fun _ => true) = true ∧
    (mailed State.reset .timeStatus (mailTo 24 []) (fun _ => true) && mailed State.reset .keysClear (mailTo 0 [255]) (·.pkg.keys.isEmpty) &&
      mailed State.reset .keysRead (mailTo 0 [255]) fun _ => true) = true ∧
    ((State.reset.setDie 0 { inReset := true }).unserving 16 = true ∧ State.reset.ctxNamed 9 = none) := by decide +kernel

theorem test_witness_ResetSteps :
    (mailed named .resetDrain (mailTo 16 [9]) (fun t => (t.ctx 4).drains.isEmpty) && mailed State.reset .resetCore (mailTo 16 [63]) (fun t => (t.core 63).inReset) &&
      mailed State.reset .resetMatrixEngine (mailTo 23 [63]) (fun _ => true) && mailed State.reset .resetBaseDie (mailTo 15 []) (fun t => (t.base 15).inReset) &&
      mailed State.reset .resetDie (mailTo 23 []) (fun t => (t.die 7).inReset)) = true ∧
    (match exec (.dieResetComplete 7) (State.reset.setDie 7 { inReset := true }), exec (.coreResetComplete 63) (State.reset.setCore 63 { inReset := true }),
        exec (.baseDieResetComplete 15) (State.reset.setBase 15 { inReset := true }) with
      | .next t, .next u, .next v => !(t.die 7).inReset && !(u.core 63).inReset && !(v.base 15).inReset
      | _, _, _ => false) = true ∧
    (match exec .fundamentalReset { named with mem := ({} : Mem).writeNat 64 8 7, pkg := { nextImage := some (1, false) } } with
      | .next t => t.ctxs.isEmpty && t.mem.readNat 64 8 == 7 && t.pkg.recovery
      | _ => false) = true := by decide +kernel

theorem test_witness_SecurityAndServo :
    ((0 : Nat) ∈ [0, 1, 2, 3, 4, 5] ∧ State.reset.pkg.spdm = 0 ∧ State.reset.pkg.recovery = false) ∧
    (let s : State := { State.reset with pkg := { spdm := 5 } }
     (match exec (.keysLoad (mailTo 15 [255, 7, 0, 0x200000, 0]) (List.replicate 12 3) true) s with
      | .next t => t.pkg.keys.length == 1
      | _ => false) && (match exec (.keysLoad (mailTo 15 [256]) (List.replicate 12 3) true) s with
      | .next t => t.pkg.keys.isEmpty
      | _ => false) && match exec (.ideKm 8 255 [1]) s with
      | .next t => t.pkg.ide.length == 1
      | _ => false) = true ∧
    ([0, 3].all fun st => match exec (.tdispMessage 8 .lock) { State.reset with pkg := { tdisp := [(8, st)] } } with
      | .next t => tgetD t.pkg.tdisp 8 0 == 1
      | _ => false) = true ∧
    ([(-50 : Int), 50].all fun o => match exec (.ptpSync o 0 0) State.reset with
      | .next t => t.pkg.lock == 1
      | _ => false) = true ∧
    (match exec (.governorClockChange 511 1200) State.reset, exec (.governorClockChange 511 1199) State.reset with
      | .next t, .next u => t.pkg.clocks == [(511, 1200)] && u.pkg.clocks == []
      | _, _ => false) = true := by decide +kernel

theorem test_witness_RegisterFrame : (Instr.add 8 0 2).writes = some (some (8, 1), [], false) ∧ (Instr.shfl 8 0 2 true 7).writes = some (some (8, 2), [7], false) ∧
    (Instr.fcmpeq 0xF6 0 2).writes = some (none, [6], true) ∧
    (runs (stand (seat (.add 8 0 2))) (.add 8 0 2) && runs (stand (seat (.shfl 8 0 2 true 7))) (.shfl 8 0 2 true 7) &&
      runs (stand (seat (.fcmpeq 0xF6 0 2))) (.fcmpeq 0xF6 0 2)) = true := by decide +kernel

theorem test_witness_TeamAccessFrame : ((stand (seat (.stt 6 2 3 0))).mem.bad = []) ∧
    ([Instr.ldt 8 2 3 2, .stt 6 2 3 0, .atomt 8 2 4 true 10 3].all fun i => runs (stand (seat i)) i) = true := by decide +kernel

/-- The machine with a word placed where step fetches next, and what step selects there. -/
def placed (w : Word) : State := State.reset.withFetchWord 32 w.toNat
def picked (s : State) : Option (State × Issue) := match s.nextMove with
  | some (.port core port, t) => (t.pick core port).bind fun e => (t.select core port e).issuer.map fun c => (t.select core port e, c)
  | _ => none

/-- R22 to R24: ADD v4, v1, v2 stands inside its clause; a header; a word with an extension word; a collective word. -/
theorem test_witness_StepRunsDecoded :
    ((picked (placed 0x10040102)).any fun x => x.2.sp.incl && !x.2.sp.mvalid && x.2.act != [] &&
      match x.1.fetch x.2.g.die x.2.g.ctx x.2.sp.pc with
      | .ok w => w == 0x10040102 && wordLen (bits x.2.sp.hdr 25 3) w == 1 && reads (bits x.2.sp.hdr 25 3) w none (.add 4 1 2)
      | .error _ => false) = true ∧
    (let s := placed 0x10040102
     let u := { s with gangs := s.gangs.map fun x => (x.1, { x.2 with splits := [some (headerAt 0x1000 0xF), none, none, none] }) }
     (picked u).any fun x => !x.2.sp.incl && match x.1.fetch x.2.g.die x.2.g.ctx x.2.sp.pc with
      | .ok w => w == 0x10000000
      | .error _ => false) = true ∧
    ((picked (State.reset.withFetchWord 64 0x000A004090080232)).any fun x => decide (x.2.sp.widx + 1 < x.2.sp.count) &&
      match x.1.fetch x.2.g.die x.2.g.ctx x.2.sp.pc, x.1.fetch x.2.g.die x.2.g.ctx (x.2.sp.pc + 4) with
      | .ok w, .ok y => w == 0x90080232 && y == 0x000A0040 && wordLen (bits x.2.sp.hdr 25 3) w == 2
      | _, _ => false) = true ∧
    (let s := State.reset.placeProgram [0x04803FFF]
     match s.nextMove with
      | some (.attar k, t) => t.pickAttar k == some 0 && reads 3 (tgetD (t.base k).prog 1 0) none (.cmovi 2 0 0x3FFF)
      | _ => false) = true := by decide +kernel

theorem test_witness_EncodingRoundTrip : (Instr.bfe 8 0 true 31 1).wf = true ∧ (encode (.bfe 8 0 true 31 1)).1 < 4 ∧
    reads 0 0x10040102 none (.add 4 1 2) = true := by decide +kernel

theorem test_witness_MemoryStaysCanonical : (placed 0x10040102).mem.wf = true ∧ (match step (placed 0x10040102) with
      | .next t => (t.gang 0).any fun g => (g.split 0).any (·.pc == 0x1008)
      | _ => false) = true := by decide +kernel

/-! One step each on values written in the spec, or worked out by hand from its rules. -/

/-- A gang of eight lanes whose registers are given for each lane, before a word. -/
def valued (i : Instr) (regs : Nat → Tab Word) : Gang := { eight i with
  lanes := (List.range 8).map fun k => { takes := true, regs := regs k } }

/-- A condition on the gang after the word. -/
def gives (g : Gang) (i : Instr) (p : Gang → Bool) : Bool := match exec i (stand g) with
  | .next t => (t.gang 0).any fun h => !h.inHandler && p h
  | _ => false

/-- 32-bit sources a and b in v0 and v1 of each lane; the result in v9. -/
def gives2 (i : Instr) (a b r : Word) : Bool := gives (valued i fun _ => [(0, a), (1, b)]) i fun g => g.r32 9 3 == r

/-- R151 to R154: the wrap, the saturation, the high halves, the shifts by 32 and more, the counts and the fields. -/
theorem test_integer_corners : (gives2 (.add 9 0 1) 0xFFFFFFFF 2 1 && gives2 (.sub 9 0 1) 0 1 0xFFFFFFFF && gives2 (.mulhi 9 0 1) 0x80000000 0x80000000 0x40000000 &&
    gives2 (.mulhu 9 0 1) 0xFFFFFFFF 0xFFFFFFFF 0xFFFFFFFE && gives2 (.adds 9 0 1) 0x7FFFFFFF 1 0x7FFFFFFF && gives2 (.adds 9 0 1) 0x80000000 0xFFFFFFFF 0x80000000 &&
    gives2 (.abs 9 0) 0xFFFFFFFB 0 5 && gives2 (.min 9 0 1) 0x80000000 1 0x80000000 && gives2 (.minu 9 0 1) 0x80000000 1 1 && gives2 (.addi 9 0 0xFF) 5 0 4 &&
    gives2 (.sari 9 0 4) 0x80000000 0 0xF8000000 && gives2 (.shri 9 0 31) 0x80000000 0 1 && gives2 (.rotl 9 0 1) 0x80000001 1 3 && gives2 (.clz 9 0) 0 0 32 &&
    gives2 (.popc 9 0) 0xF0F 0 8 && gives2 (.andn 9 0 1) 0xFF 0x0F 0xF0 && gives2 (.bfe 9 0 true 4 4) 0xF5 0 0xFFFFFFFF && gives2 (.bfe 9 0 false 4 4) 0xF5 0 0xF &&
    gives2 (.movi 9 0x8000) 0 0 0xFFFF8000 && gives2 (.movw 9 0x80001234) 0 0 0x80001234) = true := by decide +kernel

/-- R148, R154: SEL takes the other source where its predicate is clear; BFI keeps the bits around the field. -/
theorem test_select_and_insert : (gives2 (.sel 9 0 1 false false 2) 5 7 7 && gives2 (.sel 9 0 1 false true 2) 5 7 5 &&
    gives (valued (.bfi 0 1 8 8) fun _ => [(0, 0x11223344), (1, 0xAB)]) (.bfi 0 1 8 8) fun g => g.r32 0 0 == 0x1122AB44) = true := by decide +kernel

/-- R142, R155 to R157: rounding to even, an exact zero sum, the zeros' order in FMIN, NaNs, infinities and their flags (NV 4, DZ 3, OF 2, UF 1, NX 0). -/
theorem test_float_corners : (gives2 (.fadd 9 0 1) 0x3F800000 0x33800000 0x3F800000 && gives2 (.fadd 9 0 1) 0x3F800001 0x33800000 0x3F800002 &&
    gives2 (.fsub 9 0 1) 0x3F800000 0x3F800000 0 && gives2 (.fmul 9 0 1) 0xC0000000 0x40400000 0xC0C00000 && gives2 (.fmin 9 0 1) 0 0x80000000 0x80000000 &&
    gives2 (.fmul 9 0 1) 0 0x7F800000 0x7FC00000 && gives2 (.fdiv 9 0 1) 0x3F800000 0x80000000 0xFF800000 && gives2 (.fsqrt 9 0) 0x40800000 0 0x40000000 &&
    gives2 (.fabs 9 0) 0xFFA00001 0 0x7FC00000 && gives2 (.cvt 9 0 true 0 6 2) 0xFFFFFFFF 0 0xBF800000) = true := by decide +kernel

/-- R164, R165: the example of PKLN6 and UPLN6: the group 0x3D_0DCA at 160 to 162, and the values of its codes. -/
theorem test_ln6_group : (gives (valued (.pkln6 40 32 36 0) fun _ => [(32, 0x40400000), (33, 0xBDCCCCCD), (34, 0x3A83126F), (35, 0x41A00000), (36, 126), (40, 0xFF000000)])
      (.pkln6 40 32 36 0) (fun g => g.r32 40 2 == 0xFF3D0DCA) &&
    gives (valued (.upln6 44 40 36 0) fun _ => [(36, 126), (40, 0x3D0DCA)]) (.upln6 44 40 36 0)
      (fun g => [44, 45, 46, 47].map (fun k => g.r32 k 5) == [0x403504F3, 0xBDD744FD, 0, 0x40D744FD] && g.fpflags == 0)) = true := by decide +kernel

/-- R168: the example of SHFLDN: lanes 0 to 5 in split 0, v1 = 10 × lane, v3 = 2. -/
theorem test_shuffle_down : gives { valued (.shfldn 2 1 3 false 1) (fun k => [(1, BitVec.ofNat 32 (10 * k)), (2, 99), (3, 2)]) with
      splits := [(placedGang 0 2).split 0 |>.map fun sp => { sp with mask := 0x3F }, some (headerAt 0x1000 0xC0), none, none] } (.shfldn 2 1 3 false 1)
    (fun g => (List.range 8).map (fun k => g.r32 2 k) == [20, 30, 40, 50, 40, 50, 99, 99] &&
      (List.range 6).map (fun k => (g.lane k).preds.getLsbD 1) == [true, true, true, true, false, false]) = true := by decide +kernel

/-- R169, R171: BALLOT and MATCH give masks, GRED and GSCAN sums over the lanes. -/
theorem test_votes_and_sums : (gives (valued (.matchLanes 8 0) fun k => [(0, BitVec.ofNat 32 (k % 2))]) (.matchLanes 8 0) (fun g => g.r64 8 0 == 0x55 && g.r64 8 1 == 0xAA) &&
    gives (valued (.gred 8 0 false 0) fun k => [(0, BitVec.ofNat 32 k)]) (.gred 8 0 false 0) (fun g => g.r32 8 7 == 28) &&
    gives (valued (.gscan 8 0 false 0) fun k => [(0, BitVec.ofNat 32 k)]) (.gscan 8 0 false 0) (fun g => (List.range 4).map (fun k => g.r32 8 k) == [0, 1, 3, 6])) = true := by
  decide +kernel

/-- The worked element of the matrix engine (R242, R243): 1 + 0x9744_FD00 × 2^−33, to even and up. -/
theorem test_matrix_element : (let row : List Byte := packRow 0 ([0x01, 0x3C] ++ List.replicate 30 0x10)
    let obj : List Byte := [127, 0, 0, 0, 0xFF, 0xFF, 0, 0] ++ packRow 0 (0x02 :: List.replicate 31 0x10) ++ packRow 0 (0x00 :: List.replicate 31 0x10) ++
      (List.replicate 30 (packRow 0 (List.replicate 32 0x10))).flatten
    [(0 : Word), 0x3000].map fun rnd => accElem rnd 32 0x3F800000 row (fun _ => 125) obj 0) = [0x3FA5D13F, 0x3FA5D140] := by decide +kernel

/-- The 5 × 3 map of the example of R281, with a stride of its second dimension, and the box at (−2, 2). -/
def map53 (s1 : Nat) : List Byte :=
  leBytes 8 0x7F0000001000 ++ leBytes 4 5 ++ leBytes 4 3 ++ leBytes 8 0 ++ leBytes 8 4 ++ leBytes 8 s1 ++ leBytes 16 0 ++ leBytes 8 2
def box42 : CJob := { op := 2, desc := List.replicate 32 0 ++ leBytes 8 0x2FFFFFFFE ++ leBytes 8 0 ++ leBytes 8 0x1000100020004 ++ leBytes 8 0 }

/-- R281: which elements of the box are in bounds, the addresses of those, and the overflow of 2 × S1. -/
theorem test_copy_box : ((List.range 8).filter (box42.inBounds (map53 20)) == [2, 3] &&
    [2, 3].map (box42.elemAddr (map53 20)) == [0x7F0000001028, 0x7F000000102C] && box42.boxCheck (map53 20) == none &&
    box42.boxCheck (map53 0x7FFFFFFFFFFFFFFF) == some 1) = true := by decide +kernel

/-- The package plane's example (R10, R14): the stack of local address 0xA_1234_5600 is 4. -/
theorem test_stack_of : stackOf 0xA12345600 = 4 ∧ stackOf 0x24615640 = 4 := by decide +kernel

/-! Witnesses of the further clauses of the statements. -/

/-- Two gangs of four lanes on slices `a` and `1 - a`, the second waiting in FUSE since cycle 0, which the cores have counted to 8. -/
def fusing (a : Nat) (tmo : Word) (f : Gang → Gang) : State :=
  { stand (quarter (.fuse 8) 0 0 .run) with
    gangs := [(0, { quarter (.fuse 8) 0 a .run with fuseTmo := tmo }), (1, f { quarter (.fuse 8) 1 (1 - a) (.fuse 0 8) with fuseTmo := tmo })]
    pkg := { uptime := 8 } }

/-- What FUSE gives lane 0 where the gang goes on. -/
def fuseGives (s : State) : Option Word := match exec (.fuse 8) s with
  | .next t => (t.gang 0).bind fun g => if (g.split 0).any (·.pc == 0x1008) then some (g.r32 8 0) else none
  | _ => none

/-- R117: SPLIT in a handler and beside an open proposal; with 64 gangs on the core it gives status 1. -/
theorem test_witness_WidthChanges_split :
    (met (stand (handling (.split 8 4))) (.split 8 4) (fun _ c => (c.check [(.dst false, 8)]).isNone && c.g.handler.isSome) &&
      met (stand (seat (.split 8 4))) (.split 8 4) (fun _ c => (c.check [(.dst false, 8)]).isNone && decide (c.g.width ≤ 4)) &&
      traps (stand { eight (.split 8 4) with proposal := some ⟨4, 2, 0⟩ }) (.split 8 4) cSHADOWERR &&
      holds (stand { eight (.split 8 4) with splits := [(eight (.split 8 4)).split 0 |>.map fun sp => { sp with mask := 0xF }, some (headerAt 0x1000 0xF0), none, none] })
        (.split 8 4) .converge) = true ∧
    (let s : State := { stand (eight (.split 8 4)) with gangs := (0, eight (.split 8 4)) :: (List.range 63).map fun k => (k + 1, seat .nop) }
     met s (.split 8 4) (fun s c => c.gathered && c.g.drained && (s.freeIds c.g.core).isEmpty) && runs s (.split 8 4) && match exec (.split 8 4) s with
      | .next t => (t.gang 0).any fun g => g.width == 8 && g.r32 8 0 == 1
      | _ => false) = true := by decide +kernel

/-- R118: FUSE in a handler; the statuses of its checks and of the pairing; its wait, with and without a buddy, and the end of it. -/
theorem test_witness_WidthChanges_fuse :
    (met (stand (handling (.fuse 8))) (.fuse 8) (fun _ c => (c.check [(.dst false, 8)]).isNone && c.g.handler.isSome)) = true ∧
    (let alone (tmo : Word) (h : Hold) : State := { fusing 0 tmo id with
      gangs := [(0, { quarter (.fuse 8) 0 0 h with fuseTmo := tmo }), (1, quarter .nop 1 1 .run)] }
     fuseGives (fusing 0 99 fun b => { b with vb := 16 }) == some 3 && fuseGives (fusing 0 99 id) == some 0 && fuseGives (stand (quarter (.fuse 8) 0 0 .run)) == some 1 &&
      fuseGives (alone 0 .run) == some 6 && fuseGives (alone 9 (.fuse 0 8)) == some 6 && fuseGives (fusing 0 9 id) == none &&
      holds (alone 99 .run) (.fuse 8) (.fuse 18 8) && holds (alone 99 (.fuse 0 8)) (.fuse 8) (.fuse 0 8) &&
      holds { alone 99 .run with gangs := [(0, { quarter (.fuse 8) 0 0 .run with ctrs := [(1, 1)] }), (1, quarter .nop 1 1 .run)] } (.fuse 8) .wait &&
      met (fusing 1 99 id) (.fuse 8) (fun s c => c.sp.hold == .run && (s.fuseCheck c.g).isNone && c.g.drained && (s.buddy c.g).any fun b =>
        (pairCheck c.g b.2.1).isNone && decide (b.2.1.slice < c.g.slice)) && match exec (.fuse 8) (fusing 1 99 id) with
      | .next t => t.gangs.map (fun x => (x.1, x.2.width, x.2.slice)) == [(1, 8, 0)]
      | _ => false) = true ∧
    (let s := fusing 0 99 id
     (s.gang 1).any (fun g => (g.split 0).any fun sp => sp.hold == .fuse 0 8 && !sp.hold.overdue g.fuseTmo (s.cycle g.core)) && match exec (.fusetmoExpiry 1 0) s with
      | .next t => (t.gang 1).any fun g => (g.split 0).any (·.hold == .fuse 0 8)
      | _ => false) = true := by decide +kernel

/-- R114: a gang without a live lane, of whose loads one has failed: its launch ends with the failure's code and cause. -/
theorem test_witness_WidthChanges_gangEnd :
    (let g := { seat .nop with launch := 1, lanes := List.replicate 4 { live := false }, failures := [{ ctr := 1, code := cMEMUE, cause := 2 }] }
     let s := { stand g with launches := [(1, launched 1 0)] }
     s.gangDone g && !(s.gangDone (seat .nop)) && match exec (.gangEnd 0) s with
      | .next t => (t.gang 0).isNone && (tget t.launches 1).all fun l => l.status == 1 && l.code == 0x20D
      | _ => false) = true := by decide +kernel

/-- A gang in a handler whose lanes 0 and 1 alone take part in the clause. -/
def halfRtt (others : List (Option Split)) : Gang := { handling .rtt with
  splits := (handling .rtt).split 0 :: others
  lanes := (List.range 4).map fun k => { takes := decide (k < 2) } }

/-- R26, R112, R178: RTT of some of its split's lanes: the others go on as a split of their own, for which a full table traps. -/
theorem test_witness_TrapInstructions_divides :
    (let full := [some (headerAt 0x2000 0), some (headerAt 0x2004 0), some (headerAt 0x2008 0)]
     met (stand (halfRtt full)) .rtt (fun _ c => c.g.handler.isSome && c.sp.mask &&& ~~~c.mask == 0xC) &&
      met (stand (halfRtt [none, none, none])) .rtt (fun _ c => c.g.splits.length == 4 && (c.g.split 1).isNone && c.sp.mask &&& ~~~c.mask == 0xC) &&
      match exec .rtt (stand (halfRtt [none, none, none])) with
      | .next t => (t.gang 0).any fun g => (g.split 0).any (fun sp => sp.mask == 3 && sp.hold == .rtt) && (g.split 1).any fun sp => sp.mask == 0xC && sp.pc == 0x1008
      | _ => false) = true := by decide +kernel

/-- R84: the split of a returned handler goes on at its word, or past it. -/
theorem test_witness_TrapReturn_resume :
    (let s := { mapTo 0 (stand (seat .nop)) with mem := (mapTo 0 (stand (seat .nop))).mem.write 0x1000 (wordBytes [0x30000000]) }
     s.issuer.any fun c => c.sp.incl && !c.sp.mvalid && (match s.fetch c.g.die c.g.ctx c.sp.header with
      | .ok w => w == 0x30000000 && (match s.wordsAt c.g { c.sp with hdr := w, resume := none } with
        | .ok n => ({ c.sp with hdr := w, resume := none }.next n).incl
        | .error _ => false)
      | .error _ => false)) = true := by decide +kernel

/-- The token of the region of lane 0's address, held by the gang's context, with a written line of it. -/
def holding : State := let s := mapTo 1 (stand (seat (.tokrel 8 0)))
  { s with mem := { s.mem with cached := [(2 ^ 38, true)] }, pkg := { tokens := [(2 ^ 23, ⟨true, [0], false⟩)] } }

/-- R222: TOKREL waits for a written line to reach its home; R221: TOKACQ of that region waits with it. -/
theorem test_witness_TokenReturn :
    (met holding (.tokrel 8 0) (fun s c => s.peerRegion c.g (c.g.r64 0 c.low) == some (2 ^ 23) && (s.releaseToken (2 ^ 23) 0).returning (2 ^ 23)) &&
      holds holding (.tokrel 8 0) (.tokrel (2 ^ 23) 0) && holds (again holding (.tokrel 8 0) (.tokacq 8 0 true 3)) (.tokacq 8 0 true 3) .wait &&
      runs { holding with mem := {} } (.tokrel 8 0)) = true ∧
    (let s := { holding with gangs := [(0, waiting (seat (.tokrel 8 0)) (.tokrel (2 ^ 23) 0))] }
     met s (.tokrel 8 0) (fun s c => c.sp.hold == .tokrel (2 ^ 23) 0 && !s.returning (2 ^ 23)) && runs s (.tokrel 8 0)) = true ∧
    (let writing (i : Instr) : State := { stand (seat i) with
      flight := [(1, ⟨0, 0, 1, .access { kind := .store, space := .virt, dest := .none, size := 2, parts := [{ lane := 0, va := 0, len := 4 }] }⟩)] }
     holds (writing (.fence 1)) (.fence 1) .wait && runs (writing (.fence 0)) (.fence 0)) = true := by decide +kernel

/-- R13, R365: each register of the front end's window takes the store that its own step does; an offset without a register is an addressing error. -/
theorem test_witness_FrontEndRegisters_window :
    (let viaWindow (s : State) (off : Nat) (bytes : List Byte) (p : State → Bool) : Bool := match exec (.mmioRegisterWrite 16 off 1 bytes) s with
      | .next t => p t
      | _ => false
     let s := queuing { queue64 with enable := false }
     !(s.die 0).inReset && !(s.die 0).down && viaWindow s (0x10000 * 3) (leBytes 8 2) (fun t => (t.queue 0 3).write == 2) &&
      viaWindow s 0x30000 (leBytes 4 2) (· == s) && viaWindow s (0x8000000 + 64 * 3 + 37) [1] (fun t => (t.queue 0 3).enable) &&
      viaWindow s (0x8020000 + 256 * 255 + 16) [1] (fun t => (t.ctxRec 0 255).valid) && viaWindow s 0x8040000 [1] (· == s) &&
      viaWindow s 0x8030000 (leBytes 8 9) (· == s) && viaWindow s 0x8030000 (leBytes 8 (9 + 2 ^ 32)) (fun _ => true) &&
      (s.regRead 16 0x3FFFFFF0 1 1).isNone && viaWindow s 0x3FFFFFF0 [1] (fun t => !t.pkg.errlogs.isEmpty)) = true ∧
    ((queuing { queue64 with errsig := 0 }).queueError 0 3 2 |>.queue 0 3).errinfo = 2 := by decide +kernel

/-- R384: COMPRD of a valid record, of one that is not, and of one that becomes valid by the same store. -/
theorem test_witness_FrontEndRegisters_comprd :
    (let s (v : Bool) : State := State.reset.setCtxRec 0 4 { valid := v }
     (match exec (.contextRecordWrite 0 4 80 (leBytes 8 3)) (s true) with
      | .next t => (t.ctxRec 0 4).valid
      | _ => false) && ((s false).setCtxRec 0 4 { bytes := contextOf (patchBytes ((s false).ctxRec 0 4).image 16 [1]) }).recordOk 0 4) = true := by decide +kernel

/-- R216, R219, R223: the held part of a TOKACQ and of a COLL is replayed and cancelled. -/
theorem test_witness_FrontEndRegisters_jobs :
    (let p : Part := { lane := 0, va := 0x6000, len := 4, st := .held 2 9 0 }
     let s (j : Job) : State := { mapTo 1 (stand (seat .nop)) with flight := [(7, ⟨0, 0, 1, j⟩)] }
     [Job.token .none [0] true p none, .coll .none [0] 3 0 p none].all fun j => p.heldBy 9 && [Instr.faultReplay 0 9, .faultCancel 0 9].all fun i =>
      match exec i (s j) with
      | .next t => (tget t.flight 7).all fun f => f.job.parts.all fun x => !x.heldBy 9
      | _ => false) = true := by decide +kernel

/-- A kernel descriptor of one team of one gang of 32 lanes (R380), with a flags byte. -/
def kernelAt (flags : Byte) : List Byte :=
  List.replicate 49 0 ++ [flags] ++ List.replicate 3 0 ++ [1, 1, 32] ++ List.replicate 6 0 ++ leBytes 2 64 ++ leBytes 4 0 ++ leBytes 4 128 ++ leBytes 8 0x1000 ++
    List.replicate 48 0

/-- A launch packet of core (0, 0) whose kernel descriptor is at an address. -/
def launchPacket (kdesc : Nat) : Pk := packetOf ([1, 0, 0, 0] ++ leBytes 4 0 ++ leBytes 8 0 ++ leBytes 8 kdesc ++ leBytes 8 0 ++ [0, 0, 1, 1])

def decided (s : State) (p : Pk) : Nat := ((s.decidePacket p).queue 0 3).state

/-- R370, R371, R381: a launch that opens, one that is malformed, one that lacks privilege, one whose descriptor cannot be read; a full ring. -/
theorem test_witness_FrontEndSteps_launch :
    (let s (flags : Byte) : State := { queuing ready64 with mem := ((queuing ready64).mem.write 0x6000 (kernelAt flags)).write 0x10000 (launchPacket 0x6000).bytes }
     !(s 0).ringFull 0 0 && ((s 0).decidePacket (launchPacket 0x6000)).launches.length == 1 && ((s 0).decidePacket (launchPacket 0x6080)).launches.length == 0 &&
      decided (s 2) (launchPacket 0x6000) == 3 && decided (s 0) (launchPacket 0x40000000000) == 0) = true ∧
    (let s := (queuing ready64).setCtxRec 0 0 { valid := true, retrying := true }
     [(1 : Byte), 2, 5].all fun ty => s.ringFull 0 0 && decided s (packetOf [ty]) == 2) = true := by decide +kernel

/-- R289, R370, R378: graphs that overlap a running one and that are malformed; the start of a chain, also of a channel of another context; STAMP; a barrier. -/
theorem test_witness_FrontEndSteps_other :
    (let graph (n : Nat) : Pk := packetOf ([2, 0, 0, 0] ++ leBytes 4 0 ++ leBytes 8 0 ++ leBytes 2 5 ++ leBytes 2 n)
     let s := queuing ready64
     let d := s.die 0
     decided (s.setDie 0 { d with graphs := [{ queue := 2, index := 0, ctx := 0, first := 5, count := 1, tag := 0, crec := false, donesig := 0 }] }) (graph 1) == 2 &&
      decided s (graph 1) == 3) = true ∧
    (let chain : Pk := packetOf ([5, 0, 0, 0] ++ leBytes 4 0 ++ leBytes 8 0 ++ leBytes 8 0x4000)
     let s := queuing ready64
     decided s chain == 0 && decided (s.setChan 0 0 { ctx := some 1, state := 1 }) chain == 3) = true ∧
    (let s := { queuing ready64 with pkg := { time := 77 } }
     (s.decidePacket (packetOf ([6, 0, 0, 0] ++ leBytes 4 0 ++ leBytes 8 0 ++ leBytes 8 0x6000))).mem.readNat 0x6000 8) = 77 ∧
    decided (queuing ready64) (packetOf [7, 0]) = 0 := by decide +kernel

/-- R217, R330: a start whose argument block lies in another package waits for it; one whose block cannot be read ends. -/
theorem test_witness_AttarEngineSteps_block :
    (let s (pkg : Nat) : State := (mapTo 0 (stand (seat .nop))).setBase 3 { starts := [⟨9, 0, 0, 0, 64, 0x6000, pkg * 2 ^ 44 + 0x6000, placedLeaf pkg + if pkg = 0 then 0 else 0x108⟩] }
     (match (s 1).unitLine 0 (placedLeaf 1 + 0x108) (2 ^ 44 + 0x6000) with
      | .error (code, _) => code == cWAIT
      | .ok _ => false) && match exec (.attarStart 3) (s 1) with
      | .next t => !t.asks.isEmpty && (t.base 3).starts.length == 1
      | _ => false) = true ∧
    (let s := (mapTo 0 (stand (seat .nop))).setBase 3 { starts := [⟨9, 0, 0, 0, 64, 0x6000, 0x6000, placedLeaf 0⟩] }
     let s := { s with mem := { s.mem with bad := [0x6000 / 64] } }
     (match s.unitLine 0 (placedLeaf 0) 0x6000 with
      | .error (code, _) => code == cMEMUE
      | .ok _ => false) && match exec (.attarStart 3) s with
      | .next t => (t.base 3).actxs.isEmpty
      | _ => false) = true := by decide +kernel

/-- R331: the accesses of a program that have to be asked for, and those that fail. -/
theorem test_witness_AttarWords_accesses :
    ([Instr.cld 4 0 0, .cst 0 1 0, .cldl 1 0 0, .cstl 0 1 0].all fun i =>
      (let s := { (State.reset.setDie 0 { tlb := [(tlbKey 0 2 0, placedLeaf 1 + 0x108)] }).setBase 0 { actxs := [(0, turn0)] } with cursor := .attar 0 0 }
       match exec i s with
        | .next t => !t.asks.isEmpty
        | _ => false) && endsProgram (turning { turn0 with x := [(0, 0x40006000)] } {}) i) = true := by decide +kernel

/-- R311, R407: a response from outside that answers a request, and one that answers none. R318: the second of three packets may combine. -/
theorem test_witness_RouterSteps_outside :
    (let s : State := { State.reset with pkg := { outbound := [(0, { fadd with tag := 7 }, 0)] } }
     let r (tag : Word) : Packet := { responseTo { fadd with tag := tag } 0 0 with part := 5 }
     let open_ := s.setBase 0 { parts := [5 * 4096 + 5] }
     (open_.accept (r 7)).isSome && (open_.accept (r 8)).isNone && match exec (.routerPacketArrive 0 5 (r 8)) open_ with
      | .next t => t == open_
      | _ => false) = true := by decide +kernel


/-- R244, R253, R256, R258: a word behind an earlier one on the same accumulator, an image behind a word that writes memory, and a step after the last one. -/
theorem test_witness_MatrixEngineSteps_order :
    (let m : MJob := { op := 3, lanes := [⟨1, 0, [], 0⟩], quarters := [0], acc := 2, off := 256 }
     let s := { zeroing with flight := (3, ⟨0, 0, 5, .matrix m⟩) :: zeroing.flight }
     match exec (.quarterOpComplete 7) s with
      | .next t => t == s
      | _ => false) = true ∧
    (let n : Nest := { program with image := some 0x4000, order := 8 }
     let s := handedOff (standCore (matrixGang .nop) { nest := some n }) { op := 5, lanes := [⟨1, 0, [], 0⟩], quarters := [0] }
     (s.gang 0).any (fun g => s.bootBlocked g.key n) && match exec (.tileStep 0) s with
      | .next t => t == s
      | _ => false) = true ∧
    (let s := standCore (matrixGang .nop) { nest := some { program with ppc := 0x1000, mrow := 1, params := List.replicate 24 0 ++ [1, 0, 1, 0, 1, 0], fresh := false } }
     ((s.core 0).nest.any fun n => n.mt ≤ n.mrow && n.state == 1) && match exec (.tileStep 0) s with
      | .next t => (t.core 0).nest.isNone
      | _ => false) = true ∧
    (let s := { tiling with pkg := { uptime := 16777216 } }
     (match s.oldestWork 0 with
      | some (.inr n) => decide (2 ^ 24 ≤ (s.cycle 0 - n.since).toNat)
      | _ => false) && match exec (.matrixHang 0) s with
      | .next t => (t.core 0).nest.all (·.state != 1)
      | _ => false) = true := by decide +kernel

/-- R108: the clock of core 0's island lowered: its count goes on from where it stands, more slowly. -/
theorem test_witness_SecurityAndServo_clock : (let s := { State.reset with pkg := { uptime := 1000 } }
    let t := s.setClock 0 1200
    let u := { t with pkg := { t.pkg with uptime := 2000 } }
    t.clockOf 0 == 1200 && t.cycle 0 == s.cycle 0 && u.cycle 0 == s.cycle 0 + 1200 && t.clockOf 1 == s.clockOf 1) = true := by decide +kernel

/-- R46: a step inside a microprogram runs the word of its entry; R84: a split that resumes does not. -/
theorem test_witness_StepRunsDecoded_microprogram :
    (let s := placed 0x7A000000
     let u := { s with gangs := s.gangs.map fun x => (x.1, { x.2 with splits := [(x.2.split 0).map fun sp => { sp with mvalid := true, mprog := [0x10040102] }, none, none, none] }) }
     (picked u).any fun x => x.2.sp.mvalid && x.2.sp.resume.isNone && x.2.act != [] && match step u with
      | .next t => (t.gang 0).any fun g => g.handler.isNone
      | _ => false) = true := by decide +kernel

/-- R284: of a copy of two bytes to two receivers the absent one arrives with a failure; a block of another length, and one beyond the team's memory. -/
theorem test_witness_CopyEngineSteps_receivers :
    (let j : CJob := { op := 5, desc := List.replicate 24 0 ++ leBytes 8 2 ++ List.replicate 32 0, due := [0, 1], buf := [7, 8] }
     let after (j : CJob) (rank : Nat) : Option (List Nat × Nat × Nat) := match exec (.copymReceiverArrive 7 rank) (jobAt (stand (seat .nop)) j) with
      | .next t => (tget t.flight 7).bind fun f => match f.job with
        | .copy i => some (i.due, i.cause, i.moved)
        | _ => none
      | _ => none
     (after j 1).any (fun x => x.1 == [0] && x.2.1 != 0) && (after { j with buf := [] } 0).any (fun x => x.1 == [1] && x.2.2 == 0) &&
      (after { j with due := [0, 1] } 0).any fun x => x.1 == [1]) = true := by decide +kernel

/-- R289: the walk at the NEXT of a record: none, and another. R285, R327: a reply without its extension, a request of this package's memory, a packet again. -/
theorem test_witness_CopyEngineSteps_walk :
    (let at_ (rec : List Byte) : State := (chained rec).setChan 0 0 { (chained rec).chan 0 0 with atNext := true }
     let after (s : State) : Option (Nat × DWord) := match exec (.chainRecordStep 0 0) s with
      | .next t => some ((t.chan 0 0).state, (t.chan 0 0).pos)
      | _ => none
     after (at_ []) == some (2, 0x4000) && after (at_ (leBytes 8 0x8000)) == some (1, 0x8000)) = true ∧
    (let s := { jobAt (stand (seat .nop)) { op := 12 } with
      pkg := { time := 0x100000, net := [(1, { op := 7, fetch := true, peer := ⟨0, 0, 0, []⟩, ctx := 0, len := 64, data := [], raddr := 0, rsig := 0, retries := 0 })] } }
     match exec (.netAckReceive 1 0 ⟨none, []⟩) s with
      | .next t => t.pkg.netDrops == s.pkg.netDrops + 1
      | _ => false) = true ∧
    (let s := { receiving with pkg := { receiving.pkg with recvDone := [(5, 0, 9)] } }
     match exec (.netPacketReceive (netIn (some 0x10000000))) s with
      | .next t => t.pkg.outs.length == 1 && t.mem.readNat 0x6000 2 == 0
      | _ => false) = true := by decide +kernel

/-- R378, R387: the end of a node's launch; a bind record for a die that drains. -/
theorem test_witness_FrontEndSteps_ends :
    (match exec (.launchComplete 0 1) { launching 0 with launches := [(1, { launched 0 0 with origin := .node 0 5 3 0 })] } with
      | .next t => (tget t.launches 1).isNone
      | _ => false) = true ∧
    (match exec (.bindRecordWrite 0 600 bindRec) ((launching 1).setCtx 0 { drains := [{ die := none }] }) with
      | .next t => (t.ctx 0).removed.length == 1
      | _ => false) = true := by decide +kernel

/-- R74, R91, R322: a recall of a token that waits for its grant; a line taken locked. R319: an echo record whose array is bad answers nothing. -/
theorem test_witness_MemoryUnits_recall :
    (let s : State := { State.reset with pkg := { tokens := [(5, ⟨true, [0], true⟩)] } }
     match exec (.tokenRecall ⟨5, 0⟩) s with
      | .next t => tget t.pkg.tokens 5 == some ⟨false, [], true⟩
      | _ => false) = true ∧
    (match exec (.echoReply 0 { fadd with tag := 3, payload := [10, 0, 0] }) (State.reset.setBase 0 { echoing with echoBad := [3] }) with
      | .next t => ((t.base 0).echoOf 3).isNone && (({ echoing with echoBad := [3] } : Base).echoOf 3).isNone
      | _ => false) = true := by decide +kernel

/-- R145, R157: 2/3, and the sums, products and quotients whose special cases the statements tell apart. -/
theorem test_witness_RoundedOnce : (f32.round 0 false 2 3 0 = (0x3F2AAAAB, fNX) ∧ f32.round 1 false 2 3 0 = (0x3F2AAAAA, fNX)) ∧
    (f32.round 0 false 1 1 (-150) = (0, fNX ||| fUF) ∧ f32.round 3 false 1 1 (-150) = (1, fNX ||| fUF) ∧ f32.round 0 true 1 1 (-149) = (0x80000001, 0)) ∧
    (f32.round 0 true 1 1 128 = (0xFF800000, fOF ||| fNX) ∧ f32.round 1 false 1 1 128 = (0x7F7FFFFF, fOF ||| fNX)) := by decide +kernel

/-- R159, R160, R164: one value on each side of the clauses: a conversion of 2.5 to even, and codes at, above and below log2 q = 1/8. -/
theorem test_witness_FloatResults_special : (f32.sum 2 [.fin true 1 0, .fin false 1 0] = (0x80000000, 0) ∧ f32.sum 0 [.fin true 1 0, .fin false 1 0] = (0, 0) ∧
      f32.div 0 (.fin false 1 0) (.fin true 0 0) = (0xFF800000, fDZ) ∧ f32.sqrt 0 (.fin true 1 0) = (f32.nanBits, fNV)) ∧
    (cvtOp 0 2 4 0x40200000 = (2, fNX) ∧ cvtOp 3 2 4 0x40200000 = (3, fNX) ∧ cvtOp 0 2 6 0x4F000000 = (0x7FFFFFFF, fNV) ∧ cvtOp 0 6 2 0xFFFFFFFF = (0xBF800000, 0)) ∧
    ((ln6Code 127 (.fin false 1 0)).1 = 0 ∧ (ln6Code 127 (.fin true 0 0)).1 = 0x10 ∧ (ln6Code 127 (.fin false 1 (-4))).1 = 0x10 ∧
      (ln6Code 127 (.fin false 1 4)).1 = 15 ∧ (ln6Code 127 (.fin false 0x9837F1 (-23))).1 = 1) := by decide +kernel

/-- R150: the second numbers of the pairs; R149, R151, R205: a number without a register, views that may not be, and windows outside the scratchpad. -/
theorem test_witness_SpecialRegisterWrites_refused :
    ([0x001, 0x003, 0x00C, 0x025, 0x022, 0x028].all fun n => runs (stand (seat (.wrsr 8 n))) (.wrsr 8 n)) = true ∧
    ([0x109, 0x101, 0x106].all fun n => runs (stand { seat (.wrsr 8 n) with service := true }) (.wrsr 8 n)) = true ∧
    (traps (stand (seat (.wrsr 8 0x00F))) (.wrsr 8 0x00F) cILLOPND && traps (stand (seat (.wrsr 6 0x012))) (.wrsr 6 0x012) cILLOPND &&
      traps (stand { seat (.wrsr 6 0x105) with service := true }) (.wrsr 6 0x105) cILLOPND &&
      traps (stand { seat (.wrsr 6 0x106) with service := true }) (.wrsr 6 0x106) cILLOPND &&
      traps ((stand { seat (.wrsr 6 0x107) with service := true }).setCtx 0 { spBase := BitVec.ofNat 64 padSize }) (.wrsr 6 0x107) cILLOPND) = true := by decide +kernel

/-- R176: EXIT of a handler's lanes 0 and 1, of an interrupted table with lanes of its own, and with overflow records that can and cannot be read. -/
theorem test_witness_ControlTransfers_exit :
    (let g : Gang := { handling .exit with
      splits := [(handling .exit).split 0 |>.map fun sp => { sp with mask := 3 }, some (headerAt 0x1000 0xC), none, none]
      handler := some { reason := none, splits := [some (headerAt 0x1000 3), some (headerAt 0x1000 0xC), none, none], lanes := List.replicate 4 ⟨0, none, true⟩ } }
     let after (s : State) : Option Gang := match exec .exit s with
      | .next t => t.gang 0
      | _ => none
     (after (stand g)).any (fun h => h.liveList == [2, 3] && h.handler.any fun x => x.splits == [none, some (headerAt 0x1000 0xC), none, none]) &&
      met ((mapTo 0 (stand { g with ovf := 1 })).setCtx 0 { spillBase := 0x8000 }) .exit (fun s c => match (s.put c c.g).dropOvf c.key c.mask with
        | .ok t => (t.gang 0).any fun h => h.ovf == 0
        | .error _ => false) &&
      (met (stand { g with ovf := 1 }) .exit fun s c => match s.dropOvf c.key c.mask with
        | .error _ => true
        | .ok _ => false)) = true := by decide +kernel

/-- R84, R87: RTT with SKIP set: the trapped split stands past its word at once. -/
theorem test_witness_TrapReturn_skip :
    (let s := { mapTo 0 (stand { handling .rtt with
       trapSplit := 0x10
       handler := some { reason := none, splits := [(seat .nop).split 0, none, none, none], lanes := List.replicate 4 ⟨0, none, true⟩ } }) with
      mem := ({} : Mem).write 0x1000 (wordBytes [0x30000000]) }
     (s.gang 0).any fun g => g.handler.any fun h => (h.splits.getD (bits g.trapSplit 0 2) none).any fun sp => sp.incl && !sp.mvalid &&
       (match s.fetch g.die g.ctx sp.header with
        | .ok w => w == 0x30000000 && (match s.wordsAt (g.leave h) { sp with hdr := w, resume := none, hold := sp.hold.kept } with
          | .ok n => ({ sp with hdr := w, resume := none, hold := sp.hold.kept }.next n).incl
          | .error _ => false)
        | .error _ => false) && match exec .rtt s with
        | .next t => (t.gang 0).any fun g' => !g'.inHandler && (g'.split 0).any fun x => x.pc == 0x1008 && x.resume.isNone
        | _ => false) = true := by decide +kernel

/-- R216, R224: SIGNAL behind an access that it follows, and one whose held fault has been cancelled; what Replay and Cancel make of a split that holds. -/
theorem test_witness_SplitRequests_signal :
    (holds (mapTo 0 (busy (stand (seat (.signal 2 4))))) (.signal 2 4) .wait &&
      traps (mapTo 0 (stand (waiting (seat (.signal 2 4)) (.cancelled cPERMFAULT 64)))) (.signal 2 4) cPERMFAULT &&
      (let sp := { headerAt 0x1000 1 with hold := .fault 9 cPERMFAULT 64 }
       (sp.cancelled 9).hold != .run && (sp.release 9).hold == .run && sp.cancelled 8 == sp && sp.release 8 == sp)) = true := by decide +kernel

/-- R225 to R227: a second execution of BAR in the same phase; an arrival at the cluster barrier that does not complete it; MBWAIT behind an access of its lane. -/
theorem test_witness_BarrierWords_holds :
    (holds (standBar (waiting (seat (.bar 0 false 2)) (.bar 0 0)) {}) (.bar 0 false 2) (.bar 0 0) &&
      (let s := stand (seat (.clbar true))
       let two := { s with gangs := s.gangs ++ [(1, { seat .nop with id := 1, slice := 1 })] }
       holds two (.clbar true) (.clbar 0)) &&
      (let s := barrierAt (seat (.mbwait 6 2))
       let p : Part := { lane := 0, va := 64, pa := teamBase 0 + 64, len := 8 }
       holds { s with flight := [(1, ⟨0, 0, 1, .access { kind := .acq, space := .virt, dest := .none, size := 3, ord := 1, scope := 1, parts := [p] }⟩)] } (.mbwait 6 2) .wait)) = true := by
  decide +kernel

/-- R195: the last lane of a load that has failed and kept its counter up; R272: an MSAVE behind another of its gang. -/
theorem test_witness_PrivilegedWords_counts :
    (let f : Failure := { ctr := 1, code := cMEMUE, cause := 1, mask := 0xF, repl := some (.reg false 0, 4), counted := true }
     let g := handling (.replv 0)
     match exec (.replv 0) (stand { g with service := true, trapCode := 0x10D, trapMask := 0xF, failures := [f], ctrs := [(1, 1)],
                                           handler := g.handler.map fun h => { h with failure := some f } }) with
      | .next t => (t.gang 0).any fun h => h.outstanding 1 == 0 && h.failures.isEmpty
      | _ => false) = true ∧
    (let s := standCore (matrixGang (.msave 8 5 true)) ended
     holds { s with flight := [(3, ⟨0, 0, 5, .matrix { op := 18, lanes := [⟨0, 0, [], 0⟩], quarters := [0] }⟩)] } (.msave 8 5 true) .wait) = true := by decide +kernel

/-- R314, R315: a header that asks again, for the seventeenth time; a flit that fails on a link of the package and on an external one; links that train. -/
theorem test_witness_FabricReplies_links :
    (let s := State.reset.setLink 0 5 { kept := [(3, fadd)], accepted := 2, again := 16 }
     let f : Flit := ⟨0, 0, [], true⟩
     (match exec (.linkFlitReceive 0 5 f true) s with
      | .next t => t.pkg.outs == [.ext 0 5 fadd] && (t.linkAt 0 5).training && (t.linkAt 0 5).again == 17
      | _ => false) && (match exec (.linkFlitReceive 0 5 f false) s with
      | .next t => t.pkg.outs == [.again 0 5 2] && (t.linkAt 0 5).fails == 1
      | _ => false) && (match exec (.linkRetrain 0 5) s with
      | .next t => t.pkg.outs.length == 2 && (t.linkAt 0 5).again == 0
      | _ => false) && (({ kept := [(3, fadd)] } : Link).acknowledged ⟨0, 3, [], false⟩).kept.isEmpty) = true ∧
    (let e : Pending := .routerPacketArrive (neighbour 0 1) 1 fadd
     let s := { State.reset.setLink 0 1 { fails := 3 } with agenda := [e, .matrixHang 0] }
     (match exec (.linkFlitReceive (neighbour 0 1) 1 ⟨0, 0, [], false⟩ false) s with
      | .next t => t.agenda == [.matrixHang 0, e]
      | _ => false) && match exec (.linkRetrain 0 1) s with
      | .next t => (t.linkAt 0 1).fails == 0 && t.agenda.length == 2
      | _ => false) = true := by decide +kernel

/-- R18, R322, R389: a management message and a recall that meet a base die in reset. -/
theorem test_witness_FabricReplies_failures :
    (let m : Packet := { request 0x0D with dsock := 16 }
     (isResponse m.kind == false && m.spkg.toNat == State.reset.pkg.id && (State.reset.returnFailure 0 m cMEMUE 3).agenda.length == (State.reset.replyWords (mailOf m) 4 []).agenda.length)) = true ∧
    (let r : Packet := { request 0x0A with side := 0 }
     r.side != 1 && r.dpkg.toNat == State.reset.pkg.id && !(State.reset.base (State.reset.upRouter 0)).inReset &&
       (State.reset.returnFailure 0 r cMEMUE 3).agenda == [.tokenRecall (regionOf r.addr.toNat) r.part]) = true := by decide +kernel

/-- R394: an uncorrectable line of a base die's cache, and one that a scrub read corrects. R389: the mark of a host access to a locked line. -/
theorem test_witness_MemoryUnits_scrub :
    (let line := peerKey 0 / 64
     let k := stackOf 0
     let s : State := { State.reset with mem := { bad := [line], weak := [line] } }
     decide (k < 16) && arraySock line == some k && (match exec (.scrubArrays k) s with
      | .next t => (t.pkg.errlogs.flatMap (·.2.recs)).length == 2 && t.mem.weak == [] && t.mem.bad == [line]
      | _ => false) && match exec (.scrubArrays 16) s with
      | .next t => t == s
      | _ => false) = true := by decide +kernel

/-- R384, R385: an ending context with and without a record that still waits; R387: a record of a context that drains is listed for its table at SAVEMAP. -/
theorem test_witness_FrontEndRegisters_ending :
    (let s (w : List (List Byte × DWord)) : State := (State.reset.setCtx 4 { ending := some 0 }).setCtxRec 0 4 { valid := true, waiting := w }
     (s [([], 0)]).leaveContext 4 == s [([], 0)] && ((s []).leaveContext 4).ctxs.isEmpty && !(((s []).leaveContext 4).ctxRec 0 4).valid &&
      (named.endContext 4 4 0).ctxs.isEmpty && (s [([], 0)]).endContext 4 4 0 == s [([], 0)]) = true ∧
    (let s := State.reset.setCtx 4 { saveMap := 0x8000 }
     tget s.ctxs 4 != none && ((s.removeTeams 4 [(0, bindRec)]).ctx 4).unlisted == [(0, bindRec)] && ((s.removeTeams 4 [(0, bindRec)]).ctx 4).removed == [bindRec]) = true := by
  decide +kernel

/-- R129, R382, R383: a record of no launch, one of a co-operative launch that is admitted anew, and one that covers no team. -/
theorem test_witness_FrontEndSteps_records :
    (let coop : Launch := { launched 1 0 with k := { (launched 1 0).k with coop := true } }
     (match exec (.bindRecordWrite 0 600 { bindRec with launch := 2 }) (launching 1) with
      | .next t => ((t.die 0).slots.map (·.1)) == [0]
      | _ => false) && (match exec (.bindRecordWrite 0 600 bindRec) { launching 1 with launches := [(1, coop)] } with
      | .next t => (t.die 0).slots.isEmpty && (tget t.launches 1).any (·.waiting)
      | _ => false) && ((launching 1).serveRecord 0 3 { bindRec with tcount := 0 }).any fun t => t.gangs.isEmpty && t.teams.isEmpty) = true ∧
    (let s := (launching 1).putRecord 0 3 bindRec
     (s.die 0).servedAt 0 == [(3, bindRec)] && (s.serveRecord 0 3 bindRec).isSome && (s.dispatchAt 0 0).isSome && (s.dispatchOne 0).isSome) = true := by decide +kernel

/-- R399, R406: a limit overtaken by a later slot's, and the power more than 1 ms after it; a die up during its reset; a counter outside the package. -/
theorem test_witness_ManagementMail_later :
    (mailed { State.reset with pkg := { powerLimit := 300, powerSlot := 5 } } .powerPackageLimit (mailTo 25 [100]) (·.pkg.powerLimit == 300) &&
      mailed ((State.reset.setDie 7 { inReset := true })) .powerDieUp (mailTo 24 [7, 1]) (fun t => (t.die 7).mails.length == 1) &&
      mailed State.reset .migrationReadCounters (mailTo 3 [0x100000000000000]) (fun t => t.pkg.errlogs.isEmpty) &&
      (match exec (.powerRead { mailTo 0 [] with sock := 26 }) State.reset with
      | .next t => !t.pkg.errlogs.isEmpty
      | _ => false) &&
      decide (({ State.reset with pkg := { uptime := 2000000 } } : State).pkg.powerAt + 1000000 ≤ 2000000)) = true := by decide +kernel

/-- R385, R392: a die's reset that still has a record to write, and one that has none. -/
theorem test_witness_ResetSteps_records :
    (let s (w : List (List Byte × DWord)) : State := State.reset.setDie 7 { inReset := true, recs := [(4, { valid := true, waiting := w })] }
     (match exec (.dieResetComplete 7) (s [([], 0)]) with
      | .next t => t == s [([], 0)]
      | _ => false) && match exec (.dieResetComplete 7) (s []) with
      | .next t => !(t.die 7).inReset && (t.die 7).recs.isEmpty
      | _ => false) = true := by decide +kernel

/-- R8, R389, R399: KEYS 0 to a socket that does not exist, and to a base die in reset; R397: a locked interface has its key; a clock lowered. -/
theorem test_witness_SecurityAndServo_keys :
    (let s : State := { State.reset with pkg := { spdm := 5 } }
     (match exec (.keysLoad { mailTo 0 [255] with sock := 26 } (List.replicate 12 3) true) s with
      | .next t => t.pkg.outs.contains (.doe 0 [1]) && !t.pkg.errlogs.isEmpty
      | _ => false) && (match exec (.keysLoad (mailTo 15 [255, 7, 0, 0x200000, 0]) (List.replicate 12 3) true) (s.setBase 15 { inReset := true }) with
      | .next t => t.pkg.outs == [.doe 0 [4]] && t.pkg.keys.isEmpty
      | _ => false) && (match exec (.tdispMessage 8 .lock) s with
      | .next t => t.pkg.interfaceKeys.map (·.1) == [8]
      | _ => false)) = true := by decide +kernel

end Sys2Proof.Tests
end

section
/-!
PROOF. Every step keeps memory in its canonical form (R1, R90): bytes listed at rising addresses, none that an unlisted address reads as. `Canon s` says
so of the memory of `s`, and there is one lemma `Canon.f` for each operation `f` of the model that changes the state. An operation that may fail, wait
or trap has it of every state that it leaves (`OnOk`, `OnSome`, `OnNext`, `OnFate`, `OnAFate`, `OnGot`; they are inductive, so that a proof of one does
not evaluate the computation it speaks of). The lemmas stand in the order of the model; each follows the branches of its operation and cites the lemmas
of the operations it calls, down to the writes of Laws/Memory (`wf_write`, `wf_clear`, …).
-/
set_option Elab.async false
namespace Sys2Proof.Proofs
open Sys2Proof Sys2Proof.Machine Sys2Proof.Laws

variable {s : State}

/-! ### What it is to have canonical memory -/

/-- The memory of a state is in its canonical form (R1, R90). -/
def Canon (s : State) : Prop := s.mem.wf = true

/-- A predicate holds of the value of a computation wherever there is one. -/
inductive OnOk {ε α : Type} (P : α → Prop) : Except ε α → Prop
  | ok {a : α} (h : P a) : OnOk P (.ok a)
  | error {e : ε} : OnOk P (.error e)

/-- A predicate holds of an optional value wherever there is one. -/
inductive OnSome {α : Type} (P : α → Prop) : Option α → Prop
  | some {a : α} (h : P a) : OnSome P (.some a)
  | none : OnSome P .none

/-- The state that an outcome goes on to, if it does, has canonical memory. -/
inductive OnNext : Outcome → Prop
  | next {t : State} (h : Canon t) : OnNext (.next t)
  | fault {f : Fault} : OnNext (.fault f)
  | refused {r : Refusal} : OnNext (.refused r)

/-- The state that a gang word's fate leaves, if it does, has canonical memory. -/
inductive OnFate : Fate → Prop
  | done {t : State} (h : Canon t) : OnFate (.done t)
  | wait {t : State} (h : Canon t) : OnFate (.wait t)
  | went {t : State} (h : Canon t) : OnFate (.went t)
  | trap {t : Trap} : OnFate (.trap t)

/-- The state that a collective word's fate leaves, if it does, has canonical memory. -/
inductive OnAFate : AFate → Prop
  | done {t : State} {x : ACtx} (h : Canon t) : OnAFate (.done t x)
  | wait {t : State} {x : ACtx} (h : Canon t) : OnAFate (.wait t x)
  | jump {i : Int} : OnAFate (.jump i)
  | trap {c q : Nat} : OnAFate (.trap c q)
  | failed {t : State} {c q : Nat} (h : Canon t) : OnAFate (.failed t c q)
  | ended {t : State} (h : Canon t) : OnAFate (.ended t)

/-- The state that a copy's access leaves has canonical memory. -/
inductive OnGot {α : Type} : Got α → Prop
  | ok {t : State} {v : α} (h : Canon t) : OnGot (.ok t v)
  | held {t : State} {c q : Nat} (h : Canon t) : OnGot (.held t c q)
  | wait {t : State} (h : Canon t) : OnGot (.wait t)
  | fail {t : State} {c : Nat} (h : Canon t) : OnGot (.fail t c)

/-! What such a statement says of a computation once its result is known. -/

section
variable {α : Type} {t : State}

theorem OnOk.of_ok {ε : Type} {P : α → Prop} {x : Except ε α} {a : α} (h : OnOk P x) (e : x = .ok a) : P a := by
  subst e; cases h; assumption

theorem OnSome.of_some {P : α → Prop} {x : Option α} {a : α} (h : OnSome P x) (e : x = Option.some a) : P a := by
  subst e; cases h; assumption

theorem OnNext.of_next {x : Outcome} (h : OnNext x) (e : x = .next t) : Canon t := by
  subst e; cases h; assumption

theorem OnFate.of_done {x : Fate} (h : OnFate x) (e : x = .done t) : Canon t := by
  subst e; cases h; assumption

theorem OnFate.of_wait {x : Fate} (h : OnFate x) (e : x = .wait t) : Canon t := by
  subst e; cases h; assumption

theorem OnFate.of_went {x : Fate} (h : OnFate x) (e : x = .went t) : Canon t := by
  subst e; cases h; assumption

theorem OnAFate.of_done {x : AFate} {c : ACtx} (h : OnAFate x) (e : x = .done t c) : Canon t := by
  subst e; cases h; assumption

theorem OnAFate.of_wait {x : AFate} {c : ACtx} (h : OnAFate x) (e : x = .wait t c) : Canon t := by
  subst e; cases h; assumption

theorem OnAFate.of_failed {x : AFate} {c q : Nat} (h : OnAFate x) (e : x = .failed t c q) : Canon t := by
  subst e; cases h; assumption

theorem OnAFate.of_ended {x : AFate} (h : OnAFate x) (e : x = .ended t) : Canon t := by
  subst e; cases h; assumption

theorem OnGot.of_ok {x : Got α} {v : α} (h : OnGot x) (e : x = .ok t v) : Canon t := by
  subst e; cases h; assumption

theorem OnGot.of_held {x : Got α} {c q : Nat} (h : OnGot x) (e : x = .held t c q) : Canon t := by
  subst e; cases h; assumption

theorem OnGot.of_wait {x : Got α} (h : OnGot x) (e : x = .wait t) : Canon t := by
  subst e; cases h; assumption

theorem OnGot.of_fail {x : Got α} {c : Nat} (h : OnGot x) (e : x = .fail t c) : Canon t := by
  subst e; cases h; assumption

theorem Canon.of_pair {p : State × α} {x : α} (h : Canon p.1) (e : p = (t, x)) : Canon t := by
  subst e; exact h

end

/-! The three ways in which a state keeps canonical memory: its bytes are left, they are written canonically, and a fold of such changes. -/

/-- A change of the state that leaves the bytes of its memory. -/
theorem Canon.frame {t : State} (h : Canon s) (e : t.mem.bytes = s.mem.bytes := by rfl) : Canon t := by
  unfold Canon Mem.wf
  rw [e]
  exact h

/-- A change of the state that leaves canonical bytes in its memory. -/
theorem Canon.stored {m : Mem} {t : State} (h : m.wf = true) (e : t.mem.bytes = m.bytes := by rfl) : Canon t := by
  unfold Canon Mem.wf
  rw [e]
  exact h

theorem Canon.foldl {α : Type} {f : State → α → State} {xs : List α} (h : Canon s) (hf : ∀ s x, Canon s → Canon (f s x)) :
    Canon (xs.foldl f s) := by
  induction xs generalizing s with
  | nil => exact h
  | cons x t ih => exact ih (hf s x h)

theorem Canon.foldl_fst {α β : Type} {r : State × β} {f : State × β → α → State × β} {xs : List α} (h : Canon r.1)
    (hf : ∀ r x, Canon r.1 → Canon (f r x).1) : Canon (xs.foldl f r).1 := by
  induction xs generalizing r with
  | nil => exact h
  | cons x t ih => exact ih (hf r x h)

theorem OnOk.foldl {ε α β : Type} {P : β → Prop} {x : Except ε β} {f : Except ε β → α → Except ε β} {xs : List α}
    (h : OnOk P x) (hf : ∀ r x, OnOk P r → OnOk P (f r x)) : OnOk P (xs.foldl f x) := by
  induction xs generalizing x with
  | nil => exact h
  | cons y t ih => exact ih (hf x y h)

theorem OnSome.foldl {α β : Type} {P : β → Prop} {x : Option β} {f : Option β → α → Option β} {xs : List α}
    (h : OnSome P x) (hf : ∀ r x, OnSome P r → OnSome P (f r x)) : OnSome P (xs.foldl f x) := by
  induction xs generalizing x with
  | nil => exact h
  | cons y t ih => exact ih (hf x y h)

theorem OnSome.bind {α β : Type} {P : α → Prop} {Q : β → Prop} {x : Option α} {f : α → Option β} (h : OnSome P x)
    (hf : ∀ a, P a → OnSome Q (f a)) : OnSome Q (x.bind f) := by
  cases h with
  | none => exact .none
  | some h => exact hf _ h

theorem OnSome.findSome? {α β : Type} {P : β → Prop} {f : α → Option β} {xs : List α} (hf : ∀ a, OnSome P (f a)) :
    OnSome P (xs.findSome? f) := by
  induction xs with
  | nil => exact .none
  | cons x t ih =>
    rw [List.findSome?_cons]
    split
    · next e => exact .some ((hf x).of_some e)
    · exact ih

/-! ### The operations of Machine/Reach -/

theorem Canon.setDie {k d} (h : Canon s) : Canon (s.setDie k d) := h

theorem Canon.setBase {b d} (h : Canon s) : Canon (s.setBase b d) := h

theorem Canon.setCtx {c x} (h : Canon s) : Canon (s.setCtx c x) := h

theorem Canon.setCore {c x} (h : Canon s) : Canon (s.setCore c x) := h

/-! ### The operations of Machine/Translate -/

theorem Canon.fillTlb {die ctx va} (h : Canon s) : Canon (s.fillTlb die ctx va) := by
  unfold State.fillTlb
  split
  · exact h
  · exact h.setDie

theorem Canon.writeLine {e pa bs} (h : Canon s) : Canon (s.writeLine e pa bs) := by
  unfold State.writeLine
  extract_lets line key _ s₁
  have h₁ : Canon s₁ := by
    unfold s₁
    split <;> exact h
  clear_value s₁
  split
  · exact .stored (wf_write h₁ _ _)
  · split
    · exact h₁
    · exact .stored (wf_write (wf_write h₁ _ _) _ _)

theorem Canon.askFor {a} (h : Canon s) : OnOk Canon (s.askFor a) := by
  unfold State.askFor
  split
  · exact .ok h
  · exact .error
  · exact .ok h

theorem Canon.want {a} (h : Canon s) : Canon (s.want a) := h

theorem Canon.sealEnd {die ctx line lock k c} (h : Canon s) : OnOk Canon (s.sealEnd die ctx line lock k c) := by
  unfold State.sealEnd
  extract_lets _ tag
  split
  · exact .error
  · exact .ok h
  · exact .ok h.want

theorem Canon.sealAway {die ctx k line whole f} (h : Canon s) : OnOk Canon (s.sealAway die ctx k line whole f) := by
  unfold State.sealAway
  extract_lets closed c _ w _ r
  split
  · split
    · exact .error
    · exact h.sealEnd
    · exact .ok h.want
  · split
    · exact .error
    · extract_lets free letGo c' w'
      have hfree x : OnOk Canon (letGo x) := by
        unfold letGo
        split
        · exact .error
        · exact .error
        · exact .ok h.want
      split
      · split
        · exact .ok h.want
        · exact hfree _
      · split
        · split
          · exact .error
          · exact h.sealEnd
          · exact .ok h.want
        · exact hfree _
    · exact .ok h.want

theorem Canon.storeAway {die ctx e pa bs} (h : Canon s) : OnOk Canon (s.storeAway die ctx e pa bs) := by
  unfold State.storeAway
  split
  · exact h.askFor
  · split
    · exact .error
    · exact h.sealAway

theorem Canon.writePiece {die ctx p bs} (h : Canon s) : OnOk Canon (s.writePiece die ctx p bs) := by
  unfold State.writePiece
  split
  · exact .error
  · split
    · split
      · exact .error
      · split
        · exact .error
        · exact h.askFor
    · split
      · exact h.storeAway
      · split
        · exact h.storeAway
        · exact .error
        · split
          · exact .error
          · split
            · exact .error
            · extract_lets s₁
              refine .ok ?_
              split
              · exact wf_own h.writeLine _ _
              · exact h.writeLine

theorem Canon.writePieces {die ctx ps bs} (h : Canon s) : OnOk Canon (s.writePieces die ctx ps bs) := by
  induction ps generalizing s bs with
  | nil => exact .ok h
  | cons p t ih =>
    rw [State.writePieces]
    split
    · exact .error
    · next e => exact ih (h.writePiece.of_ok e)

theorem Canon.vwrite {die ctx va bs} (h : Canon s) : OnOk Canon (s.vwrite die ctx va bs) := h.writePieces

/-! ### The operations of Machine/Report -/

theorem Canon.push {is} (h : Canon s) : Canon (s.push is) := h

theorem Canon.kick {p} (h : Canon s) : Canon (s.kick p) := by
  unfold State.kick
  split
  · exact h
  · exact h.push

theorem Canon.irq {fn what info} (h : Canon s) : Canon (s.irq fn what info) := h

theorem Canon.emit {o} (h : Canon s) : Canon (s.emit o) := h

theorem Canon.errlog {sock src sev engine code ctx addr} (h : Canon s) : Canon (s.errlog sock src sev engine code ctx addr) := by
  unfold State.errlog
  extract_lets l r full l' _ s₁
  split
  · exact h
  · exact h.frame.irq

theorem Canon.countLine {die stack pa} (h : Canon s) : Canon (s.countLine die stack pa) := by
  unfold State.countLine
  extract_lets b key n s₁
  split
  · exact h.setBase.irq
  · exact h.setBase

theorem Canon.countAt {die aper pa counted} (h : Canon s) : Canon (s.countAt die aper pa counted) := by
  unfold State.countAt
  split
  · exact h
  · split
    · exact h.countLine
    · split
      · split
        · exact h.countLine
        · exact h
      · exact h

theorem Canon.countRange {die ctx va n} (h : Canon s) : Canon (s.countRange die ctx va n) := by
  unfold State.countRange
  refine h.foldl fun t p h' => ?_
  split
  · exact h'.countAt
  · exact h'

theorem Canon.strayLog {src ctx pa} (h : Canon s) : Canon (s.strayLog src ctx pa) := h

theorem Canon.failedAt {die ctx va n err} (h : Canon s) : Canon (s.failedAt die ctx va n err) := by
  unfold State.failedAt
  extract_lets at_ missing
  split
  · exact h
  · split
    · split
      · exact h.strayLog
      · exact h
    · split
      · split
        · exact h.push
        · exact h
      · exact h

theorem Canon.sendAsk {owner a} (h : Canon s) : Canon (s.sendAsk owner a) := by
  unfold State.sendAsk
  split
  · exact h
  · exact h.frame.push

theorem Canon.sendAsks {owner as} (h : Canon s) : Canon (s.sendAsks owner as) := h.foldl fun _ _ h => h.sendAsk

theorem Canon.forgetAsks {owner} (h : Canon s) : Canon (s.forgetAsks owner) := by
  unfold State.forgetAsks
  split <;> exact h

theorem Canon.loseAsks {gone} (h : Canon s) : Canon (s.loseAsks gone) := h

theorem Canon.kept {owner o} (h : Canon s) (ho : OnNext o) : OnNext (s.kept owner o) := by
  unfold State.kept
  cases ho with
  | next ht =>
    refine .next ?_
    split
    · exact ht.forgetAsks
    · exact h.sendAsks
  | fault => exact .fault
  | refused => exact .refused

theorem Canon.ringPut {sock rec} (h : Canon s) : Canon (s.ringPut sock rec) := by
  unfold State.ringPut
  extract_lets r r' _
  split
  · exact h
  · exact wf_write h _ _

theorem Canon.trace {sock engine unit kind tag payload} (h : Canon s) : Canon (s.trace sock engine unit kind tag payload) := h.ringPut

theorem Canon.traceDrops {sock} (h : Canon s) : Canon (s.traceDrops sock) := by
  unfold State.traceDrops
  extract_lets r s₁ r1 _
  split
  · exact h
  · exact h.trace.frame

theorem Canon.setCtxRec {die c r} (h : Canon s) : Canon (s.setCtxRec die c r) := h

theorem Canon.nextSeq {die} (h : Canon s) : Canon (s.nextSeq die) := h

theorem Canon.faultRecord {die c bytes} (h : Canon s) : Canon (s.faultRecord die c bytes) := (Canon.stored (wf_write h _ _)).setCtxRec.irq

theorem Canon.setQueue {die q x} (h : Canon s) : Canon (s.setQueue die q x) := h

theorem Canon.notify (h : Canon s) : Canon (s.notify) := h

theorem Canon.signalAdd {die ctx va n} (h : Canon s) : OnOk Canon (s.signalAdd die ctx va n) := by
  unfold State.signalAdd
  split
  · exact .error
  · split
    · exact .error
    · split
      · split
        · exact h.askFor
        · split
          · exact .error
          · exact h.sealAway
      · split
        · exact .error
        · exact h.vwrite

theorem Canon.signalSet {die ctx va v} (h : Canon s) : OnOk Canon (s.signalSet die ctx va v) := by
  unfold State.signalSet
  split
  · exact .error
  · split
    · exact .error
    · exact h.vwrite

theorem Canon.failedSignal {die ctx va err} (h : Canon s) : Canon (s.failedSignal die ctx va err) := by
  unfold State.failedSignal
  split
  · split
    · exact h.strayLog
    · exact h.failedAt
  · exact h

theorem Canon.signalSub {die ctx va n} (h : Canon s) : OnOk Canon (s.signalSub die ctx va n) := by
  unfold State.signalSub
  split
  · exact .error
  · next e => exact .ok (h.signalAdd.of_ok e).notify

theorem Canon.queueError {die q cause} (h : Canon s) : Canon (s.queueError die q cause) := by
  unfold State.queueError
  extract_lets x s₁ s₂
  have h₂ : Canon s₂ := by
    unfold s₂
    split
    · exact h.setQueue
    · split
      · next e₁ => exact (h.setQueue.vwrite.of_ok e₁).countRange.notify
      · exact h.setQueue.failedAt
  exact h₂.irq

theorem Canon.doneSig {die ctx sig queue} (h : Canon s) : Canon (s.doneSig die ctx sig queue) := by
  unfold State.doneSig
  split
  · exact h
  · split
    · next e₁ => exact (h.signalSub.of_ok e₁).countRange
    · extract_lets s₁
      split
      · exact h.failedSignal.queueError
      · exact h.failedSignal

theorem Canon.putCompletion {die c bytes sig} (h : Canon s) : OnSome Canon (s.putCompletion die c bytes sig) := by
  unfold State.putCompletion
  extract_lets r ring
  split
  · exact .none
  · next e =>
      extract_lets _ s'1 s₂'
      have h₂' : Canon s₂' := by
        unfold s₂'
        split
        · exact (h.vwrite.of_ok e).countRange.setCtxRec.irq
        · exact (h.vwrite.of_ok e).countRange.setCtxRec
      exact .some h₂'.doneSig

theorem Canon.drainCompletions {n die c} (h : Canon s) : Canon (State.drainCompletions n s die c) := by
  induction n generalizing s with
  | zero => exact h
  | succ n ih =>
    rw [State.drainCompletions]
    split
    · exact h.setCtxRec
    · split
      · exact h
      · split
        · next e => exact ih (h.setCtxRec.putCompletion.of_some e)
        · split
          · exact h.failedAt.setCtxRec
          · exact h.failedAt.setCtxRec.errlog

theorem Canon.complete {die c kind status code queue tag launch info sig} (h : Canon s) :
    Canon (s.complete die c kind status code queue tag launch info sig) := by
  unfold State.complete
  extract_lets r bytes s'
  split
  · exact h.setCtxRec
  · exact h.setCtxRec.drainCompletions

theorem Canon.packetDone {die q index ctx tag crec sig status code launch} (h : Canon s) :
    Canon (s.packetDone die q index ctx tag crec sig status code launch) := by
  unfold State.packetDone
  extract_lets x s₁ s₂
  have h₂ : Canon s₂ := by
    unfold s₂
    split
    · exact h.setQueue.complete
    · exact h.setQueue.doneSig
  split
  · exact h₂.push
  · exact h₂

theorem Canon.reply {m status payload} (h : Canon s) : Canon (s.reply m status payload) := wf_write (wf_write h _ _) _ _

theorem Canon.replyWords {m status vals} (h : Canon s) : Canon (s.replyWords m status vals) := h.reply

/-! ### The operations of Machine/Context -/

theorem Canon.setGang {k g} (h : Canon s) : Canon (s.setGang k g) := h

theorem Canon.setTeam {k t} (h : Canon s) : Canon (s.setTeam k t) := h

theorem Canon.uncacheReads {hit} (h : Canon s) : Canon (s.uncacheReads hit) := h

theorem Canon.forgetLine {line} (h : Canon s) : Canon (s.forgetLine line) := by
  unfold State.forgetLine
  split
  · exact h
  · extract_lets s₁ lo _
    split
    · exact h.uncacheReads
    · exact wf_clear h.uncacheReads _ _

theorem Canon.regionAck {region kind part} (h : Canon s) : Canon (s.regionAck region kind part) := h

theorem Canon.finishRegion {code part} (h : Canon s) : Canon (s.finishRegion code part) := by
  unfold State.finishRegion
  extract_lets owner tags
  split
  · exact h
  · split
    · exact h.sendAsks
    · exact h.frame.regionAck

theorem Canon.dropRegionL1 {region} (h : Canon s) : Canon (s.dropRegionL1 region) := h

theorem Canon.returnLines {region kind part} (h : Canon s) : Canon (s.returnLines region kind part) :=
  (Canon.stored (wf_clear h _ _)).uncacheReads.dropRegionL1.sendAsks.finishRegion

theorem Canon.enterReplicas {region} (h : Canon s) : Canon (s.enterReplicas region) := h

theorem Canon.returnToken {region part} (h : Canon s) : Canon (s.returnToken region part) := h.frame.enterReplicas.returnLines

theorem Canon.releaseToken {region c} (h : Canon s) : Canon (s.releaseToken region c) := by
  unfold State.releaseToken
  split
  · exact h
  · split
    · exact h
    · extract_lets t1 _
      split
      · exact h.returnToken
      · exact h

theorem Canon.freeAttar {b k} (h : Canon s) : Canon (s.freeAttar b k) := h

theorem Canon.endProgram {b k status code word} (h : Canon s) : Canon (s.endProgram b k status code word) := by
  unfold State.endProgram
  split
  · exact h
  · exact h.freeAttar.complete

theorem Canon.endAttar {p status code} (h : Canon s) : Canon (s.endAttar p status code) := by
  unfold State.endAttar
  refine h.foldl fun s b h' => ?_
  extract_lets e s₁
  refine h'.setBase.foldl fun s x h' => ?_
  split
  · exact h'.endProgram
  · exact h'

theorem Canon.walkRecord {die c status code} (h : Canon s) : Canon (s.walkRecord die c status code) := by
  unfold State.walkRecord
  split
  · exact h
  · exact h.complete.foldl fun _ _ h => h.packetDone

theorem Canon.abortRecord {die c} (h : Canon s) : Canon (s.abortRecord die c) := by
  unfold State.abortRecord
  split
  · split
    · next e₂ => exact (h.vwrite.of_ok e₂).countRange
    · exact h.failedAt
  · exact h

theorem Canon.freeChan {die k} (h : Canon s) : Canon (s.freeChan die k) := by
  unfold State.freeChan
  extract_lets c s₁ s₂ _
  have h₂ : Canon s₂ := by
    unfold s₂
    split
    · exact h.abortRecord.walkRecord
    · exact h.abortRecord
  exact h₂.setDie

theorem Canon.nodeTrace {die ctx node status launch} (h : Canon s) : Canon (s.nodeTrace die ctx node status launch) := h.trace

theorem Canon.nodeRecord {die ctx queue node status code launch} (h : Canon s) :
    Canon (s.nodeRecord die ctx queue node status code launch) := h.setDie.nodeTrace.complete

theorem Canon.abandonLaunch {id status code} (h : Canon s) : Canon (s.abandonLaunch id status code) := by
  unfold State.abandonLaunch
  split
  · exact h
  · extract_lets s₁
    split
    · exact h.frame.packetDone
    · exact h.frame.nodeRecord

theorem Canon.abandonGraphs {die c status code} (h : Canon s) : Canon (s.abandonGraphs die c status code) :=
  h.setDie.foldl fun _ _ h => (h.foldl fun _ _ h => h.nodeRecord).packetDone

theorem Canon.abandonWork {c status code} (h : Canon s) : Canon (s.abandonWork c status code) := by
  unfold State.abandonWork
  extract_lets s₁
  have h₁ : Canon s₁ := by
    unfold s₁
    refine h.foldl fun s l h' => ?_
    split
    · exact h'.abandonLaunch
    · exact h'
  exact h₁.foldl fun _ _ h => h.abandonGraphs

theorem Canon.removeTeams {c rs} (h : Canon s) : Canon (s.removeTeams c rs) := by
  unfold State.removeTeams
  extract_lets x listed
  split
  · exact h
  · exact h.setCtx.foldl fun _ _ h => h.kick

theorem Canon.stopQueues {die c} (h : Canon s) : Canon (s.stopQueues die c) := h.frame.removeTeams

theorem Canon.wipeDie {k} (h : Canon s) : Canon (s.wipeDie k) := wf_wipe (wf_wipe h _ _) _ _

theorem Canon.setClock {island mhz} (h : Canon s) : Canon (s.setClock island mhz) := by
  unfold State.setClock
  extract_lets _ s₁ src
  have h₁ : Canon s₁ := by
    unfold s₁
    split
    · exact h.setCore
    · exact h
  exact h₁

theorem Canon.restartCycles {cores} (h : Canon s) : Canon (s.restartCycles cores) := h.foldl fun _ _ h => h.setCore

theorem Canon.replyAll {ms status} (h : Canon s) : Canon (s.replyAll ms status) := h.foldl fun _ _ h => h.replyWords

theorem Canon.readyQueue {die q} (h : Canon s) : Canon (s.readyQueue die q) := h.setQueue.kick

theorem Canon.restartQueues {c die} (h : Canon s) : Canon (s.restartQueues c die) := by
  unfold State.restartQueues
  extract_lets d
  split
  · exact h
  · refine h.foldl fun s q h' => ?_
    split
    · extract_lets _ s₁
      split
      · exact h'.setQueue
      · exact h'.setQueue.readyQueue
    · exact h'

theorem Canon.checkDown {k} (h : Canon s) : Canon (s.checkDown k) := by
  unfold State.checkDown
  extract_lets d s₁
  split
  · exact h
  · exact h.wipeDie.setDie.replyAll

theorem Canon.checkDrain {c} (h : Canon s) : Canon (s.checkDrain c) := by
  unfold State.checkDrain
  extract_lets x ended s₁ s₂ s₃
  split
  · exact h
  · split
    · exact (h.setCtx.foldl fun _ _ h => h.replyAll).foldl fun _ _ h => h.checkDown
    · refine ((h.setCtx.foldl fun _ _ h => h.replyAll).foldl fun _ _ h => h.checkDown).foldl fun s k h' => ?_
      split
      · exact h'.restartQueues
      · exact h'

theorem Canon.endTeam {tk} (h : Canon s) : Canon (s.endTeam tk) := by
  unfold State.endTeam
  split
  · exact h
  · extract_lets s₁ id s₂ die s₃
    have h₂ : Canon s₂ := by
      unfold s₂
      split
      · exact h
      · split
        · exact h
        · extract_lets s₄
          split
          · exact h.frame.push
          · exact h
    have h₃ : Canon s₃ := by
      unfold s₃
      split
      · exact h₂.push
      · exact h₂
    exact h₃.checkDrain

theorem Canon.touchOldest {core old} (h : Canon s) : Canon (s.touchOldest core old) := by
  unfold State.touchOldest
  split
  · exact h
  · split
    · split <;> exact h
    · exact h.setCore
    · exact h

theorem Canon.dropGang {key saved} (h : Canon s) : Canon (s.dropGang key saved) := by
  unfold State.dropGang
  split
  · exact h
  · extract_lets tk core old _ s₁ s₂ s₃ s₄
    have h₂ : Canon s₂ := by
      unfold s₂
      split
      · split
        · exact h.frame.setCore
        · exact h
      · exact h
    have h₄ : Canon s₄ := by
      unfold s₄
      split
      · extract_lets s₅ x2
        split
        · exact h₂.touchOldest.setTeam.setCtx
        · exact h₂.touchOldest.setTeam
      · exact h₂.touchOldest
    split
    · exact h₄
    · exact h₄.endTeam

theorem Canon.dropGangs {p} (h : Canon s) : Canon (s.dropGangs p) := by
  unfold State.dropGangs
  refine h.foldl fun s x h' => ?_
  split
  · exact h'.dropGang
  · exact h'

theorem Canon.preemptTrace {c die engine unit step launch} (h : Canon s) : Canon (s.preemptTrace c die engine unit step launch) := h.trace

theorem Canon.leaveContext {c} (h : Canon s) : Canon (s.leaveContext c) := by
  unfold State.leaveContext
  split
  · exact h
  · exact ((h.foldl fun _ _ h => h.preemptTrace).foldl fun _ _ h => h.setDie).frame

theorem Canon.endContext {c status code} (h : Canon s) : Canon (s.endContext c status code) := by
  unfold State.endContext
  split
  · exact h
  · extract_lets _ s₁ s₂ s₃ s₄ s₅ s₆ s₇ s₈ s₉
    have h₆ : Canon s₆ := by
      unfold s₆
      refine ((h.setCtx.foldl fun _ _ h => h.stopQueues).abandonWork.dropGangs.foldl fun _ _ h => h.releaseToken).foldl fun s k h' => ?_
      refine h'.foldl fun s x h' => ?_
      split
      · exact h'.freeChan
      · exact h'
    exact (h₆.endAttar.checkDrain.foldl fun _ _ h => h.setDie).leaveContext

theorem Canon.drainFailure {c} (h : Canon s) : Canon (s.drainFailure c) := (h.foldl fun _ _ h => h.irq).setCtx.replyAll.endContext

/-! ### The operations of Machine/Ops -/

theorem Canon.pushOvf {key pc mask} (h : Canon s) : OnOk Canon (s.pushOvf key pc mask) := by
  unfold State.pushOvf
  split
  · exact .ok h
  · split
    · exact .error
    · split
      · exact .error
      · next e₂ => exact .ok (h.vwrite.of_ok e₂).setGang

theorem Canon.trapEnd {g cause code1 code2 tpc targ} (h : Canon s) : Canon (s.trapEnd g cause code1 code2 tpc targ) :=
  h.faultRecord.nextSeq.endContext

theorem Canon.trapTrace {g} (h : Canon s) : Canon (s.trapTrace g) := h.trace

theorem Canon.doubleFault {g code2} (h : Canon s) : Canon (s.doubleFault g code2) := h.trapEnd

theorem Canon.takeTrap {key idx code cause arg mask skip failure} (h : Canon s) :
    Canon (s.takeTrap key idx code cause arg mask skip failure) := by
  unfold State.takeTrap
  split
  · exact h
  · split
    · exact h
    · split
      · exact h.doubleFault
      · split
        · exact h.trapEnd
        · extract_lets g1 g2
          split
          · exact h.setGang
          · exact h.setGang.trapTrace

theorem Canon.retryTrap {key} (h : Canon s) : Canon (s.retryTrap key) := by
  unfold State.retryTrap
  split
  · exact h
  · split
    · exact h
    · split
      · exact h
      · exact h.setGang.takeTrap

theorem Canon.retryTraps {core} (h : Canon s) : Canon (s.retryTraps core) := by
  unfold State.retryTraps
  refine h.foldl fun s x h' => ?_
  split
  · exact h'.retryTrap
  · exact h'

/-- What holds of a function by structural recursion on a number: it holds at zero, and every step keeps it. The proof about `State.regang` goes through
this and not through the function's equation, whose check would have the kernel run the read of an overflow record. -/
theorem brecOn_induction {C : Type} {P : C → Prop} (F : (n : Nat) → Nat.below (motive := fun _ => C) n → C) (zero : ∀ b, P (F 0 b))
    (succ : ∀ n (b : Nat.below (motive := fun _ => C) (n + 1)), P b.1 → P (F (n + 1) b)) (n : Nat) : P (Nat.brecOn n F) := by
  cases n with
  | zero => exact zero _
  | succ n =>
    refine succ n _ ?_
    show P (Nat.brecOn n F)
    exact brecOn_induction F zero succ n

theorem Canon.regang {n key i} (h : Canon s) : Canon (State.regang n s key i) := by
  delta State.regang
  refine brecOn_induction (P := fun f => ∀ s key i, Canon s → Canon (f s key i)) State.regang._f (fun _ _ _ _ h => h)
    (fun n b ih s key i h => ?_) n s key i h
  delta State.regang._f
  dsimp -zeta only
  split
  · exact h
  · split
    · split
      · exact h
      · split
        · extract_lets t
          split
          · exact h.failedAt
          · exact h.failedAt.takeTrap
        · exact ih _ _ _ h.setGang
    · split
      · exact h
      · exact ih _ _ _ h.setGang

theorem Canon.arrive {key i} (h : Canon s) : Canon (s.arrive key i) := h.regang

theorem Canon.advance {key i n} (h : Canon s) : Canon (s.advance key i n) := by
  unfold State.advance
  split
  · exact h
  · split
    · exact h
    · extract_lets sp' s₁
      split
      · exact h.setGang
      · exact h.setGang.arrive

theorem Canon.raise {c arg t} (h : Canon s) : Canon (s.raise c arg t) := by
  unfold State.raise
  extract_lets s₁
  have h₁ : Canon s₁ := by
    unfold s₁
    split
    · exact h.failedAt
    · exact h
  split
  · exact h₁
  · exact h₁.takeTrap

theorem Canon.gangWord {i body} (h : Canon s) (hb : ∀ c, OnFate (body c)) : OnNext (gangWord i s body) := by
  unfold Machine.gangWord
  split
  · exact .fault
  · next c _ =>
    extract_lets ws
    split
    · exact .next h.advance
    · split
      · exact .next h.raise
      · split
        · next e => exact .next ((hb c).of_done e).advance
        · next e => exact .next ((hb c).of_wait e)
        · next e => exact .next ((hb c).of_went e)
        · exact .next h.raise

theorem Canon.hold {c h'} (h : Canon s) : Canon (s.hold c h') := by
  unfold State.hold
  split
  · exact h
  · split
    · exact h
    · exact h.setGang

theorem Canon.resumeSplit {c skip} (h : Canon s) : Canon (s.resumeSplit c skip) := by
  unfold State.resumeSplit
  split
  · exact h.raise
  · extract_lets s₁
    split
    · exact h.setGang
    · exact h.setGang.arrive

theorem Canon.askOvf {g} (h : Canon s) : Canon (s.askOvf g) := by
  unfold State.askOvf
  refine h.foldl fun s r h' => ?_
  split
  · exact h'
  · split
    · exact h'.failedAt
    · exact h'

theorem Canon.skipTrapped {key} (h : Canon s) : Canon (s.skipTrapped key) := by
  unfold State.skipTrapped
  split
  · exact h
  · extract_lets i
    split
    · exact h
    · split
      · exact h
      · split
        · exact h
        · extract_lets s₁
          split
          · exact h.setGang
          · exact h.setGang.arrive

theorem Canon.askSkip {g} (h : Canon s) : Canon (s.askSkip g) := by
  unfold State.askSkip
  split
  · exact h
  · split
    · exact h
    · split
      · exact h
      · split
        · split
          · exact h.failedAt
          · exact h
        · exact h

theorem Canon.returnTrap {key} (h : Canon s) : Canon (s.returnTrap key) := by
  unfold State.returnTrap
  split
  · exact h
  · split
    · exact h
    · extract_lets masks s₁ s₂ s₃
      split
      · exact h.askOvf.askSkip
      · split
        · exact h.askOvf.askSkip.doubleFault
        · split
          · exact h.askOvf.askSkip.dropGang.retryTraps
          · exact h.askOvf.askSkip.dropGang.retryTraps
          · exact h.askOvf.askSkip.dropGang.retryTraps
          · split
            · exact h.askOvf.askSkip.setGang.skipTrapped.retryTraps.push
            · exact h.askOvf.askSkip.setGang.skipTrapped.retryTraps

/-! ### The operations of Machine/Operands -/

theorem Canon.put {c g} (h : Canon s) : Canon (s.put c g) := h

theorem Canon.laneWord {i us f} (h : Canon s) : OnNext (laneWord i us f s) := by
  unfold Machine.laneWord
  refine h.gangWord fun c => ?_
  split
  · exact .trap
  · exact .done h.put

theorem Canon.bin32 {i d a b f} (h : Canon s) : OnNext (bin32 i d a b f s) := h.laneWord

theorem Canon.un32 {i d a f} (h : Canon s) : OnNext (un32 i d a f s) := h.laneWord

theorem Canon.bin64 {i d a b f} (h : Canon s) : OnNext (bin64 i d a b f s) := h.laneWord

theorem Canon.cmp32 {i d a b f} (h : Canon s) : OnNext (cmp32 i d a b f s) := h.laneWord

theorem Canon.binPred {i d a b f} (h : Canon s) : OnNext (binPred i d a b f s) := h.laneWord

/-! ### The operations of Machine/Special -/

theorem Canon.execRdsr {d num} (h : Canon s) : OnNext (execRdsr d num s) := by
  unfold Machine.execRdsr
  refine h.gangWord fun c => ?_
  extract_lets n
  split
  · exact .trap
  · split
    · split
      · exact .trap
      · exact .done h.put
    · split
      · exact .trap
      · split
        · exact .trap
        · exact .done h.put

theorem Canon.execView {which imm} (h : Canon s) : OnNext (execView which imm s) := by
  unfold Machine.execView
  refine h.gangWord fun c => ?_
  split
  · exact .trap
  · exact .done h.put

theorem Canon.writeSr {c n v} (h : Canon s) : OnSome Canon (s.writeSr c n v) := by
  unfold State.writeSr
  extract_lets g x lo view b
  have hview k : OnSome Canon (view k) := by
    unfold view
    split
    · exact .none
    · exact .some h.put
  split
  · exact hview 0
  · exact hview 1
  · exact hview 2
  · exact .some h.put
  · exact .some h.put
  · refine .some ?_
    split
    · exact h.put
    · exact h
  · exact .some h.put
  · exact .some h.put
  · exact .some h.put
  · exact .some h.put
  · exact .some h.put
  · exact .some h.setCtx
  · exact .some h.setCtx
  · exact .some h.setCtx
  · split
    · exact .some h.setCtx
    · exact .none
  · split
    · exact .some h.setCtx
    · exact .none
  · split
    · exact .some h.setCtx
    · exact .none
  · split
    · exact .some h
    · exact .none

theorem Canon.dropLatch {c} (h : Canon s) : Canon (s.dropLatch c) := by
  unfold State.dropLatch
  split
  · exact h
  · exact h.setGang

theorem Canon.execWrsr {d num} (h : Canon s) : OnNext (execWrsr d num s) := by
  unfold Machine.execWrsr
  refine h.gangWord fun c => ?_
  extract_lets n wide
  split
  · exact .trap
  · split
    · exact .trap
    · split
      · exact .trap
      · next e₂ => exact .done (h.writeSr.of_some e₂).dropLatch

/-! ### The operations of Machine/Wait -/

theorem Canon.staled {core c} (h : Canon s) : Canon (s.staled core c) := h

theorem Canon.dropL1 {core} (h : Canon s) : Canon (s.dropL1 core) := h

theorem Canon.deliver {key idx ctr} (h : Canon s) : OnSome Canon (s.deliver key idx ctr) := by
  unfold State.deliver
  split
  · exact .none
  · split
    · exact .none
    · exact .some h.setGang.takeTrap

theorem Canon.barCheck {tk k} (h : Canon s) : Canon (s.barCheck tk k) := by
  unfold State.barCheck
  split
  · exact h
  · extract_lets b s₁
    split
    · exact h
    · split
      · exact h
      · split
        · exact h.setTeam
        · exact h.setTeam.dropL1

theorem Canon.barArrive {c k pub n} (h : Canon s) : Canon (s.barArrive c k pub n) := by
  unfold State.barArrive
  extract_lets tk
  split
  · exact h
  · exact h.setTeam.barCheck

theorem Canon.clusterCheck {tk} (h : Canon s) : Canon (s.clusterCheck tk) := by
  unfold State.clusterCheck
  split
  · exact h
  · next x _ _ =>
      extract_lets ts some_
      split
      · refine h.foldl fun s x h' => ?_
        extract_lets _ s₁
        split
        · exact h'.setTeam.dropL1
        · exact h'.setTeam
      · exact h

theorem Canon.exitChecks {tk core} (h : Canon s) : Canon (s.exitChecks tk core) := by
  unfold State.exitChecks
  extract_lets s₁ s₂
  refine (h.foldl fun _ _ h => h.barCheck).clusterCheck.foldl fun s x h' => ?_
  split
  · exact h'.setGang
  · exact h'

theorem Canon.execWaitc {ctr n} (h : Canon s) : OnNext (execWaitc ctr n s) := by
  unfold Machine.execWaitc
  refine h.gangWord fun c => ?_
  split
  · exact .wait h.hold
  · split
    · next e₁ => exact .went (h.deliver.of_some e₁)
    · exact .done h.put

theorem Canon.execBar {k pub n4} (h : Canon s) : OnNext (execBar k pub n4 s) := by
  unfold Machine.execBar
  refine h.gangWord fun c => ?_
  extract_lets tk s' phase
  split
  · exact .trap
  · split
    · split
      · exact .wait h
      · exact .done h.put
    · split
      · exact .trap
      · split
        · exact .wait h.barArrive.hold
        · exact .done h.barArrive.put

theorem Canon.execBararv {k pub n4} (h : Canon s) : OnNext (execBararv k pub n4 s) := by
  unfold Machine.execBararv
  refine h.gangWord fun c => ?_
  extract_lets tk _ g
  split
  · exact .trap
  · exact .done h.barArrive.put

theorem Canon.execBarwt {k} (h : Canon s) : OnNext (execBarwt k s) := by
  unfold Machine.execBarwt
  refine h.gangWord fun c => ?_
  split
  · exact .trap
  · split
    · exact .wait h.hold
    · exact .done h.put

theorem Canon.execClbar {pub} (h : Canon s) : OnNext (execClbar pub s) := by
  unfold Machine.execClbar
  refine h.gangWord fun c => ?_
  extract_lets tk
  split
  · exact .done h.put
  · split
    · exact .trap
    · split
      · split
        · exact .wait h
        · exact .done h.put
      · extract_lets s' s'1
        split
        · split
          · exact .wait h.setTeam.hold.clusterCheck
          · exact .done h.setTeam.hold.clusterCheck.put
        · exact .wait h.setTeam.hold.clusterCheck

/-! ### The operations of Machine/Control -/

theorem Canon.pushAll {key groups} (h : Canon s) : OnOk Canon (s.pushAll key groups) := by
  induction groups generalizing s with
  | nil => exact .ok h
  | cons x t ih =>
    rw [State.pushAll]
    split
    · exact .error
    · next e => exact ih (h.pushOvf.of_ok e)

theorem Canon.transfer {c groups} (h : Canon s) : OnOk Canon (s.transfer c groups) := by
  unfold State.transfer
  split
  · extract_lets g'
    split
    · split
      · exact .error
      · split
        · exact .error
        · next e₄ =>
            refine .ok ?_
            refine (h.setGang.pushAll.of_ok e₄).foldl fun s i h' => ?_
            split
            · exact h'
            · split
              · exact h'.arrive
              · exact h'
  · exact .ok h

theorem OnFate.ofTransfer {r} (h : OnOk Canon r) : OnFate (Fate.ofTransfer r) := by
  cases h with
  | ok h => exact .went h
  | error => exact .trap

theorem Canon.go {c groups} (h : Canon s) : OnFate (s.go c groups) := .ofTransfer h.put.transfer

theorem Canon.execBra {disp} (h : Canon s) : OnNext (execBra disp s) := h.gangWord fun _ => h.go

theorem Canon.execBrp {neg pred disp} (h : Canon s) : OnNext (execBrp neg pred disp s) := h.gangWord fun _ => h.go

theorem Canon.execBru {neg pred disp} (h : Canon s) : OnNext (execBru neg pred disp s) := h.gangWord fun _ => h.go

theorem Canon.execBrx {a} (h : Canon s) : OnNext (execBrx a s) := by
  unfold Machine.execBrx
  refine h.gangWord fun c => ?_
  split
  · exact .trap
  · split
    · exact .trap
    · exact h.go

theorem Canon.link {c d} (h : Canon s) : Canon (s.link c d) := h

theorem Canon.execCall {disp} (h : Canon s) : OnNext (execCall disp s) := h.gangWord fun _ => .ofTransfer h.link.transfer

theorem Canon.execCallx {d a} (h : Canon s) : OnNext (execCallx d a s) := by
  unfold Machine.execCallx
  refine h.gangWord fun c => ?_
  split
  · exact .trap
  · split
    · exact .trap
    · exact .ofTransfer h.link.transfer

theorem Canon.execRet {a} (h : Canon s) : OnNext (execRet a s) := by
  unfold Machine.execRet
  refine h.gangWord fun c => ?_
  split
  · exact .trap
  · split
    · exact .trap
    · exact h.go

theorem Canon.dropOvf {key out} (h : Canon s) : OnOk Canon (s.dropOvf key out) := by
  unfold State.dropOvf
  split
  · exact .ok h
  · extract_lets rows bad recs
    clear_value bad recs
    split
    · exact .error
    · refine OnOk.foldl (.ok h.setGang) fun r x hr => ?_
      -- the row's bytes as a variable: on a list of known length the kernel would run the write
      obtain ⟨bs, hbs⟩ : ∃ bs, bs = leBytes 8 x.1.1.toNat ++ leBytes 8 x.1.2.toNat := ⟨_, rfl⟩
      rw [← hbs]
      split
      · exact .error
      · have hs := hr.of_ok rfl
        split
        · exact .error
        · next e => exact .ok (hs.vwrite.of_ok e)

theorem Canon.exitLanes {c} (h : Canon s) : Canon (s.exitLanes c) := by
  unfold State.exitLanes
  extract_lets
  exact h.put.arrive.exitChecks

theorem Canon.popInterrupted {key freed} (h : Canon s) : Canon (s.popInterrupted key freed) := by
  unfold State.popInterrupted
  split
  · exact h
  · split
    · exact h
    · extract_lets s'
      split
      · exact h.setGang.foldl fun _ _ h => h.arrive
      · exact (h.setGang.foldl fun _ _ h => h.arrive).setGang

theorem Canon.exitHandler {c h'} (h : Canon s) : OnOk Canon (s.exitHandler c h') := by
  unfold State.exitHandler
  extract_lets g rest g1 freed h1
  split
  · exact .error
  · next e => exact .ok (h.put.dropOvf.of_ok e).popInterrupted.arrive.exitChecks

theorem Canon.execExit (h : Canon s) : OnNext (execExit s) := by
  unfold Machine.execExit
  refine h.gangWord fun c => ?_
  split
  · exact .went h.exitLanes
  · exact .ofTransfer h.exitHandler

theorem Canon.execGangEnd {gang} (h : Canon s) : OnNext (execGangEnd gang s) := by
  unfold Machine.execGangEnd
  split
  · exact .next h
  · split
    · exact .next h
    · extract_lets s₁
      have h₁ : Canon s₁ := by
        unfold s₁
        split <;> exact h
      exact .next h₁.dropGang.retryTraps

theorem Canon.execTrap {imm} (h : Canon s) : OnNext (execTrap imm s) := h.gangWord fun _ => .trap

theorem Canon.execBrk (h : Canon s) : OnNext (execBrk s) := h.gangWord fun _ => .trap

theorem Canon.standRtt {c} (h : Canon s) : OnOk Canon (s.standRtt c) := by
  unfold State.standRtt
  extract_lets rest _ g
  split
  · exact .ok h.put
  · split
    · exact .error
    · exact .ok h.put.arrive

theorem Canon.execRtt (h : Canon s) : OnNext (execRtt s) := by
  unfold Machine.execRtt
  refine h.gangWord fun c => ?_
  split
  · exact .trap
  · split
    · exact .trap
    · next e₁ =>
        split
        · exact .wait (h.standRtt.of_ok e₁)
        · split
          · exact .went (h.standRtt.of_ok e₁).returnTrap
          · exact .wait (h.standRtt.of_ok e₁)

theorem Canon.execMcall {n b params} (h : Canon s) : OnNext (execMcall n b params s) := by
  unfold Machine.execMcall
  refine h.gangWord fun c => ?_
  extract_lets prog _ sp
  split
  · exact .trap
  · split
    · exact .trap
    · exact .went h.put

theorem Canon.execFork {d a b ctr} (h : Canon s) : OnNext (execFork d a b ctr s) := by
  unfold Machine.execFork
  refine h.gangWord fun c => ?_
  split
  · exact .trap
  · extract_lets pc core status k nest s₁
    split
    · exact .trap
    · split
      · exact .done h.put
      · split
        · exact .wait h.hold
        · exact .done h.setCore.put.kick

theorem Canon.execJoine {d mode} (h : Canon s) : OnNext (execJoine d mode s) := by
  unfold Machine.execJoine
  refine h.gangWord fun c => ?_
  split
  · exact .trap
  · split
    · split
      · exact .wait h.hold
      · exact .done h.put
    · split
      · exact .wait h.hold
      · exact .done h.put

theorem Canon.execDoze {a} (h : Canon s) : OnNext (execDoze a s) := by
  unfold Machine.execDoze
  refine h.gangWord fun c => ?_
  split
  · exact .trap
  · split
    · exact .done h.put
    · exact .wait h.hold

theorem Canon.execDozeWake {gang entry} (h : Canon s) : OnNext (execDozeWake gang entry s) := by
  unfold Machine.execDozeWake
  split
  · exact .next h
  · split
    · exact .next h
    · split
      · refine .next ?_
        split
        · exact h.setGang
        · exact h
      · exact .next h

theorem Canon.execYield (h : Canon s) : OnNext (execYield s) := h.gangWord fun _ => .done h.put

/-! ### The operations of Machine/Flags -/

theorem Canon.fpWord {i us flags f} (h : Canon s) : OnNext (fpWord i us flags f s) := by
  unfold Machine.fpWord
  refine h.gangWord fun c => ?_
  split
  · exact .trap
  · split
    · exact .trap
    · exact .done h.put

theorem Canon.fp32Word {i us d r} (h : Canon s) : OnNext (fp32Word i us d r s) := h.fpWord

theorem Canon.fp64Word {i us d r} (h : Canon s) : OnNext (fp64Word i us d r s) := h.fpWord

theorem Canon.fpCmp {i us d r} (h : Canon s) : OnNext (fpCmp i us d r s) := h.fpWord

theorem Canon.fbin32 {i d a b f} (h : Canon s) : OnNext (fbin32 i d a b f s) := h.fp32Word

theorem Canon.fun32 {i d a f} (h : Canon s) : OnNext (fun32 i d a f s) := h.fp32Word

theorem Canon.fbin64 {i d a b f} (h : Canon s) : OnNext (fbin64 i d a b f s) := h.fp64Word

theorem Canon.fcmp32 {i d a b f} (h : Canon s) : OnNext (fcmp32 i d a b f s) := h.fpCmp

theorem Canon.fcmp64 {i d a b f} (h : Canon s) : OnNext (fcmp64 i d a b f s) := h.fpCmp

/-! ### The operations of Machine/Shadow -/

theorem Canon.execShbegin {vbase n} (h : Canon s) : OnNext (execShbegin vbase n s) := by
  unfold Machine.execShbegin
  refine h.gangWord fun c => ?_
  split
  · exact .trap
  · split
    · exact .trap
    · exact .done h.put

theorem Canon.execAccept {d a b natural} (h : Canon s) : OnNext (execAccept d a b natural s) := by
  unfold Machine.execAccept
  refine h.gangWord fun c => ?_
  split
  · split
    · exact .trap
    · exact .done h.put
  · exact .trap

theorem Canon.execShabort (h : Canon s) : OnNext (execShabort s) := by
  unfold Machine.execShabort
  refine h.gangWord fun c => ?_
  split
  · exact .trap
  · exact .done h.put

theorem Canon.execShread {d a} (h : Canon s) : OnNext (execShread d a s) := by
  unfold Machine.execShread
  refine h.gangWord fun c => ?_
  split
  · exact .trap
  · split
    · exact .trap
    · split
      · exact .trap
      · extract_lets j
        split
        · exact .done h.put
        · exact .trap

theorem Canon.execAccrd {d} (h : Canon s) : OnNext (execAccrd d s) := h.laneWord

theorem Canon.execAccclr (h : Canon s) : OnNext (execAccclr s) := h.gangWord fun _ => .done h.put

/-! ### The operations of Machine/Privileged -/

theorem Canon.storeImage {c va bs} (h : Canon s) : OnFate (s.storeImage c va bs) := by
  unfold State.storeImage
  split
  · exact .trap
  · next e => exact .done (h.vwrite.of_ok e).countRange.dropL1.dropLatch

theorem Canon.execXsave {a} (h : Canon s) : OnNext (execXsave a s) := by
  unfold Machine.execXsave
  refine h.gangWord fun c => ?_
  split
  · exact .trap
  · split
    · exact .trap
    · extract_lets va
      split
      · exact .trap
      · split
        · exact .wait h.hold
        · exact h.storeImage

theorem Canon.execXrstr {a} (h : Canon s) : OnNext (execXrstr a s) := by
  unfold Machine.execXrstr
  refine h.gangWord fun c => ?_
  split
  · exact .trap
  · split
    · exact .trap
    · extract_lets va
      split
      · exact .trap
      · split
        · exact .trap
        · split
          · exact .done h.countRange.put.dropLatch
          · exact .trap

theorem Canon.execSplrd {d a} (h : Canon s) : OnNext (execSplrd d a s) := by
  unfold Machine.execSplrd
  refine h.gangWord fun c => ?_
  split
  · exact .trap
  · split
    · exact .trap
    · extract_lets sel e₂ v
      split
      · exact .trap
      · exact .done h.put

theorem Canon.execSplwr {a b} (h : Canon s) : OnNext (execSplwr a b s) := by
  unfold Machine.execSplwr
  refine h.gangWord fun c => ?_
  split
  · exact .trap
  · split
    · exact .trap
    · extract_lets sel v item
      split
      · exact .trap
      · split
        · exact .trap
        · exact .done h.put.dropLatch

theorem Canon.execReplv {a} (h : Canon s) : OnNext (execReplv a s) := by
  unfold Machine.execReplv
  refine h.gangWord fun c => ?_
  split
  · exact .trap
  · split
    · exact .trap
    · split
      · exact .trap
      · split
        · exact .trap
        · extract_lets ls g left f' g1 whole g2
          split
          · exact .trap
          · exact .done h.put.dropLatch

theorem Canon.dropTlb {ctx va} (h : Canon s) : Canon (s.dropTlb ctx va) := h.foldl fun _ _ h => h.setDie

theorem Canon.execTlbinv {a b} (h : Canon s) : OnNext (execTlbinv a b s) := by
  unfold Machine.execTlbinv
  refine h.gangWord fun c => ?_
  split
  · exact .trap
  · extract_lets kind
    split
    · exact .trap
    · exact .done h.dropTlb.dropLatch

theorem Canon.execShsave {a} (h : Canon s) : OnNext (execShsave a s) := by
  unfold Machine.execShsave
  refine h.gangWord fun c => ?_
  split
  · exact .trap
  · split
    · exact .trap
    · extract_lets va state free gvb
      split
      · exact .trap
      · exact h.storeImage

theorem Canon.execShrstr {a} (h : Canon s) : OnNext (execShrstr a s) := by
  unfold Machine.execShrstr
  refine h.gangWord fun c => ?_
  split
  · exact .trap
  · split
    · exact .trap
    · extract_lets va n _
      split
      · exact .trap
      · split
        · exact .trap
        · split
          · exact .trap
          · split
            · exact .trap
            · exact .done h.countRange.put.dropLatch

theorem Canon.execMstore {a b} (h : Canon s) : OnNext (execMstore a b s) := by
  unfold Machine.execMstore
  refine h.gangWord fun c => ?_
  split
  · exact .trap
  · extract_lets va r f n core
    split
    · exact .trap
    · split
      · exact .trap
      · split
        · exact .trap
        · split
          · exact .trap
          · exact .done h.countRange.setCore.dropLatch

/-! ### The operations of Machine/Access -/

theorem Canon.recordFaults {g access ps} (h : Canon s) : Canon (s.recordFaults g access ps).1 := h.foldl fun _ _ h => h.faultRecord.nextSeq

theorem Canon.translateParts {g k ps} (h : Canon s) : Canon (s.translateParts g k ps).1 := by
  unfold State.translateParts
  extract_lets s₁ ps1
  split
  · exact h.foldl fun _ _ h => h.fillTlb
  · exact (h.foldl fun _ _ h => h.fillTlb).recordFaults

theorem Canon.foundBad {sock a} (h : Canon s) : Canon (s.foundBad sock a) := by
  unfold State.foundBad
  extract_lets line owner s₁
  have h₁ : Canon s₁ := wf_wipe h _ _
  split
  · exact h₁.errlog.endContext
  · exact h₁.errlog

theorem Canon.dropLine {core k} (h : Canon s) : Canon (s.dropLine core k) := by
  unfold State.dropLine
  extract_lets c s₁
  split
  · exact h.staled
  · exact h.staled.setCore

theorem Canon.performDirect {core ctx a p} (h : Canon s) : Canon (s.performDirect core ctx a p).1 := by
  unfold State.performDirect
  extract_lets k sock t r mem
  split
  · exact h.dropLine.foundBad
  · split
    · exact h.dropLine
    · have hr : r.1.wf = true := wf_perform h.dropLine _ _ _
      refine Canon.stored (m := mem) ?_
      unfold mem
      split
      · exact wf_own hr _ _
      · exact hr

theorem Canon.inject {k own p} (h : Canon s) : Canon (s.inject k own p) := by
  unfold State.inject
  repeat' split
  all_goals exact h.push

theorem Canon.countParts {die ps} (h : Canon s) : Canon (s.countParts die ps) := h.foldl fun _ _ h => h.countAt

theorem Canon.settle {op} (h : Canon s) : Canon (s.settle op) := by
  unfold State.settle
  split
  · exact h
  · split
    · exact h.push
    · exact h

theorem Canon.sendGroup {op g a ps} (h : Canon s) : Canon (s.sendGroup op g a ps).1 := by
  unfold State.sendGroup
  split
  · exact h
  · split
    · extract_lets t
      show Canon _
      split
      · exact h
      · exact h.errlog
    · split
      · exact h
      · extract_lets sent own
        split
        · exact h.kick
        · exact h.foldl fun _ _ h => h.inject

theorem Canon.sendReady {op} (h : Canon s) : Canon (s.sendReady op) := by
  unfold State.sendReady
  split
  · exact h
  · next x _ _ =>
      split
      · extract_lets ps out r _
        have hr : Canon r.1 := by
          unfold r
          split
          · refine Canon.foldl_fst h fun x p h' => ?_
            split
            · exact h'
            · exact h'.performDirect
          · refine Canon.foldl_fst h.countParts fun x k h' => ?_
            exact h'.sendGroup
        split
        · exact hr
        · refine Canon.settle ?_
          split <;> exact hr
      · exact h

theorem Canon.sendAll {core} (h : Canon s) : Canon (s.sendAll core) := by
  unfold State.sendAll
  refine h.foldl fun t x h' => ?_
  split
  · exact h'.sendReady
  · exact h'

theorem Canon.issueAccess {c ctr a} (h : Canon s) : OnFate (s.issueAccess c ctr a) := by
  unfold State.issueAccess
  split
  · exact .wait h.hold
  · extract_lets op g _ s₁ r a1 src
    have hr : Canon r.1 := by
      unfold r
      split
      · exact h.frame.translateParts
      · exact h
    exact .done hr.frame.sendReady

theorem Canon.finish {op f g fs} (h : Canon s) : Canon (s.finish op f g fs) := h

theorem Canon.execAccessComplete {op} (h : Canon s) : OnNext (execAccessComplete op s) := by
  unfold Machine.execAccessComplete
  split
  · exact .next h
  · split
    · exact .next h
    · split
      · exact .next h
      · split
        · exact .next h.finish.sendAll
        · exact .next h.finish
        · exact .next h.finish
        · exact .next h

/-! ### The operations of Machine/Local -/

theorem Canon.teamWord {i ctr checks mk} (h : Canon s) : OnNext (teamWord i ctr checks mk s) := by
  unfold Machine.teamWord
  refine h.gangWord fun c => ?_
  extract_lets a
  split
  · exact .trap
  · exact h.issueAccess

theorem Canon.execLdt {d a ctr size} (h : Canon s) : OnNext (execLdt d a ctr size s) := by
  unfold Machine.execLdt
  exact h.teamWord

theorem Canon.execStt {d a ctr size} (h : Canon s) : OnNext (execStt d a ctr size s) := by
  unfold Machine.execStt
  exact h.teamWord

theorem Canon.execAtomt {d a b wide op ctr} (h : Canon s) : OnNext (execAtomt d a b wide op ctr s) := by
  unfold Machine.execAtomt
  exact h.teamWord

theorem Canon.execRingrot {d a b logs logn ctr} (h : Canon s) : OnNext (execRingrot d a b logs logn ctr s) := h.teamWord

theorem Canon.execLdsp {d a ctr size} (h : Canon s) : OnNext (execLdsp d a ctr size s) := by
  unfold Machine.execLdsp
  extract_lets n
  refine h.gangWord fun c => ?_
  split
  · exact .trap
  · exact h.issueAccess

theorem Canon.execStsp {d a ctr size} (h : Canon s) : OnNext (execStsp d a ctr size s) := by
  unfold Machine.execStsp
  extract_lets n
  refine h.gangWord fun c => ?_
  split
  · exact .trap
  · exact h.issueAccess

theorem Canon.execLdp {d a ctr size} (h : Canon s) : OnNext (execLdp d a ctr size s) := by
  unfold Machine.execLdp
  extract_lets n
  refine h.gangWord fun c => ?_
  split
  · exact .trap
  · exact h.issueAccess

theorem Canon.execStp {d a ctr size} (h : Canon s) : OnNext (execStp d a ctr size s) := by
  unfold Machine.execStp
  extract_lets n
  refine h.gangWord fun c => ?_
  split
  · exact .trap
  · exact h.issueAccess

theorem Canon.barrierAccess {i d a ctr k} (h : Canon s) : OnNext (barrierAccess i d a ctr k s) := by
  unfold Machine.barrierAccess
  refine h.gangWord fun c => ?_
  split
  · exact .trap
  · exact h.issueAccess

theorem Canon.execMbinit {d a ctr} (h : Canon s) : OnNext (execMbinit d a ctr s) := h.barrierAccess

theorem Canon.execMbarv {d a ctr} (h : Canon s) : OnNext (execMbarv d a ctr s) := h.barrierAccess

theorem Canon.execMbwait {d a} (h : Canon s) : OnNext (execMbwait d a s) := by
  unfold Machine.execMbwait
  refine h.gangWord fun c => ?_
  split
  · exact .trap
  · split
    · exact .trap
    · extract_lets va w k p w1
      split
      · split
        · exact .wait h.hold
        · split
          · exact .went h.foundBad.raise
          · split
            · exact .wait h.hold
            · exact .done h.dropL1.dropLatch
      · split
        · exact .wait h.hold
        · split
          · exact .went h.foundBad.raise
          · split
            · exact .wait h.hold
            · exact .done h.dropL1.dropLatch

/-! ### The operations of Machine/Global -/

theorem Canon.globalWord {i k read write d a ctr gx off n len data cmp} (h : Canon s) :
    OnNext (globalWord i k read write d a ctr gx off n len data cmp s) := by
  unfold Machine.globalWord
  refine h.gangWord fun c => ?_
  extract_lets va
  split
  · exact .trap
  · exact h.issueAccess

theorem Canon.execLdg {d a ctr size gx} (h : Canon s) : OnNext (execLdg d a ctr size gx s) := by
  unfold Machine.execLdg
  exact h.globalWord

theorem Canon.execStg {d a ctr size gx} (h : Canon s) : OnNext (execStg d a ctr size gx s) := by
  unfold Machine.execStg
  exact h.globalWord

theorem Canon.execAtomg {d a ctr size gx} (h : Canon s) : OnNext (execAtomg d a ctr size gx s) := by
  unfold Machine.execAtomg
  exact h.globalWord

theorem Canon.execFaddg {d a ctr size gx} (h : Canon s) : OnNext (execFaddg d a ctr size gx s) := by
  unfold Machine.execFaddg
  exact h.globalWord

theorem Canon.execCasg {d a ctr size gx} (h : Canon s) : OnNext (execCasg d a ctr size gx s) := by
  unfold Machine.execCasg
  exact h.globalWord

theorem Canon.execPrefg {a ctr size gx} (h : Canon s) : OnNext (execPrefg a ctr size gx s) := by
  unfold Machine.execPrefg
  refine h.gangWord fun c => ?_
  split
  · exact .trap
  · exact h.issueAccess

theorem Canon.execAcq {d a ctr gx} (h : Canon s) : OnNext (execAcq d a ctr gx s) := h.globalWord

theorem Canon.execRel {d a ctr gx} (h : Canon s) : OnNext (execRel d a ctr gx s) := h.globalWord

/-! ### The operations of Machine/Sync -/

theorem Canon.execBseal {d} (h : Canon s) : OnNext (execBseal d s) := by
  unfold Machine.execBseal
  refine h.gangWord fun c => ?_
  split
  · exact .trap
  · exact .done h.put

theorem Canon.execBwait {d imm} (h : Canon s) : OnNext (execBwait d imm s) := by
  unfold Machine.execBwait
  refine h.gangWord fun c => ?_
  split
  · exact .trap
  · extract_lets n ahead _ g
    split
    · exact .trap
    · split
      · exact .wait h.hold
      · exact .done h.put.dropL1

theorem Canon.execFence {scope} (h : Canon s) : OnNext (execFence scope s) := by
  unfold Machine.execFence
  refine h.gangWord fun c => ?_
  split
  · exact .wait h.hold
  · refine .done ?_
    refine Canon.dropLatch ?_
    split
    · exact h
    · exact h.dropL1

theorem Canon.execBind {d a b scope} (h : Canon s) : OnNext (execBind d a b scope s) := by
  unfold Machine.execBind
  refine h.gangWord fun c => ?_
  extract_lets q sync x lo hi
  split
  · exact .trap
  · split
    exact .done h.setCtx.put

theorem Canon.execUnbind {a} (h : Canon s) : OnNext (execUnbind a s) := by
  unfold Machine.execUnbind
  refine h.gangWord fun c => ?_
  split
  · exact .trap
  · exact .done h.setCtx.dropLatch

theorem Canon.execSignal {a b} (h : Canon s) : OnNext (execSignal a b s) := by
  unfold Machine.execSignal
  refine h.gangWord fun c => ?_
  split
  · exact .trap
  · extract_lets va p a1 q r
    split
    · exact .trap
    · split
      · exact .wait h.hold
      · split
        · split
          · exact .wait h.translateParts.hold
          · split
            · next e₅ => exact .done (h.translateParts.signalSub.of_ok e₅).countRange.dropLine.dropLatch
            · exact .went h.translateParts.failedSignal.raise
        · exact .done h.translateParts

theorem Canon.translatePlain {g p} (h : Canon s) : Canon (s.translatePlain g p).1 := by
  unfold State.translatePlain
  extract_lets s₁
  split
  · next e => exact h.fillTlb.recordFaults.of_pair e
  · next e₁ => exact h.fillTlb.recordFaults.of_pair e₁

theorem Canon.setJob {op f j} (h : Canon s) : Canon (s.setJob op f j) := h

theorem Canon.sendTokenRequest {op die ctx region ex} (h : Canon s) : Canon (s.sendTokenRequest op die ctx region ex) := h

theorem Canon.askToken {op} (h : Canon s) : Canon (s.askToken op) := by
  unfold State.askToken
  split
  · exact h
  · split
    · split
      · exact h
      · extract_lets status region send pkg
        have hstatus {t v} (h : Canon t) : Canon (status t v) := h.setJob.settle
        have hsend : Canon (send s) := h.setJob.sendTokenRequest
        split
        · exact hstatus h
        · split
          · split
            · exact hstatus h
            · exact hsend
          · split
            · exact hsend
            · split
              · exact hstatus h
              · exact hstatus h.frame
    · exact h

theorem Canon.execTokacq {d a ex ctr} (h : Canon s) : OnNext (execTokacq d a ex ctr s) := by
  unfold Machine.execTokacq
  refine h.gangWord fun c => ?_
  extract_lets va n op _ s₁ r src
  have hsrc : Canon src := h.frame.translatePlain
  split
  · exact .trap
  · split
    · exact .wait h.hold
    · exact .done hsrc.frame.askToken

theorem Canon.execTokrel {d a} (h : Canon s) : OnNext (execTokrel d a s) := by
  unfold Machine.execTokrel
  refine h.gangWord fun c => ?_
  extract_lets va status
  have hstatus {t v} (h : Canon t) : OnFate (status t v) := .done h.put
  split
  · exact .trap
  · split
    · split
      · exact .wait h
      · exact hstatus h
    · exact hstatus h
    · extract_lets held v t
      split
      · exact .wait h.releaseToken.hold
      · exact hstatus h.releaseToken

theorem Canon.execTokqry {d a} (h : Canon s) : OnNext (execTokqry d a s) := by
  unfold Machine.execTokqry
  refine h.gangWord fun c => ?_
  extract_lets va v
  split
  · exact .trap
  · exact .done h.put

theorem Canon.enterStart {op} (h : Canon s) : Canon (s.enterStart op) := by
  unfold State.enterStart
  split
  · exact h
  · split
    · extract_lets b pte start
      split
      · exact h
      · split
        · exact h.setJob.settle
        · split
          · exact h
          · exact h.setBase.setJob.push
    · exact h

theorem Canon.execColl {d a b sock ctr} (h : Canon s) : OnNext (execColl d a b sock ctr s) := by
  unfold Machine.execColl
  refine h.gangWord fun c => ?_
  extract_lets va entry n e op _ s₁ r src
  have hsrc : Canon src := h.frame.translateParts
  split
  · exact .trap
  · split
    · exact .wait h.hold
    · split
      · exact .done hsrc.frame.enterStart
      · exact .done h.frame.translateParts

/-! ### The operations of Machine/Attar -/

theorem Canon.setACtx {sock k x} (h : Canon s) : Canon (s.setACtx sock k x) := h

theorem Canon.attarSignal {x status} (h : Canon s) : Canon (s.attarSignal x status) := by
  unfold State.attarSignal
  split
  · exact h
  · split
    · exact h.setJob.settle
    · exact h

theorem Canon.attarTrap {sock k code cause} (h : Canon s) : Canon (s.attarTrap sock k code cause) := by
  unfold State.attarTrap
  split
  · exact h
  · extract_lets status s₁ s₂ s₃
    have h₁ : Canon s₁ := by
      unfold s₁
      split
      · exact h
      · exact h.attarSignal
    exact h₁.errlog.trace.endProgram

theorem Canon.attarWord {i body} (h : Canon s) (hb : ∀ t, OnAFate (body t)) : OnNext (attarWord i s body) := by
  unfold Machine.attarWord
  split
  · exact .fault
  · next t _ =>
    split
    · exact .next h.attarTrap
    · split
      · next e => exact .next ((hb t).of_done e).setACtx
      · next e => exact .next ((hb t).of_wait e).setACtx
      · split
        · exact .next h.attarTrap
        · exact .next h.setACtx
      · exact .next h.attarTrap
      · next e =>
        refine .next ?_
        split
        · exact (hb t).of_failed e
        · exact ((hb t).of_failed e).attarTrap
      · next e => exact .next ((hb t).of_ended e)

theorem Canon.attarReg {i f} (h : Canon s) : OnNext (attarReg i s f) := h.attarWord fun _ => .done h

theorem Canon.execCmovi {xd sh imm} (h : Canon s) : OnNext (execCmovi xd sh imm s) := h.attarReg

theorem Canon.execCaddi {xd xa imm} (h : Canon s) : OnNext (execCaddi xd xa imm s) := h.attarReg

theorem Canon.execCadd {xd xa xb} (h : Canon s) : OnNext (execCadd xd xa xb s) := h.attarReg

theorem Canon.attarLoad {x va n} (h : Canon s) : OnOk (fun r => Canon r.1) (s.attarLoad x va n) := by
  unfold State.attarLoad
  split
  · exact .error
  · extract_lets s₁
    split
    · exact .error
    · exact .ok h.fillTlb

theorem Canon.attarStore {x va bs} (h : Canon s) : OnOk Canon (s.attarStore x va bs) := by
  unfold State.attarStore
  split
  · exact .error
  · exact h.fillTlb.vwrite

theorem Canon.attarFailed {x va n e} (h : Canon s) : OnAFate (s.attarFailed x va n e) := .failed h.failedAt

theorem Canon.execCld {xd xa imm} (h : Canon s) : OnNext (execCld xd xa imm s) := by
  unfold Machine.execCld
  refine h.attarWord fun t => ?_
  extract_lets va
  split
  · exact h.attarFailed
  · next e => exact .done (h.attarLoad.of_ok e)

theorem Canon.execCst {xa xb imm} (h : Canon s) : OnNext (execCst xa xb imm s) := by
  unfold Machine.execCst
  refine h.attarWord fun t => ?_
  extract_lets va
  split
  · exact h.attarFailed
  · next e => exact .done (h.attarStore.of_ok e)

theorem Canon.execCldl {ld xa imm} (h : Canon s) : OnNext (execCldl ld xa imm s) := by
  unfold Machine.execCldl
  refine h.attarWord fun t => ?_
  extract_lets va
  split
  · exact h.attarFailed
  · next e => exact .done (h.attarLoad.of_ok e)

theorem Canon.execCstl {xa lb imm} (h : Canon s) : OnNext (execCstl xa lb imm s) := by
  unfold Machine.execCstl
  refine h.attarWord fun t => ?_
  extract_lets va
  split
  · exact h.attarFailed
  · next e => exact .done (h.attarStore.of_ok e)

theorem Canon.execCvop {ld la lb k} (h : Canon s) : OnNext (execCvop ld la lb k s) := by
  unfold Machine.execCvop
  refine h.attarWord fun t => ?_
  split
  · exact .trap
  · exact .done h

theorem Canon.execCopen {xd xa xb k base} (h : Canon s) : OnNext (execCopen xd xa xb k base s) := by
  unfold Machine.execCopen
  refine h.attarWord fun t => ?_
  extract_lets e slot
  split
  · exact .trap
  · split
    · exact .done h
    · exact .done h.setBase

theorem Canon.attarSend {sock k x since message dest line xd} (h : Canon s) : Canon (s.attarSend sock k x since message dest line xd) := h

theorem Canon.execCcont {xd xa lb} (h : Canon s) : OnNext (execCcont xd xa lb s) := by
  unfold Machine.execCcont
  refine h.attarWord fun t => ?_
  extract_lets dest
  split
  · exact .trap
  · exact .ended h.attarSend

theorem Canon.execCsend {xd xa lb} (h : Canon s) : OnNext (execCsend xd xa lb s) := by
  unfold Machine.execCsend
  refine h.attarWord fun t => ?_
  extract_lets dest
  split
  · exact .trap
  · exact .ended h.attarSend

theorem Canon.execContributionRetry {sock ctx} (h : Canon s) : OnNext (execContributionRetry sock ctx s) := by
  unfold Machine.execContributionRetry
  split
  · exact .next h
  · split
    · split
      · exact .next h.setACtx
      · exact .next h.attarSend
    · exact .next h

theorem Canon.attarReplied {sock p} (h : Canon s) : Canon (s.attarReplied sock p) := by
  unfold State.attarReplied
  extract_lets mine
  clear_value mine
  split
  · exact h
  · split
    · split
      · split
        · exact h.setACtx
        · exact h.attarTrap
      · split <;> exact h.setACtx
    · exact h

theorem Canon.execCwait {xd xa} (h : Canon s) : OnNext (execCwait xd xa s) := by
  unfold Machine.execCwait
  refine h.attarWord fun t => ?_
  split
  · exact .trap
  · split
    · exact .done h
    · exact .wait h

theorem Canon.execCres {ld xa} (h : Canon s) : OnNext (execCres ld xa s) := by
  unfold Machine.execCres
  refine h.attarWord fun t => ?_
  split
  · exact .trap
  · split
    · exact .done h
    · exact .trap

theorem Canon.execCstat {xd xa which} (h : Canon s) : OnNext (execCstat xd xa which s) := by
  unfold Machine.execCstat
  refine h.attarWord fun t => ?_
  split
  · exact .done h
  · split
    · exact .done h
    · split
      · exact .trap
      · split
        · exact .trap
        · exact .done h

theorem Canon.execCfree {xa} (h : Canon s) : OnNext (execCfree xa s) := by
  unfold Machine.execCfree
  refine h.attarWord fun t => ?_
  split
  · exact .trap
  · exact .done h.setBase

theorem Canon.execCrecv {ld xa xb} (h : Canon s) : OnNext (execCrecv ld xa xb s) := by
  unfold Machine.execCrecv
  refine h.attarWord fun t => ?_
  extract_lets b tag _
  split
  · exact .trap
  · split
    · exact .done h.setBase
    · exact .wait h

theorem Canon.execCbz {xa disp} (h : Canon s) : OnNext (execCbz xa disp s) := by
  unfold Machine.execCbz
  refine h.attarWord fun t => ?_
  split
  · exact .jump
  · exact .done h

theorem Canon.execCbnz {xa disp} (h : Canon s) : OnNext (execCbnz xa disp s) := by
  unfold Machine.execCbnz
  refine h.attarWord fun t => ?_
  split
  · exact .done h
  · exact .jump

theorem Canon.execCbra {disp} (h : Canon s) : OnNext (execCbra disp s) := h.attarWord fun _ => .jump

theorem Canon.execCsig {xa} (h : Canon s) : OnNext (execCsig xa s) := by
  unfold Machine.execCsig
  refine h.attarWord fun t => ?_
  split
  · exact .trap
  · exact .done h.attarSignal

theorem Canon.execCend (h : Canon s) : OnNext (execCend s) := by
  unfold Machine.execCend
  refine h.attarWord fun t => ?_
  extract_lets status s₁
  have h₁ : Canon s₁ := by
    unfold s₁
    split
    · exact h
    · exact h.attarSignal
  exact .ended h₁.endProgram

theorem Canon.enterStarts {sock} (h : Canon s) : Canon (s.enterStarts sock) := by
  unfold State.enterStarts
  refine h.foldl fun t x h' => ?_
  split
  · split
    · exact h'.enterStart
    · exact h'
  · exact h'

theorem Canon.execAttarStart {sock} (h : Canon s) : OnNext (execAttarStart sock s) := by
  unfold Machine.execAttarStart
  extract_lets b t
  split
  · extract_lets core line x2 s₁ s₂
    clear_value line
    split
    · exact .next h.setBase.enterStarts
    · refine .next ?_
      split
      · exact h
      · exact h.setBase.enterStarts.attarTrap
  · exact .next h

theorem Canon.attarReply {sock m status} (h : Canon s) : Canon (s.attarReply sock m status) := by
  unfold State.attarReply
  split
  · exact h
  · exact h.push

theorem Canon.dropContribution {sock m e} (h : Canon s) : Canon (s.dropContribution sock m e) := h.setBase.trace.attarReply

theorem Canon.execContributionAccept {sock m} (h : Canon s) : OnNext (execContributionAccept sock m s) := by
  unfold Machine.execContributionAccept
  extract_lets b
  split
  · exact .next h.attarReply
  · split
    · exact .next h.attarReply
    · split
      · exact .next h.attarReply
      · split
        · exact .next h.dropContribution
        · exact .next h.setBase.attarReply

theorem Canon.execSlotDeadline {sock slot} (h : Canon s) : OnNext (execSlotDeadline sock slot s) := by
  unfold Machine.execSlotDeadline
  extract_lets b
  split
  · exact .next h
  · split
    · exact .next h.setBase
    · exact .next h

theorem Canon.execMessageStore {sock m} (h : Canon s) : OnNext (execMessageStore sock m s) := by
  unfold Machine.execMessageStore
  extract_lets b
  split
  · exact .next h.attarReply
  · split
    · exact .next h.attarReply
    · split
      · exact .next h.setACtx.attarReply
      · exact .next h.setBase.attarReply

theorem Canon.execMessageExpiry {sock} (h : Canon s) : OnNext (execMessageExpiry sock s) := by
  unfold Machine.execMessageExpiry
  extract_lets b
  split
  · exact .next h
  · split
    · exact .next h.setBase
    · exact .next h

theorem Canon.execCrecvTimeout {sock ctx} (h : Canon s) : OnNext (execCrecvTimeout sock ctx s) := by
  unfold Machine.execCrecvTimeout
  split
  · exact .next h
  · split
    · split
      · exact .next h.setACtx
      · exact .next h
    · exact .next h

/-! ### The operations of Machine/Fabric -/

theorem Canon.enqueue {r out inPort p} (h : Canon s) : Canon (s.enqueue r out inPort p) := by
  unfold State.enqueue
  extract_lets b q chan plain
  repeat' split
  all_goals exact h.setBase

theorem Canon.ingressDrop {r port p} (h : Canon s) : Canon (s.ingressDrop r port p) := h.setBase.errlog.trace

theorem Canon.bindParts {op f a ps} (h : Canon s) : Canon (s.bindParts op f a ps) := by
  unfold State.bindParts
  extract_lets fresh early s₁ s₂
  have h₂ : Canon s₂ := by
    unfold s₂
    split
    · exact h.frame.dropL1
    · exact h
  split
  · exact h₂
  · exact h₂.setGang

theorem Canon.answerParts {op f a p g} (h : Canon s) : Canon (s.answerParts op f a p g) := h.bindParts

theorem Canon.fillPeer {op f a line bytes tag} (h : Canon s) : Canon (s.fillPeer op f a line bytes tag) := by
  unfold State.fillPeer
  extract_lets held mine mem _ t ps
  split
  · exact h.translateParts.frame.sendReady
  · have hm : mem.wf = true := by
      unfold mem
      split
      · exact wf_write h _ _
      · exact h
    have ht : Canon t := .stored (wf_write hm _ _)
    exact ht.frame.sendReady

theorem Canon.sealedStep {op line} (h : Canon s) : Canon (s.sealedStep op line) := by
  unfold State.sealedStep
  split
  · exact h
  · split
    · extract_lets mine pa finish failed whole _
      have hfinish {t new} (h : Canon t) : Canon (finish t new) := h.dropLine.bindParts.settle.sendAll
      have hfailed {e} : Canon (failed s e) := hfinish h
      clear_value mine
      split
      · exact h
      · split
        · exact hfailed
        · extract_lets asks old
          split
          · split
            · split
              · exact h
              · exact hfailed
            · split
              · exact h.fillPeer.settle
              · exact hfinish h
          · split
            · exact hfailed
            · next e =>
              split
              · exact h.sealAway.of_ok e
              · exact hfinish (h.sealAway.of_ok e)
    · exact h

theorem Canon.replyL1 {core a p} (h : Canon s) : Canon (s.replyL1 core a p) := by
  unfold State.replyL1
  extract_lets mine c
  clear_value mine
  split
  · exact h
  · extract_lets k had put barred
    have hput {l} : Canon (put l) := h.setCore
    clear_value had
    split
    · split
      · exact h
      · split
        · exact h
        · exact hput
    · split
      · exact h
      · split
        · exact hput
        · exact h.setCore

theorem Canon.granted {p} (h : Canon s) : Canon (s.granted p) := by
  unfold State.granted
  extract_lets region t ex mine ctxs more _ s₁
  have h₁ : Canon s₁ := h.frame.enterReplicas
  clear_value mine
  split
  · split
    · exact h₁.returnToken
    · exact h₁
  · split
    · exact h₁.setJob.settle
    · exact h₁

theorem Canon.resume {owner part} (h : Canon s) : Canon (s.resume owner part) := by
  unfold State.resume
  split
  · exact h.push
  · exact h
  · exact h.finishRegion
  · exact h

theorem Canon.answerAsk {tag x p} (h : Canon s) : Canon (s.answerAsk tag x p) := by
  unfold State.answerAsk
  extract_lets a s₁ s₂
  have h₂ : Canon s₂ := by
    unfold s₂
    split
    · exact h
    · exact h.frame.forgetLine
  split
  · exact h₂
  · exact h₂.resume

theorem Canon.deliverReply {p} (h : Canon s) : Canon (s.deliverReply p) := by
  unfold State.deliverReply
  extract_lets op outside line
  split
  · exact h.answerAsk
  · split
    · split
      · exact h.granted
      · exact h
    · split
      · split
        · exact h.setJob.settle
        · exact h.granted
      · extract_lets hit fill s₁ s₂ f1 s₃
        have h₂ : Canon s₂ := by
          unfold s₂
          split
          · exact h.replyL1.forgetLine
          · exact h.replyL1
        have h₃ : Canon s₃ := by
          unfold s₃
          split
          · exact h₂.fillPeer
          · exact h₂.answerParts
        exact h₃.settle.sendAll
      · exact h

theorem Canon.copyGone {sock pkg region} (h : Canon s) : Canon (s.copyGone sock pkg region) := by
  unfold State.copyGone
  extract_lets b
  split
  · exact h
  · extract_lets e₂ s₁
    split
    · exact h.setBase.push
    · exact h.setBase

theorem Canon.deliverMail {p} (h : Canon s) : Canon (s.deliverMail p) := h

theorem Canon.deliverBase {r p} (h : Canon s) : Canon (s.deliverBase r p) := by
  unfold State.deliverBase
  extract_lets k m
  split
  · exact h.push
  · split
    · exact h.push
    · split
      · split
        · exact h.returnLines
        · exact h.push
      · split
        · split
          · exact h.copyGone
          · exact h.push
        · split
          · exact h.push
          · split
            · exact h.deliverMail
            · split
              · exact h.push
              · split
                · exact h.push
                · split
                  · exact h.answerAsk
                  · split
                    · exact h.attarReplied
                    · exact h

theorem Canon.depart {r out p} (h : Canon s) : Canon (s.depart r out p) := by
  unfold State.depart
  split
  · extract_lets p' b s₁ _ s₂
    have h₂ : Canon s₂ := by
      unfold s₂
      split
      · exact h
      · exact h.setBase
    split
    · exact h.push
    · exact h₂.emit
  · split
    · exact h.deliverBase
    · split
      · exact h.deliverReply
      · split
        · exact h.deliverMail
        · exact h.push

theorem Canon.failLeaves {r p leaves} (h : Canon s) : Canon (s.failLeaves r p leaves) :=
  (h.foldl fun _ _ h => (h.foldl fun _ _ h => h.setBase)).push

theorem Canon.echoLost {router p leaves} (h : Canon s) : Canon (s.echoLost router p leaves) := by
  unfold State.echoLost
  extract_lets s₁ b s₂
  have h₂ : Canon s₂ := by
    unfold s₂
    split
    · exact h.trace.setBase
    · exact h.trace
  exact h₂.failLeaves

theorem Canon.dropLock {p} (h : Canon s) : Canon (s.dropLock p) := by
  unfold State.dropLock
  split <;> exact h

theorem Canon.failRequest {r p code cause} (h : Canon s) : Canon (s.failRequest r p code cause) := h.dropLock.push

theorem Canon.failRecall {p code cause} (h : Canon s) : Canon (s.failRecall p code cause) := by
  unfold State.failRecall
  extract_lets home b
  split
  · exact h
  · extract_lets host s₁ _ s₂ lost
    have h₂ : Canon s₂ := by
      unfold s₂
      split
      · exact h.frame.emit
      · exact h.setBase
    exact h₂.foldl fun _ _ h => h.failRequest

theorem Canon.failReset {r p} (h : Canon s) : Canon (s.failReset r p) := by
  unfold State.failReset
  split
  · exact h.trace.failLeaves
  · split
    · exact h.answerAsk
    · exact h

theorem Canon.returnFailure {r p code cause} (h : Canon s) : Canon (s.returnFailure r p code cause) := by
  unfold State.returnFailure
  split
  · split
    · exact h
    · extract_lets q
      split
      · exact h.deliverReply
      · split
        · exact h.failReset
        · exact h.deliverBase
  · split
    · split
      · exact h.deliverBase
      · exact h.failRecall
    · split
      · split
        · exact h.replyWords
        · exact h
      · exact h.failRequest

theorem Canon.failPacket {r p code cause} (h : Canon s) : Canon (s.failPacket r p code cause) := by
  unfold State.failPacket
  extract_lets s₁
  have h₁ : Canon s₁ := by
    unfold s₁
    split
    · exact h.errlog
    · exact h
  exact h₁.returnFailure

theorem Canon.leafFailed {p} (h : Canon s) : OnSome Canon (s.leafFailed p) := by
  unfold State.leafFailed
  split
  · exact .none
  · extract_lets q left _ s₁
    split
    · exact .some h
    · refine .some ?_
      split
      · exact h.frame.setBase
      · exact h

theorem Canon.accept {p} (h : Canon s) : OnSome Canon (s.accept p) := by
  unfold State.accept
  split
  · exact .some h
  · split
    · exact h.leafFailed
    · exact .some h

theorem Canon.routePacket {router inPort p} (h : Canon s) : Canon (s.routePacket router inPort p) := by
  unfold State.routePacket
  split
  · exact h.enqueue
  · exact h.failPacket

theorem Canon.execRouterPacketArrive {router inPort p} (h : Canon s) : OnNext (execRouterPacketArrive router inPort p s) := by
  unfold Machine.execRouterPacketArrive
  extract_lets r
  split
  · exact .next h.errlog
  · split
    · split
      · exact .next h.ingressDrop
      · split
        · exact .next h
        · next e₃ => exact .next (h.accept.of_some e₃).routePacket
    · exact .next h.routePacket

theorem Canon.execOutputGrant {router out} (h : Canon s) : OnNext (execOutputGrant router out s) := by
  unfold Machine.execOutputGrant
  extract_lets b q hs
  split
  · exact .next h
  · split
    · exact .next h
    · exact .next h.setBase.depart

theorem Canon.execEchoReply {router p} (h : Canon s) : OnNext (execEchoReply router p s) := by
  unfold Machine.execEchoReply
  extract_lets b v leaves s₁
  split
  · exact .next h.setBase.push
  · exact .next h.echoLost

theorem Canon.execFailedReply {router p} (h : Canon s) : OnNext (execFailedReply router p s) := by
  unfold Machine.execFailedReply
  extract_lets b s₁
  split
  · exact .next h.setBase.push
  · refine .next ?_
    split
    · exact h.echoLost
    · exact h.failLeaves

theorem Canon.setLink {r port l} (h : Canon s) : Canon (s.setLink r port l) := h

theorem Canon.resend {r port} (h : Canon s) : Canon (s.resend r port) := by
  unfold State.resend
  split
  · exact h.foldl fun _ _ h => h.emit
  · exact h

theorem Canon.execLinkFlitReceive {router port flit crcOk} (h : Canon s) : OnNext (execLinkFlitReceive router port flit crcOk s) := by
  unfold Machine.execLinkFlitReceive
  extract_lets l l' l'1 s₁ l'2 s₂
  split
  · refine .next ?_
    split
    · exact h.setLink.resend
    · exact h.setLink
  · refine .next ?_
    split
    · exact h.setLink.resend
    · exact h.setLink.emit

theorem Canon.execLinkRetrain {router port} (h : Canon s) : OnNext (execLinkRetrain router port s) := by
  unfold Machine.execLinkRetrain
  extract_lets trained t
  have ht : Canon t := h.setLink
  refine .next ?_
  split
  · exact ht.setLink.resend.resend
  · exact ht.resend.emit

theorem Canon.takeBack {r port} (h : Canon s) : Canon (s.takeBack r port) := by
  unfold State.takeBack
  extract_lets b l ps q _ s₁
  split
  · exact h
  · exact h.frame.setBase

theorem Canon.execLinkDown {router port} (h : Canon s) : OnNext (execLinkDown router port s) := by
  unfold Machine.execLinkDown
  extract_lets _ s₁ s₂ s₃
  have h₂ : Canon s₂ := h.frame.takeBack
  have h₃ : Canon s₃ := by
    unfold s₃
    split
    · exact h₂.takeBack
    · exact h₂
  exact .next h₃.push

theorem Canon.reroute {r} (h : Canon s) : Canon (s.reroute r) := by
  unfold State.reroute
  refine h.foldl fun s out h' => ?_
  extract_lets b q
  split
  · exact h'
  · exact h'.setBase.push

theorem Canon.execRouteRecompute (h : Canon s) : OnNext (execRouteRecompute s) := .next (h.frame.foldl fun _ _ h => h.reroute)

theorem Canon.execResponseTimeout {tag} (h : Canon s) : OnNext (execResponseTimeout tag s) :=
  .next (h.frame.foldl fun _ _ h => h.returnFailure)

/-! ### The operations of Machine/Token -/

theorem Canon.sendRecall {sock region part kind holder} (h : Canon s) : Canon (s.sendRecall sock region part kind holder) := h

theorem Canon.setDir {sock region e} (h : Canon s) : Canon (s.setDir sock region e) := h

theorem Canon.holdRequest {sock region e pkg ex p owners} (h : Canon s) : Canon (s.holdRequest sock region e pkg ex p owners) :=
  h.setDir.foldl fun _ _ h => h.sendRecall

theorem Canon.askCopies {sock region e q holders} (h : Canon s) : Canon (s.askCopies sock region e q holders) :=
  h.setDir.foldl fun _ _ h => h.sendRecall

theorem Canon.sendGrant {sock p ex} (h : Canon s) : Canon (s.sendGrant sock p ex) := h

theorem Canon.execTokenAcquireRequest {sock p} (h : Canon s) : OnNext (execTokenAcquireRequest sock p s) := by
  unfold Machine.execTokenAcquireRequest
  extract_lets b region pkg ex b1
  split
  · split
    · split
      · exact .next h
      · exact .next h.holdRequest
    · exact .next h.setBase.sendGrant
  · extract_lets block e₂
    split
    · exact .next h.holdRequest
    · split
      · exact .next h.holdRequest
      · exact .next h.setBase.sendGrant

theorem Canon.execTokenRecall {call} (h : Canon s) : OnNext (execTokenRecall call s) := by
  unfold Machine.execTokenRecall
  extract_lets pending s₁ _
  refine .next ?_
  split
  · exact h.returnToken.frame
  · exact h.returnToken

theorem Canon.resumeRequests {sock ps} (h : Canon s) : Canon (s.resumeRequests sock ps) := h

theorem Canon.execRecallAck {sock pkg region} (h : Canon s) : OnNext (execRecallAck sock pkg region s) := by
  unfold Machine.execRecallAck
  extract_lets b
  split
  · exact .next h
  · extract_lets e₂
    split
    · exact .next h.setDir
    · extract_lets mine
      split
      · split
        · exact .next h.setDir
        · exact .next h.setDir.resumeRequests
      · split
        · exact .next h.setDir
        · exact .next h.setDir.resumeRequests

theorem Canon.endWriter {sock region} (h : Canon s) : Canon (s.endWriter sock region) := by
  unfold State.endWriter
  split
  · exact h
  · exact h.setDir.resumeRequests

/-! ### The operations of Machine/Copy -/

theorem Canon.copyFault {w va cause access level} (h : Canon s) : Canon (s.copyFault w va cause access level).1 := h.faultRecord.nextSeq

theorem Canon.copyWait {lat} (h : Canon s) : Canon (s.copyWait lat) := h.frame.sendAsks

theorem Canon.copyFailed {α : Type} {w lat va n e} (h : Canon s) : OnGot (s.copyFailed w lat va n e : Got α) := by
  unfold State.copyFailed
  split
  · exact .wait h.failedAt.copyWait
  · exact .fail h.failedAt

theorem Canon.copyLeaf {w k va n} (h : Canon s) : OnGot (s.copyLeaf w k va n) := by
  unfold State.copyLeaf
  split
  · exact .fail h
  · extract_lets s₁
    split
    · exact .held h.fillTlb.copyFault
    · split
      · exact .ok h.fillTlb
      · exact .fail h.fillTlb

theorem Canon.copyLeaves {w k ps} (h : Canon s) : OnGot (s.copyLeaves w k ps) := by
  induction ps generalizing s with
  | nil => exact .ok h
  | cons p t ih =>
    rw [State.copyLeaves]
    split
    · next e => exact ih (h.copyLeaf.of_ok e)
    · next e => exact .held (h.copyLeaf.of_held e)
    · next e => exact .wait (h.copyLeaf.of_wait e)
    · next e => exact .fail (h.copyLeaf.of_fail e)

theorem Canon.physFailed {α : Type} {w e pa x} (h : Canon s) : OnGot (s.physFailed w e pa x : Got α) := by
  refine .fail ?_
  split
  · exact h.strayLog
  · split
    · exact h.foundBad
    · exact h

theorem Canon.copyRead {w lat counted space addr n} (h : Canon s) : OnGot (s.copyRead w lat counted space addr n) := by
  unfold State.copyRead
  split
  · exact .fail h
  · split
    · next e₁ =>
        split
        · refine .ok ?_
          split
          · exact (h.copyLeaves.of_ok e₁).countRange
          · exact h.copyLeaves.of_ok e₁
        · exact (h.copyLeaves.of_ok e₁).copyFailed
    · next e₁ => exact .held (h.copyLeaves.of_held e₁)
    · next e₁ => exact .wait (h.copyLeaves.of_wait e₁)
    · next e₁ => exact .fail (h.copyLeaves.of_fail e₁)
  · split
    · exact .ok h
    · refine .fail ?_
      split
      · exact h.foundBad
      · exact h
  · extract_lets e₃ pa
    split
    · exact h.physFailed
    · split
      · exact .ok h
      · split
        · exact .wait h.frame.copyWait
        · exact h.physFailed

theorem Canon.storeLine {w e pa ws} (h : Canon s) : OnOk (fun r => Canon r.1) (s.storeLine w e pa ws) := by
  unfold State.storeLine
  extract_lets mask n _ ask refused away key r
  have hrefused {r} (hr : OnOk Canon r) : OnOk (fun r => Canon r.1) (refused r) := by
    cases hr with
    | ok hr => exact .ok hr
    | error =>
      unfold refused
      dsimp only
      split
      · exact .ok h
      · exact .error
  have haway : OnOk (fun r => Canon r.1) away := by
    unfold away
    split
    · exact hrefused h.askFor
    · split
      · exact .error
      · exact hrefused h.sealAway
  split
  · split
    · exact .error
    · split
      · exact .error
      · exact hrefused h.askFor
  · split
    · exact haway
    · split
      · exact haway
      · exact .error
      · split
        · exact .error
        · split
          · exact .ok (.stored (wf_storeOut h _ _ _))
          · extract_lets t
            refine .ok ?_
            dsimp only
            split
            · exact h.writeLine.frame
            · exact h.writeLine

theorem Canon.copyWrite {w lat o} (h : Canon s) : OnGot (s.copyWrite w lat o) := by
  unfold State.copyWrite
  extract_lets a va r
  split
  · split
    · next e =>
      have ht := h.copyLeaf.of_ok e
      split
      · exact ht.copyFailed
      · next e =>
        split
        · exact .wait (ht.storeLine.of_ok e).copyWait
        · exact .ok (ht.storeLine.of_ok e).countRange
    · next e => exact .held (h.copyLeaf.of_held e)
    · next e => exact .wait (h.copyLeaf.of_wait e)
    · next e => exact .fail (h.copyLeaf.of_fail e)
  · split
    · refine .fail ?_
      split
      · exact h.foundBad
      · exact h
    · exact .ok (.stored (wf_storeOut h _ _ _))
  · split
    · exact h.physFailed
    · next e =>
      split
      · exact .wait (h.storeLine.of_ok e).copyWait
      · exact .ok (h.storeLine.of_ok e)

theorem Canon.gatherMoves {w ms last j} (h : Canon s) : Canon (gatherMoves w ms last s j).1 := by
  induction ms generalizing s last j with
  | nil => rw [Machine.gatherMoves]; exact h
  | cons m t ih =>
    have put {bs last t' j} (h : Canon t') : Canon (gatherMoves.put w m bs t last t' j).1 := by
      rw [gatherMoves.put]
      split
      · exact ih h
      · split
        · exact h
        · exact ih h
    rw [Machine.gatherMoves]
    split
    · exact put h
    · split
      · next e => exact h.copyRead.of_held e
      · next e => exact h.copyRead.of_wait e
      · next e => exact h.copyRead.of_fail e
      · next e => exact put (h.copyRead.of_ok e).forgetAsks

theorem Canon.flushOut {w out j} (h : Canon s) : Canon (flushOut w out s j).1 := by
  induction out generalizing s j with
  | nil => exact h
  | cons o t ih =>
    rw [Machine.flushOut]
    split
    · next e => exact h.copyWrite.of_held e
    · next e => exact h.copyWrite.of_wait e
    · next e => exact h.copyWrite.of_fail e
    · next e => exact ih (h.copyWrite.of_ok e).forgetAsks

theorem Canon.rowStart {w j} (h : Canon s) : Canon (s.rowStart w j).1 := by
  unfold State.rowStart
  split
  · extract_lets k
    split
    · show Canon _
      split
      · exact h.foundBad
      · exact h
    · exact h
  · exact h

theorem Canon.gatherRows {f w j} (h : Canon s) : Canon (gatherRows f w s j).1 := by
  induction f generalizing s j with
  | zero => exact h
  | succ f ih =>
    rw [Machine.gatherRows]
    split
    · exact h
    · split
      · next e => exact h.rowStart.of_pair e
      · next e =>
        have hr := h.rowStart.of_pair e
        split
        · exact hr
        · split
          · next e => exact ih (hr.gatherMoves.of_pair e)
          · exact hr.gatherMoves

theorem Canon.goOn {w j} (h : Canon s) : Canon (goOn w s j).1 := by
  unfold Machine.goOn
  extract_lets r
  have hr : Canon r.1 := by
    unfold r
    split
    · exact h.gatherRows
    · exact h
  clear_value r
  split
  · exact hr.flushOut
  · exact hr.flushOut
  · exact hr

theorem Canon.runJob {w j} (h : Canon s) : Canon (runJob w s j).1 := by
  unfold Machine.runJob
  split
  · exact h.goOn
  · extract_lets k inside map
    split
    · show Canon _
      split
      · exact h.foundBad
      · exact h
    · split
      · exact h
      · split
        · exact h
        · exact h.goOn

theorem Canon.clearCounters {dst len} (h : Canon s) : Canon (s.clearCounters dst len) := by
  unfold State.clearCounters
  extract_lets page lo hi
  refine h.foldl fun s b h' => ?_
  extract_lets e
  split
  · exact h'
  · exact h'.setBase

theorem Canon.kickCopies {key} (h : Canon s) : Canon (s.kickCopies key) := by
  unfold State.kickCopies
  refine h.foldl fun t x h' => ?_
  split
  · split
    · exact h'.kick
    · exact h'
  · exact h'

theorem Canon.copyLand {op f j bs fs} (h : Canon s) : Canon (s.copyLand op f j bs fs) := by
  unfold State.copyLand
  split
  · exact h
  · exact h.finish.kickCopies

theorem Canon.copyEnd {op f j status} (h : Canon s) : Canon (s.copyEnd op f j status) := by
  unfold State.copyEnd
  extract_lets s₁ fs
  have h₁ : Canon s₁ := by
    unfold s₁
    split
    · exact h.clearCounters
    · exact h
  exact h₁.copyLand

theorem Canon.afterRun {op f r} (h : Canon r.1) : Canon (afterRun op f r) := by
  unfold Machine.afterRun
  split
  · exact h.copyEnd
  · exact h.setJob

/-! ### The operations of Machine/CopyWords -/

theorem Canon.copyWord {i op d a ctr sealed} (h : Canon s) : OnNext (copyWord i op d a ctr sealed s) := by
  unfold Machine.copyWord
  refine h.gangWord fun c => ?_
  extract_lets pair chain va n k bad j _ g op1 src s₁ s₂
  have h₂ : Canon s₂ := h.frame.push
  split
  · exact .trap
  · split
    · exact .wait h.hold
    · refine .done ?_
      split
      · exact h₂.foundBad
      · exact h₂

theorem Canon.execCopy {d a ctr sealed} (h : Canon s) : OnNext (execCopy d a ctr sealed s) := h.copyWord

theorem Canon.execCopyt {d a ctr sealed} (h : Canon s) : OnNext (execCopyt d a ctr sealed s) := h.copyWord

theorem Canon.execCopyg {d a ctr sealed} (h : Canon s) : OnNext (execCopyg d a ctr sealed s) := h.copyWord

theorem Canon.execCopys {d a ctr sealed} (h : Canon s) : OnNext (execCopys d a ctr sealed s) := h.copyWord

theorem Canon.execCopym {d a ctr sealed} (h : Canon s) : OnNext (execCopym d a ctr sealed s) := h.copyWord

theorem Canon.execCopyn {d a ctr sealed} (h : Canon s) : OnNext (execCopyn d a ctr sealed s) := h.copyWord

theorem Canon.execFill {d a ctr sealed} (h : Canon s) : OnNext (execFill d a ctr sealed s) := h.copyWord

theorem Canon.execChain {d a ctr sealed} (h : Canon s) : OnNext (execChain d a ctr sealed s) := h.copyWord

theorem Canon.execChstat {d a ctr sealed} (h : Canon s) : OnNext (execChstat d a ctr sealed s) := h.copyWord

theorem Canon.execChabort {d a ctr sealed} (h : Canon s) : OnNext (execChabort d a ctr sealed s) := h.copyWord

theorem Canon.execMigr {d a ctr sealed} (h : Canon s) : OnNext (execMigr d a ctr sealed s) := h.copyWord

theorem Canon.execCopyr {d a ctr sealed} (h : Canon s) : OnNext (execCopyr d a ctr sealed s) := h.copyWord

theorem Canon.setChan {die k c} (h : Canon s) : Canon (s.setChan die k c) := h

theorem Canon.chainStart {die ctx head packets} (h : Canon s) : Canon (s.chainStart die ctx head packets).1 := by
  unfold State.chainStart
  extract_lets k c c'
  split
  · exact h
  · split
    · exact h.setChan
    · exact h.setChan.push

theorem Canon.chainAbort {die k c} (h : Canon s) : Canon (s.chainAbort die k c) := by
  unfold State.chainAbort
  extract_lets s₁ s₂
  have h₂ : Canon s₂ := by
    unfold s₂
    split
    · exact h.abortRecord.walkRecord
    · exact h.abortRecord
  exact h₂.setChan

theorem Canon.multicast {op f g j} (h : Canon s) : Canon (s.multicast op f g j) := by
  unfold State.multicast
  extract_lets r _ j'
  split
  · exact h.runJob.setJob
  · split
    · exact h.runJob.copyEnd
    · exact h.runJob.setJob.push

theorem Canon.ackArrive {g ackw} (h : Canon s) : Canon (s.ackArrive g ackw).1 := by
  unfold State.ackArrive
  extract_lets w k mem
  split
  · exact h
  · have hm : mem.wf = true := wf_writeNat h _ _ _
    refine .stored (m := if w.1 then mem.own k (some g.ctx) else mem) ?_
    split
    · exact wf_own hm _ _
    · exact hm

theorem Canon.blockWrite {sock k bs} (h : Canon s) : Canon (s.blockWrite sock k bs).1 := by
  unfold State.blockWrite
  refine Canon.foldl_fst h fun r p hr => ?_
  split
  · exact hr
  · split
    · dsimp only
      split
      · exact hr.foundBad
      · exact hr
    · exact .stored (wf_writeSkip hr _ _)

theorem Canon.receive {core t j} (h : Canon s) : Canon (s.receive core t j).1 := h.blockWrite

theorem Canon.execCopymReceiverArrive {op rank} (h : Canon s) : OnNext (execCopymReceiverArrive op rank s) := by
  unfold Machine.execCopymReceiverArrive
  split
  · exact .next h
  · split
    · split
      · exact .next h
      · split
        · exact .next h
        · extract_lets core dest r a _ j1
          have hr : Canon r.1 := by
            unfold r
            clear_value dest
            split
            · exact h
            · split
              · exact h
              · exact h.receive
          split
          · exact .next hr.ackArrive.copyEnd
          · exact .next hr.ackArrive.setJob
    · exact .next h

theorem Canon.netSend {id m ks} (h : Canon s) : Canon (s.netSend id m ks) := h.foldl fun _ _ h => h.emit

theorem Canon.netStart {op f j e} (h : Canon s) : Canon (s.netStart op f j e) := h.frame.setJob.netSend

theorem Canon.netCopy {op f g j} (h : Canon s) : Canon (s.netCopy op f g j) := by
  unfold State.netCopy
  extract_lets w t
  have ht : Canon t := by
    unfold t
    split
    · exact h
    · exact h.countRange
  split
  · exact h.copyEnd
  · split
    · extract_lets u
      split
      · exact h.failedAt
      · exact h.failedAt.copyEnd
    · split
      · exact ht.copyEnd
      · split
        · exact ht.netStart
        · split
          · next e => exact (ht.runJob.of_pair e).netStart
          · exact ht.runJob.afterRun

theorem Canon.dropMsg {id} (h : Canon s) : Canon (s.dropMsg id) := h

theorem Canon.runFetch {op f g j} (h : Canon s) : Canon (s.runFetch op f g j) := by
  unfold State.runFetch
  extract_lets r all
  split
  · exact h.flushOut.dropMsg.copyEnd
  · exact h.flushOut.setJob

theorem Canon.netDrop (h : Canon s) : Canon (s.netDrop) := h

theorem Canon.netReply {m f g j pkt data} (h : Canon s) : Canon (s.netReply m f g j pkt data) := by
  unfold State.netReply
  extract_lets w n a fit out
  split
  · exact h
  · exact h.setJob.kick

theorem Canon.execNetAckReceive {msg pkt data} (h : Canon s) : OnNext (execNetAckReceive msg pkt data s) := by
  unfold Machine.execNetAckReceive
  split
  · exact .next h
  · split
    · exact .next h.netDrop
    · split
      · exact .next h
      · extract_lets m1 _ s₁
        split
        · exact .next h.frame.dropMsg
        · split
          · split
            · exact .next h.frame.netReply
            · extract_lets j1
              split
              · exact .next h.frame.dropMsg.copyEnd
              · exact .next h.frame.setJob
          · exact .next h

theorem Canon.netFail {msg m cause} (h : Canon s) : Canon (s.netFail msg m cause) := by
  unfold State.netFail
  extract_lets s₁
  split
  · exact h.dropMsg
  · split
    · extract_lets j1
      split
      · exact h.dropMsg.copyEnd
      · exact h.dropMsg.setJob.kick
    · exact h.dropMsg

theorem Canon.execNegativeAck {msg} (h : Canon s) : OnNext (execNegativeAck msg s) := by
  unfold Machine.execNegativeAck
  split
  · exact .next h
  · exact .next h.netFail

theorem Canon.execNetRetryTimeout {msg} (h : Canon s) : OnNext (execNetRetryTimeout msg s) := by
  unfold Machine.execNetRetryTimeout
  split
  · exact .next h
  · split
    · exact .next h
    · split
      · exact .next h.netFail
      · exact .next h.frame.netSend

theorem Canon.execCopyJobComplete {op} (h : Canon s) : OnNext (execCopyJobComplete op s) := by
  unfold Machine.execCopyJobComplete
  split
  · exact .next h
  · split
    · split
      · exact .next h
      · split
        · exact .next h.copyEnd
        · split
          · exact .next h.chainStart.copyEnd
          · split <;> exact .next h.copyLand
          · extract_lets k c
            split
            · exact .next h.copyEnd
            · split
              · exact .next h.copyEnd
              · exact .next h.chainAbort.copyEnd
          · split
            · exact .next h.multicast
            · exact .next h
          · split
            · exact .next h
            · exact .next h.netCopy
          · split
            · exact .next h.runFetch
            · exact .next h.netCopy
          · exact .next h.runJob.afterRun
    · exact .next h

theorem Canon.walkEnd {die k c status code} (h : Canon s) : Canon (s.walkEnd die k c status code) := h.walkRecord.setChan

theorem Canon.recordFailed {die ctx k c cause stat} (h : Canon s) : Canon (s.recordFailed die ctx k c cause stat) := by
  unfold State.recordFailed
  extract_lets s₁
  have h₁ : Canon s₁ := by
    unfold s₁
    split
    · exact h
    · next next =>
        split
        · next e => exact (h.vwrite.of_ok e).countRange
        · exact h.failedAt
  exact h₁.walkEnd

theorem Canon.walkStop {die k c atNext} (h : Canon s) : Canon (s.walkStop die k c atNext) := by
  unfold State.walkStop
  split
  · exact h.setChan.push
  · exact h.walkEnd

theorem Canon.recordEnd {die ctx k c j} (h : Canon s) : Canon (s.recordEnd die ctx k c j) := by
  unfold State.recordEnd
  extract_lets own next c1
  split
  · exact h.recordFailed
  · split
    · exact h.failedAt.recordFailed
    · next e₁ =>
        extract_lets s'1 s₂'
        have h₂' : Canon s₂' := by
          unfold s₂'
          split
          · exact (h.vwrite.of_ok e₁).countRange.irq
          · exact (h.vwrite.of_ok e₁).countRange
        split
        · exact h₂'.walkStop
        · exact h₂'.setChan.push

theorem Canon.recordRun {die ctx k c j} (h : Canon s) : Canon (s.recordRun die ctx k c j) := by
  unfold State.recordRun
  extract_lets r t
  split
  · exact h.runJob.setChan.push
  · exact h.runJob.setChan

theorem Canon.execChainRecordStep {die chan} (h : Canon s) : OnNext (execChainRecordStep die chan s) := by
  unfold Machine.execChainRecordStep
  extract_lets c
  split
  · exact .next h
  · next next _ =>
      split
      · exact .next h
      · split
        · split
          · exact .next h
          · split
            · exact .next h.recordEnd
            · exact .next h.recordRun
        · split
          · exact .next h.failedAt.recordFailed
          · split
            · exact .next h.failedAt.recordFailed
            · extract_lets s₁ next1
              split
              · split
                · exact .next h.countRange.walkStop
                · exact .next h.countRange.setChan.push
              · split
                · exact .next h.countRange.walkStop
                · split
                  · exact .next h.countRange.recordFailed
                  · exact .next h.countRange.recordRun

theorem Canon.netAck {p ok} (h : Canon s) : Canon (s.netAck p ok) := h

theorem Canon.netWrite {die ctx va bs} (h : Canon s) : OnOk Canon (s.netWrite die ctx va bs) := by
  refine OnOk.foldl (.ok h) fun r p hr => ?_
  cases hr with
  | error => exact .error
  | ok hr =>
    dsimp only
    split
    · exact .error
    · split
      · next e => exact .ok (hr.vwrite.of_ok e).countRange
      · exact .error

theorem Canon.netRefuse {die p va n e} (h : Canon s) : Canon (s.netRefuse die p va n e) := by
  unfold State.netRefuse
  extract_lets t
  split
  · exact h.failedAt
  · exact h.failedAt.netAck

theorem Canon.netServe {die p} (h : Canon s) : Canon (s.netServe die p) := by
  unfold State.netServe
  extract_lets va n
  split
  · exact h.netRefuse
  · split
    · exact h.netRefuse
    · exact h.countRange.emit

theorem Canon.execNetPacketReceive {p} (h : Canon s) : OnNext (execNetPacketReceive p s) := by
  unfold Machine.execNetPacketReceive
  extract_lets part mine r k r1
  split
  · exact .next h.netDrop
  · split
    · exact .next h.netAck
    · next next _ =>
        split
        · exact .next h.netServe
        · split
          · exact .next h.netAck
          · split
            · exact .next h.netAck
            · split
              · exact .next h.netRefuse
              · next e₅ =>
                  extract_lets rest _ done same kept s₁
                  have h₁ : Canon s₁ := (h.netWrite.of_ok e₅).frame
                  split
                  · exact .next (h.netWrite.of_ok e₅).frame.netAck
                  · split
                    · exact .next h₁.netAck
                    · split
                      · next e₈ => exact .next (h₁.signalSub.of_ok e₈).netAck
                      · exact .next h₁.failedSignal.netAck

theorem Canon.replayCopies {die seq} (h : Canon s) : Canon (s.replayCopies die seq) := by
  unfold State.replayCopies
  extract_lets is s₁
  have h₁ : Canon s₁ := by
    unfold s₁
    refine h.foldl fun s x h' => ?_
    split
    · split
      · exact h'.setJob.push
      · exact h'
    · exact h'
  refine h₁.foldl fun s x h' => ?_
  split
  · split
    · exact h'.setChan.push
    · exact h'
  · exact h'

theorem Canon.cancelCopies {die seq} (h : Canon s) : Canon (s.cancelCopies die seq) := by
  unfold State.cancelCopies
  extract_lets is s₁
  have h₁ : Canon s₁ := by
    unfold s₁
    refine h.foldl fun s x h' => ?_
    split
    · split
      · exact h'.setJob.push
      · exact h'
    · exact h'
  refine h₁.foldl fun s x h' => ?_
  split
  · split
    · exact h'.setChan.push
    · exact h'
  · exact h'

/-! ### The operations of Machine/Convert -/

theorem Canon.execCvt {d a dyn rnd src dst} (h : Canon s) : OnNext (execCvt d a dyn rnd src dst s) := by
  unfold Machine.execCvt
  exact h.fpWord

theorem Canon.execFrnd {d a wide dyn rnd} (h : Canon s) : OnNext (execFrnd d a wide dyn rnd s) := by
  unfold Machine.execFrnd
  extract_lets mode
  split
  · exact h.fp64Word
  · exact h.fp32Word

theorem Canon.execPkln6 {d a b j} (h : Canon s) : OnNext (execPkln6 d a b j s) := by
  unfold Machine.execPkln6
  refine h.gangWord fun c => ?_
  split
  · exact .trap
  · split
    · exact .trap
    · exact .done h.put

theorem Canon.execUpln6 {d a b j} (h : Canon s) : OnNext (execUpln6 d a b j s) := by
  unfold Machine.execUpln6
  refine h.gangWord fun c => ?_
  extract_lets flags put
  split
  · exact .trap
  · split
    · exact .trap
    · exact .done h.put

/-! ### The operations of Machine/Matrix -/

theorem Canon.setSub {tk k x} (h : Canon s) : Canon (s.setSub tk k x) := by
  unfold State.setSub
  split
  · exact h
  · exact h.setTeam

theorem Canon.dropSubs {tk} (h : Canon s) : Canon (s.dropSubs tk) := by
  unfold State.dropSubs
  split
  · exact h
  · exact h.setTeam

theorem Canon.kickPrism {tk} (h : Canon s) : Canon (s.kickPrism tk) := by
  unfold State.kickPrism
  split
  · exact h
  · next x _ _ =>
      refine h.foldl fun s x h' => ?_
      extract_lets more
      split
      · exact h'.kick
      · exact h'

theorem Canon.kickMatrix {tk} (h : Canon s) : Canon (s.kickMatrix tk) := by
  unfold State.kickMatrix
  refine h.foldl fun t x h' => ?_
  split
  · split
    · exact h'.kick
    · exact h'
  · exact h'

theorem Canon.matrixWord {i ctr checks mk after} (h : Canon s) (ha : ∀ c t, Canon t → Canon (after c t)) :
    OnNext (matrixWord i ctr checks mk after s) := by
  unfold Machine.matrixWord
  refine h.gangWord fun c => ?_
  split
  · exact .trap
  · split
    · exact .wait h.hold
    · exact .done (ha c _ h.frame).kick

theorem Canon.execTmma {acc tile bsrc f ctr mode} (h : Canon s) : OnNext (execTmma acc tile bsrc f ctr mode s) := by
  unfold Machine.execTmma
  exact h.matrixWord fun x s hs => hs

theorem Canon.execTgmma {acc tile bsrc f ctr mode} (h : Canon s) : OnNext (execTgmma acc tile bsrc f ctr mode s) :=
  h.matrixWord fun _ _ hs => hs

theorem Canon.execTzero {acc ctr} (h : Canon s) : OnNext (execTzero acc ctr s) := h.matrixWord fun _ _ hs => hs

theorem Canon.execTld {tile bsrc ctr mode} (h : Canon s) : OnNext (execTld tile bsrc ctr mode s) := h.matrixWord fun _ _ hs => hs

theorem Canon.execTst {tile bsrc ctr mode} (h : Canon s) : OnNext (execTst tile bsrc ctr mode s) := h.matrixWord fun _ _ hs => hs

theorem Canon.execAccst {acc bsrc ctr mode} (h : Canon s) : OnNext (execAccst acc bsrc ctr mode s) := h.matrixWord fun _ _ hs => hs

theorem Canon.execAccld {acc bsrc ctr mode} (h : Canon s) : OnNext (execAccld acc bsrc ctr mode s) := h.matrixWord fun _ _ hs => hs

theorem Canon.execTamax {acc bsrc ctr mode} (h : Canon s) : OnNext (execTamax acc bsrc ctr mode s) := by
  unfold Machine.execTamax
  exact h.matrixWord fun x s hs => hs

theorem Canon.execTtrans {bsrc f ctr} (h : Canon s) : OnNext (execTtrans bsrc f ctr s) := h.matrixWord fun _ _ hs => hs

theorem Canon.execTbmap {bsrc f ctr} (h : Canon s) : OnNext (execTbmap bsrc f ctr s) := h.matrixWord fun _ _ hs => hs

theorem Canon.execStrdef {f ctr} (h : Canon s) : OnNext (execStrdef f ctr s) := h.matrixWord fun _ _ hs => hs

theorem Canon.execStrsub {bsrc f ctr} (h : Canon s) : OnNext (execStrsub bsrc f ctr s) := by
  unfold Machine.execStrsub
  exact h.matrixWord fun c s hs => hs.setSub

theorem Canon.execStradv {bsrc ctr} (h : Canon s) : OnNext (execStradv bsrc ctr s) := by
  unfold Machine.execStradv
  refine h.matrixWord fun c s hs => ?_
  split
  · exact hs.setSub.kickPrism
  · exact hs

theorem Canon.execStrunsub {bsrc ctr} (h : Canon s) : OnNext (execStrunsub bsrc ctr s) := by
  unfold Machine.execStrunsub
  refine h.matrixWord fun c s hs => ?_
  split
  · exact hs.setSub.dropSubs
  · exact hs

theorem Canon.execMloop (h : Canon s) : OnNext (execMloop s) := h.gangWord fun _ => .trap

theorem Canon.execMend (h : Canon s) : OnNext (execMend s) := h.gangWord fun _ => .trap

theorem Canon.execMsave {f ctr release} (h : Canon s) : OnNext (execMsave f ctr release s) := h.matrixWord fun _ _ hs => hs

theorem Canon.execMresume {f ctr} (h : Canon s) : OnNext (execMresume f ctr s) := by
  unfold Machine.execMresume
  refine h.gangWord fun c => ?_
  split
  · exact .trap
  · extract_lets k core foreign nest _ s₁
    split
    · exact .wait h.hold
    · exact .done h.frame.put.kick

/-! ### The operations of Machine/MatrixRun -/

theorem Canon.engineRead {die w a n} (h : Canon s) : Canon (s.engineRead die w a n).1 := by
  unfold State.engineRead
  extract_lets k
  split
  · exact h
  · split
    · exact h.foundBad
    · exact h

theorem Canon.engineWrite {die ctx w a bs} (h : Canon s) : Canon (s.engineWrite die ctx w a bs).1 := by
  unfold State.engineWrite
  extract_lets k mem
  split
  · exact h
  · split
    · exact h
    · split
      · exact h.foundBad
      · have hm : mem.wf = true := wf_write h _ _
        show Mem.wf _ = true
        dsimp only
        split
        · exact wf_foldl _ (fun _ _ hm => wf_own hm _ _) _ hm
        · exact hm

theorem Canon.gather {g m} (h : Canon s) : Canon (s.gather g m).1 := by
  unfold State.gather
  split
  · exact h
  · extract_lets r
    have hr : Canon r.1 := by
      unfold r
      refine Canon.foldl_fst h fun x l h' => ?_
      split
      · exact h'
      · extract_lets a
        split
        · exact h'
        · split
          · next e₃ => exact h'.engineRead.of_pair e₃
          · next e₄ => exact h'.engineRead.of_pair e₄
    split <;> exact hr

theorem Canon.mmaQuarter {g m} (h : Canon s) : Canon (s.mmaQuarter g m).1 := by
  unfold State.mmaQuarter
  split
  · exact h
  · split
    · next e₂ => exact h.engineRead.of_pair e₂
    · next e₁ => exact (h.engineRead.of_pair e₁).gather

theorem Canon.writeRows {g m} (h : Canon s) : Canon (s.writeRows g m).1 := by
  unfold State.writeRows
  refine Canon.foldl_fst h fun x r h' => ?_
  split
  · next e => exact h'.engineWrite.of_pair e
  · next e₁ => exact h'.engineWrite.of_pair e₁

theorem Canon.moveLane {g m l} (h : Canon s) : Canon (s.moveLane g m l).1 := by
  unfold State.moveLane
  extract_lets mem write land n bs
  have hland {n f} : Canon (land n f).1 := by
    unfold land
    split
    · next e => exact h.engineRead.of_pair e
    · next e => exact h.engineRead.of_pair e
  split
  · exact h
  · exact hland
  · exact h
  · exact hland
  · split <;> exact h

theorem Canon.moveQuarter {g m} (h : Canon s) : Canon (s.moveQuarter g m).1 := by
  unfold State.moveQuarter
  extract_lets r _ m1 w
  have hr : Canon r.1 := by
    unfold r
    refine Canon.foldl_fst h fun x l h' => ?_
    exact h'.moveLane
  split
  · exact hr
  · exact hr.writeRows

theorem Canon.writeOr {g m r} (h : Canon r.1) : Canon (writeOr g m r).1 := by
  unfold Machine.writeOr
  split <;> exact h

theorem Canon.amaxQuarter {g m} (h : Canon s) : Canon (s.amaxQuarter g m).1 := by
  unfold State.amaxQuarter
  split
  · exact h
  · extract_lets bad
    split
    · exact h
    · exact h.engineWrite.writeOr

theorem Canon.transWord {g m} (h : Canon s) : Canon (s.transWord g m).1 := by
  unfold State.transWord
  extract_lets af mem m1
  split
  · split
    · next e₂ => exact h.engineRead.of_pair e₂
    · next e₁ =>
        extract_lets new
        split
        · next e₃ => exact (h.engineRead.of_pair e₁).engineWrite.of_pair e₃
        · exact h.engineRead.of_pair e₁
  · split
    · exact h
    · split
      · next e₃ => exact h.engineWrite.of_pair e₃
      · next e₂ => exact h.engineWrite.of_pair e₂

theorem Canon.bmapWord {g m} (h : Canon s) : Canon (s.bmapWord g m).1 := by
  unfold State.bmapWord
  extract_lets af mem
  split
  · next e => exact h.engineRead.of_pair e
  · next e => exact (h.engineRead.of_pair e).engineWrite.writeOr

theorem Canon.defineStream {g m} (h : Canon s) : Canon (s.defineStream g m).1 := by
  unfold State.defineStream
  extract_lets q n d
  have hdefine : Canon (State.defineStream.define s g m d n q).1 := h.setDie
  split
  · split
    · exact h
    · split
      · exact h
      · exact hdefine
  · exact hdefine

theorem Canon.takeSub {g m} (h : Canon s) : Canon (s.takeSub g m).1 := by
  unfold State.takeSub
  extract_lets k
  split
  · exact h
  · extract_lets code
    clear_value code
    split <;> exact h.setSub

theorem Canon.handleWord {g m} (h : Canon s) : Canon (s.handleWord g m).1 := by
  unfold State.handleWord
  extract_lets sub
  split <;> exact h

theorem Canon.saveNest {g m} (h : Canon s) : Canon (s.saveNest g m).1 := by
  unfold State.saveNest
  extract_lets va
  split
  · exact h
  · split
    · exact h.failedAt
    · next e₁ =>
        extract_lets s'1 _
        split
        · exact (h.vwrite.of_ok e₁).countRange
        · exact (h.vwrite.of_ok e₁).countRange.setCore

theorem Canon.runMatrix {g m} (h : Canon s) : Canon (s.runMatrix g m).1 := by
  unfold State.runMatrix
  split
  · exact h.mmaQuarter
  · exact h.mmaQuarter
  · exact h.amaxQuarter
  · exact h.transWord
  · exact h.bmapWord
  · exact h.defineStream
  · exact h.takeSub
  · exact h.handleWord
  · exact h.handleWord
  · exact h.saveNest
  · exact h.moveQuarter

theorem Canon.endMatrix {op f g m} (h : Canon s) : Canon (s.endMatrix op f g m) := by
  unfold State.endMatrix
  extract_lets tk old s₁
  split
  · split
    · exact h.finish.touchOldest.dropSubs.kickMatrix.kickPrism.kick
    · exact h.finish.touchOldest.dropSubs.kickMatrix.kickPrism
  · exact h.finish.touchOldest.dropSubs.kickMatrix.kickPrism

theorem Canon.execQuarterOpComplete {op} (h : Canon s) : OnNext (execQuarterOpComplete op s) := by
  unfold Machine.execQuarterOpComplete
  split
  · exact .next h
  · split
    · split
      · exact .next h
      · extract_lets r _
        split
        · exact .next h.runMatrix
        · split
          · exact .next h.runMatrix.endMatrix
          · exact .next h.runMatrix.frame.kick
    · exact .next h

theorem Canon.writeTile {t x st bytes} (h : Canon s) : Canon (s.writeTile t x st bytes).1 := by
  unfold State.writeTile
  split
  · exact h
  · extract_lets a k r
    split <;> exact wf_writeSkip h _ _

theorem Canon.execPrismTileWrite {team handle} (h : Canon s) : OnNext (execPrismTileWrite team handle s) := by
  unfold Machine.execPrismTileWrite
  split
  · exact .next h
  · split
    · exact .next h
    · extract_lets die
      split
      · exact .next h
      · split
        · exact .next h
        · extract_lets va t r t' bytes go
          have ht : Canon t := h.foldl fun _ _ h => h.fillTlb
          have ht' : Canon t' := by
            unfold t'
            clear_value r
            split
            · exact ht.failedAt
            · exact ht.countRange
          have hgo {t tk k y} (h : Canon t) : Canon (go t tk k y) := by
            unfold go
            split
            · exact h
            · split
              · exact h.writeTile.setSub.kickMatrix.kickPrism
              · exact h
          exact .next (ht'.foldl fun _ _ h => h.foldl fun _ _ h => hgo h)

theorem Canon.failNest {core n code cause arg} (h : Canon s) : Canon (s.failNest core n code cause arg) := by
  unfold State.failNest
  extract_lets n' _
  split
  · exact h
  · exact h.setCore.setGang

/-! ### The operations of Machine/Nest -/

theorem Canon.fetchWords {g n k ws} (h : Canon s) : Canon (State.fetchWords s g n k ws).1 := by
  induction ws generalizing k with
  | nil => exact h
  | cons w t ih =>
    rw [State.fetchWords]
    split
    · exact h.failedAt
    · split
      · exact ih
      · exact h

theorem Canon.fetchNest {g n} (h : Canon s) : Canon (s.fetchNest g n).1 := h.fetchWords

theorem Canon.readParams {g n} (h : Canon s) : Canon (s.readParams g n).1 := by
  unfold State.readParams
  split
  · exact h
  · split
    · next e₂ => exact h.engineRead.of_pair e₂
    · next e₁ =>
        extract_lets n1
        split <;> exact h.engineRead.of_pair e₁

theorem Canon.bootNest {g n} (h : Canon s) : Canon (s.bootNest g n).1 := by
  unfold State.bootNest
  split
  · split
    · next e₂ => exact h.fetchNest.of_pair e₂
    · next e₁ =>
        split
        · next e₃ => exact (h.fetchNest.of_pair e₁).readParams.of_pair e₃
        · next e₂ => exact (h.fetchNest.of_pair e₁).readParams.of_pair e₂
  · split
    · exact h.failedAt
    · extract_lets s₁ n1
      split
      · next e₃ => exact h.countRange.readParams.of_pair e₃
      · next e₂ =>
          split
          · exact h.countRange.readParams.of_pair e₂
          · split
            · next e₅ => exact (h.countRange.readParams.of_pair e₂).fetchNest.of_pair e₅
            · next e₄ => exact (h.countRange.readParams.of_pair e₂).fetchNest.of_pair e₄

theorem Canon.readTile {g n k a} (h : Canon s) : Canon (s.readTile g n k a).1 := by
  unfold State.readTile
  split
  · exact h
  · exact h.engineRead

theorem Canon.readC {g n r} (h : Canon s) : Canon (s.readC g n r).1 := by
  induction r with
  | zero => exact h
  | succ r ih =>
    rw [State.readC]
    split
    · next e => exact ih.of_pair e
    · next e =>
      split
      · next e' => exact (ih.of_pair e).engineRead.of_pair e'
      · next e' => exact (ih.of_pair e).engineRead.of_pair e'

theorem Canon.writeCRow {g n r vals} (h : Canon s) : Canon (s.writeCRow g n r vals).1 := by
  unfold State.writeCRow
  extract_lets w a len x
  have hx : Canon x.1 := by
    unfold x
    refine Canon.foldl_fst h fun x v h' => ?_
    split
    · next e => exact h'.engineWrite.of_pair e
    · next e₁ => exact h'.engineWrite.of_pair e₁
  split
  · exact h
  · split
    · exact h.foundBad
    · exact hx

theorem Canon.writeC {g n sa sb r} (h : Canon s) : Canon (s.writeC g n sa sb r).1 := by
  induction r with
  | zero => exact h
  | succ r ih =>
    rw [State.writeC]
    split
    · next e => exact ih.of_pair e
    · next e => exact (ih.of_pair e).writeCRow

theorem Canon.stepNest {g n} (h : Canon s) : Canon (s.stepNest g n).1 := by
  unfold State.stepNest
  split
  · next e => exact h.readTile.of_pair e
  · next e =>
    have ha := h.readTile.of_pair e
    split
    · next e => exact ha.readTile.of_pair e
    · next e =>
      have hb := ha.readTile.of_pair e
      split
      · exact hb
      · extract_lets c
        have hc : Canon c.1 := by
          unfold c
          split
          · exact hb
          · split
            · exact hb
            · exact hb.readC
        clear_value c
        split
        · exact hc
        · extract_lets n₁ n₂
          split
          · exact hc
          · split
            · next e => exact hc.writeC.of_pair e
            · next e => exact hc.writeC.of_pair e

theorem Canon.afterStep {core g n} (h : Canon s) : Canon (s.afterStep core g n) := by
  unfold State.afterStep
  split
  · exact h.setCore.setGang
  · split
    · exact h.setCore.kick
    · split
      · exact h.failNest
      · exact h.setCore.setGang

theorem Canon.startNest {core g n} (h : Canon s) : Canon (s.startNest core g n) := by
  unfold State.startNest
  split
  · next e₁ => exact (h.bootNest.of_pair e₁).failNest
  · next e => exact (h.bootNest.of_pair e).setCore.kick

theorem Canon.runNest {core g n} (h : Canon s) : Canon (s.runNest core g n) := by
  have hr : Canon (if n.mrow < n.mt then s.stepNest g n else (s, .ok n)).1 := by
    split
    · exact h.stepNest
    · exact h
  unfold State.runNest
  split
  · next e => exact (hr.of_pair e).failNest
  · next e => exact (hr.of_pair e).afterStep

theorem Canon.execTileStep {core} (h : Canon s) : OnNext (execTileStep core s) := by
  unfold Machine.execTileStep
  split
  · exact .next h
  · split
    · exact .next h
    · split
      · exact .next h
      · extract_lets old t
        have ht : Canon t := by
          unfold t
          split
          · exact h.startNest
          · exact h.runNest
        exact .next ht.touchOldest.kickMatrix

theorem Canon.heldNest {core n} (h : Canon s) : Canon (s.heldNest core n).1 := by
  unfold State.heldNest
  split
  · extract_lets r
    split
    · exact h
    · exact h.bootNest
  · exact h

theorem Canon.resetEngine {core} (h : Canon s) : Canon (s.resetEngine core) := by
  unfold State.resetEngine
  extract_lets s₁
  have h₁ : Canon s₁ := by
    unfold s₁
    refine h.foldl fun s x h' => ?_
    split
    · split
      · exact h'
      · exact h'.writeRows.endMatrix
    · exact h'
  split
  · split
    · exact h₁
    · exact h₁.heldNest.failNest
  · exact h₁

theorem Canon.execMatrixHang {core} (h : Canon s) : OnNext (execMatrixHang core s) := by
  unfold Machine.execMatrixHang
  refine .next ?_
  split
  · exact h.resetEngine
  · exact h

/-! ### The operations of Machine/Queue -/

theorem Canon.doorbell {die queue w} (h : Canon s) : Canon (s.doorbell die queue w) := by
  unfold State.doorbell
  extract_lets x n s₁
  split
  · exact h
  · split
    · exact h.queueError
    · split
      · exact h.queueError
      · split
        · exact h
        · split
          · exact h.setQueue.readyQueue
          · exact h.setQueue

theorem Canon.execDoorbell {die queue w} (h : Canon s) : OnNext (execDoorbell die queue w s) := .next h.doorbell

theorem Canon.enableQueue {die queue} (h : Canon s) : Canon (s.enableQueue die queue) := by
  unfold State.enableQueue
  extract_lets x idle s₁
  split
  · exact h
  · split
    · exact h.setQueue.readyQueue
    · exact h.setQueue

theorem Canon.execQueueEnable {die queue} (h : Canon s) : OnNext (execQueueEnable die queue s) := .next h.enableQueue

theorem Canon.disableQueue {die queue} (h : Canon s) : Canon (s.disableQueue die queue) := h

theorem Canon.execQueueDisable {die queue} (h : Canon s) : OnNext (execQueueDisable die queue s) := .next h.disableQueue

theorem Canon.writeQueue {die queue off fn bytes} (h : Canon s) : Canon (s.writeQueue die queue off fn bytes) := by
  unfold State.writeQueue
  extract_lets x flags s₁
  split
  · exact h.setQueue
  · split
    · exact h.setQueue.enableQueue
    · split
      · exact h.setQueue.disableQueue
      · exact h.setQueue

theorem Canon.execQueueRecordWrite {die queue off fn bytes} (h : Canon s) : OnNext (execQueueRecordWrite die queue off fn bytes s) :=
  .next h.writeQueue

theorem Canon.setContext {die ctx} (h : Canon s) : Canon (s.setContext die ctx) := by
  unfold State.setContext
  extract_lets r
  split
  · exact h
  · split
    · exact h.setCtxRec
    · exact h.setCtx.setCtxRec

theorem Canon.execContextValidSet {die ctx} (h : Canon s) : OnNext (execContextValidSet die ctx s) := .next h.setContext

theorem Canon.clearContext {die ctx} (h : Canon s) : Canon (s.clearContext die ctx) := by
  unfold State.clearContext
  split
  · exact h.endContext
  · exact h

theorem Canon.execContextValidClear {die ctx} (h : Canon s) : OnNext (execContextValidClear die ctx s) := .next h.clearContext

theorem Canon.setCompRd {die c n} (h : Canon s) : Canon (s.setCompRd die c n) := by
  unfold State.setCompRd
  extract_lets r s₁ s₂
  have h₂ : Canon s₂ := by
    unfold s₂
    split
    · exact h.setCtxRec
    · exact h.setCtxRec.drainCompletions
  exact h₂.leaveContext.kick

theorem Canon.writeContext {die ctx off bytes} (h : Canon s) : Canon (s.writeContext die ctx off bytes) := by
  unfold State.writeContext
  extract_lets r n view s₁ on r1 s₂
  have h₁ : Canon s₁ := by
    unfold s₁
    split
    · exact h.setCompRd
    · exact h
  split
  · split
    · exact h₁.clearContext
    · exact h₁
  · split
    · exact h₁.setCtxRec.setContext
    · exact h₁.setCtxRec

theorem Canon.execContextRecordWrite {die ctx off bytes} (h : Canon s) : OnNext (execContextRecordWrite die ctx off bytes s) :=
  .next h.writeContext

theorem Canon.writeNode {die i off bytes} (h : Canon s) : Canon (s.writeNode die i off bytes) := by
  unfold State.writeNode
  extract_lets d x
  split
  · exact h
  · exact h.setDie

theorem Canon.replayFlight {die seq op} (h : Canon s) : Canon (s.replayFlight die seq op) := by
  unfold State.replayFlight
  split
  · exact h
  · split
    · exact h
    · split
      · exact h
      · split
        · exact h.translateParts.frame.sendReady
        · exact h.translatePlain.setJob.askToken
        · exact h.translateParts.setJob.enterStart
        · exact h

theorem Canon.cancelFlight {die seq op} (h : Canon s) : Canon (s.cancelFlight die seq op) := by
  unfold State.cancelFlight
  split
  · exact h
  · split
    · exact h
    · split
      · exact h
      · split
        · exact h.frame.settle.sendAll
        · exact h.setJob.settle
        · exact h.setJob.settle
        · exact h

theorem Canon.releaseSignals {die seq} (h : Canon s) : Canon (s.releaseSignals die seq) := h

theorem Canon.failSignals {die seq} (h : Canon s) : Canon (s.failSignals die seq) := h

theorem Canon.replayFault {die seq} (h : Canon s) : Canon (s.replayFault die seq) :=
  (h.foldl fun _ _ h => h.replayFlight).releaseSignals.replayCopies

theorem Canon.execFaultReplay {die seq} (h : Canon s) : OnNext (execFaultReplay die seq s) := .next h.replayFault

theorem Canon.cancelFault {die seq} (h : Canon s) : Canon (s.cancelFault die seq) :=
  (h.foldl fun _ _ h => h.cancelFlight).failSignals.cancelCopies

theorem Canon.execFaultCancel {die seq} (h : Canon s) : OnNext (execFaultCancel die seq s) := .next h.cancelFault

/-! ### The operations of Machine/Mmio -/

theorem Canon.writeReplay {die v} (h : Canon s) : Canon (s.writeReplay die v) := by
  unfold State.writeReplay
  extract_lets seq
  split
  · exact h.replayFault
  · split
    · exact h.cancelFault
    · exact h

theorem Canon.writeWindow {die off fn bytes} (h : Canon s) : Canon (s.writeWindow die off fn bytes) := by
  unfold State.writeWindow
  extract_lets n cut
  split
  · split
    · exact h.doorbell
    · exact h
  · split
    · exact h.foldl fun _ _ h => h.writeQueue
    · split
      · exact h.foldl fun _ _ h => h.writeContext
      · split
        · split
          · exact h.writeReplay
          · exact h
        · split
          · exact h
          · exact h.foldl fun _ _ h => h.writeNode

theorem Canon.regWrite {sock off fn bytes} (h : Canon s) : OnSome Canon (s.regWrite sock off fn bytes) := by
  unfold State.regWrite
  split
  · exact .none
  · split
    · split
      · exact .some h.setBase
      · exact .some h
    · exact .some h.writeWindow

theorem Canon.ringMail {v} (h : Canon s) : Canon (s.ringMail v) := h

theorem Canon.writeMailbox {off bytes} (h : Canon s) : Canon (s.writeMailbox off bytes) := by
  unfold State.writeMailbox
  extract_lets img n _ s₁ src s₂
  have h₁ : Canon s₁ := by
    unfold s₁
    split <;> exact h
  have h₂ : Canon s₂ := by
    unfold s₂
    split <;> exact h₁
  split
  · exact h₂.ringMail
  · exact h₂

theorem Canon.unsupported {addr} (h : Canon s) : Canon (s.unsupported addr) := h

theorem Canon.execMmioRegisterWrite {sock off fn bytes} (h : Canon s) : OnNext (execMmioRegisterWrite sock off fn bytes s) := by
  unfold Machine.execMmioRegisterWrite
  split
  · exact .next h.writeMailbox
  · split
    · exact .next h.emit
    · split
      · next e₂ => exact .next (h.regWrite.of_some e₂)
      · exact .next h.unsupported

/-! ### The operations of Machine/MemUnit -/

theorem Canon.respond {sock q r} (h : Canon s) : Canon (s.respond sock q r) := by
  unfold State.respond
  extract_lets mine k
  split
  · exact h
  · split
    · exact h.deliverReply
    · split <;> exact h.push

theorem Canon.ack {sock q} (h : Canon s) : Canon (s.ack sock q) := h.respond

theorem Canon.refuse {sock q code cause mask} (h : Canon s) : Canon (s.refuse sock q code cause mask) := h.dropLock.respond

theorem Canon.putLine {k pa key line} (h : Canon s) : Canon (s.putLine k pa key line) := by
  unfold State.putLine
  split
  · exact .stored (wf_write h _ _)
  · exact .stored (wf_write (wf_write h _ _) _ _)

theorem Canon.afterWrite {k pa ctx} (h : Canon s) : Canon (s.afterWrite k pa ctx) := by
  unfold State.afterWrite
  split
  · exact wf_own h _ _
  · split <;> exact h

theorem Canon.lockStep {p} (h : Canon s) : Canon (s.lockStep p) := by
  unfold State.lockStep
  split
  · exact h
  · split
    · exact h.dropLock
    · exact h

theorem Canon.performRead {sock p k} (h : Canon s) : Canon (s.performRead sock p k) := by
  unfold State.performRead
  split
  · exact h.refuse
  · exact h.lockStep.respond

theorem Canon.performWrite {sock p k} (h : Canon s) : Canon (s.performWrite sock p k) := by
  unfold State.performWrite
  extract_lets pa clob mask data old
  clear_value old
  split
  · exact h.refuse
  · extract_lets new s₁
    split
    · exact h.putLine.afterWrite.lockStep.ack
    · exact h.putLine.afterWrite.lockStep.refuse

theorem Canon.atomicAt {k pa p n f} (h : Canon s) : OnOk Canon (s.atomicAt k pa p n f) := by
  unfold State.atomicAt
  extract_lets off base
  split
  · exact .error
  · split
    · exact .error
    · exact .ok h.putLine.afterWrite

theorem Canon.performFadd {sock p k} (h : Canon s) : Canon (s.performFadd sock p k) := by
  unfold State.performFadd
  extract_lets n pa old
  split
  · exact h.refuse
  · next e => exact (h.atomicAt.of_ok e).respond

theorem Canon.performAtomic {sock p k} (h : Canon s) : Canon (s.performAtomic sock p k) := by
  unfold State.performAtomic
  extract_lets b mine all s₁ n pa r
  split
  · exact h.setBase
  · split
    · exact h.setBase.foldl fun _ _ h => h.refuse
    · next e₁ => exact (h.setBase.atomicAt.of_ok e₁).foldl fun _ _ h => h.respond

theorem Canon.performAt {sock p k} (h : Canon s) : Canon (s.performAt sock p k) := by
  unfold State.performAt
  split
  · exact h.push
  · split
    · exact h.performRead
    · split
      · exact h.performWrite
      · split
        · exact h.performFadd
        · exact h.performAtomic

theorem Canon.performReg {sock off p} (h : Canon s) : Canon (s.performReg sock off p) := by
  unfold State.performReg
  extract_lets line n err got bad bytes _ r t w
  have herr {t mask} (h : Canon t) : Canon (err t mask) := h.errlog.refuse
  have hw : Canon w.1 := by
    refine Canon.foldl_fst h fun r x hr => ?_
    split
    · next e => exact hr.regWrite.of_some e
    · exact hr
  split
  · split
    · exact h.respond
    · exact h.errlog.respond
  · split
    · split
      · exact hw.ack
      · exact herr hw
    · exact herr h

theorem Canon.homeRequest {sock p k} (h : Canon s) : Canon (s.homeRequest sock p k) := by
  unfold State.homeRequest
  extract_lets region home pkg
  split
  · exact h.performAt
  · split
    · exact h.endWriter.performAt
    · split
      · exact h.holdRequest
      · extract_lets blocks others
        split
        · exact h.holdRequest
        · split
          · exact h.performAt
          · split
            · exact h.holdRequest
            · exact h.askCopies

theorem Canon.execMemoryRequest {sock p} (h : Canon s) : OnNext (execMemoryRequest sock p s) := by
  unfold Machine.execMemoryRequest
  extract_lets pa k s₁
  split
  · exact .next h.performAt
  · split
    · split
      · exact .next h.performAt
      · exact .next h.push
    · split
      · exact .next h.performReg
      · exact .next h.errlog.refuse
      · split
        · refine .next ?_
          refine Canon.refuse ?_
          split
          · exact h.foundBad
          · exact h
        · refine .next ?_
          split
          · exact h.homeRequest
          · exact h.performAt

theorem Canon.hostFound {a} (h : Canon s) : Canon (s.hostFound a) := by
  unfold State.hostFound
  split
  · split
    · exact h.foundBad
    · exact h
  · split
    · exact h.foundBad
    · exact h
  · exact h

theorem Canon.hostPiece {fn a bs} (h : Canon s) : OnOk Canon (s.hostPiece fn a bs) := by
  unfold State.hostPiece
  split
  · exact .ok h.unsupported
  · split
    · split
      · next e => exact .ok (h.regWrite.of_some e)
      · exact .ok h.unsupported
    · exact .ok h.unsupported
    · extract_lets b
      split
      · exact .error
      · split
        · exact .ok h
        · exact .ok (.stored (wf_write h _ _))
    · split
      · exact .ok h.hostFound
      · exact .ok (.stored (wf_own (wf_writeSkip h _ _) _ _))
    · split
      · exact .ok h.hostFound
      · exact .ok (.stored (wf_writeSkip h _ _))

theorem Canon.hostPerform {r} (h : Canon s) : Canon (s.hostPerform r) := by
  unfold State.hostPerform
  split
  · extract_lets off
    split
    · exact h.unsupported
    · split
      · exact h.writeMailbox
      · exact h.emit
  · split
    · exact h.emit
    · split
      · next x _ _ =>
          refine Canon.foldl_fst h fun x p h' => ?_
          split
          · next e₃ => exact h'.hostPiece.of_ok e₃
          · exact h'
      · extract_lets got s₁
        have h₁ : Canon s₁ := by
          unfold s₁
          refine h.foldl fun s p h' => ?_
          split
          · exact h'.hostFound
          · exact h'
        clear_value got
        split
        · exact h₁.emit
        · exact h₁.unsupported

theorem Canon.hostRecall {r blocks} (h : Canon s) : Canon (s.hostRecall r blocks) := by
  unfold State.hostRecall
  extract_lets region
  clear_value region
  split
  · exact h
  · exact h.foldl fun _ _ h => h.sendRecall

theorem Canon.hostAsk {g} (h : Canon s) : Canon (s.hostAsk g) := by
  unfold State.hostAsk
  split
  · exact h
  · split
    · exact h
    · exact h.askCopies

theorem Canon.runHost {n} (h : Canon s) : Canon (State.runHost n s) := by
  induction n generalizing s with
  | zero => exact h
  | succ n ih =>
    rw [State.runHost]
    split
    · exact h
    · split
      · exact h
      · extract_lets blocks mine s₁ s₂
        split
        · exact h.hostRecall.frame
        · split
          · exact ih (Canon.foldl h.frame.hostPerform fun _ _ h => h.endWriter)
          · exact h.foldl fun _ _ h => h.hostAsk

theorem Canon.hostAccess {r} (h : Canon s) : Canon (s.hostAccess r) := h.frame.runHost

theorem Canon.execHostWrite {fn addr bytes} (h : Canon s) : OnNext (execHostWrite fn addr bytes s) := .next h.hostAccess

theorem Canon.execHostRead {fn addr len} (h : Canon s) : OnNext (execHostRead fn addr len s) := .next h.hostAccess

theorem Canon.scrubLine {sock line} (h : Canon s) : Canon (s.scrubLine sock line) := h.foundBad

theorem Canon.correct {sock mine} (h : Canon s) : Canon (s.correct sock mine) := h.frame.foldl fun _ _ h => h.errlog

theorem Canon.execScrubArrays {sock} (h : Canon s) : OnNext (execScrubArrays sock s) := by
  unfold Machine.execScrubArrays
  extract_lets mine s₁ s₂
  have h₂ : Canon s₂ := by
    unfold s₂
    refine h.correct.foldl fun s l h' => ?_
    split
    · exact h'.errlog
    · exact h'.scrubLine
  refine .next ?_
  split
  · exact h₂.foldl fun _ _ h => h.errlog
  · exact h₂

theorem Canon.execScrubDram {sock} (h : Canon s) : OnNext (execScrubDram sock s) := .next (h.correct.foldl fun _ _ h => h.errlog)

/-! ### The operations of Machine/Width -/

theorem Canon.execConverge (h : Canon s) : OnNext (execConverge s) := by
  unfold Machine.execConverge
  refine h.gangWord fun c => ?_
  split
  · exact .wait h.hold
  · exact .went h.put.advance

theorem Canon.placeParts {g sp w} (h : Canon s) : Canon (s.placeParts g sp w) := by
  unfold State.placeParts
  extract_lets n hasLive ids js s₁ s₂ lost
  split
  · exact h.setGang.foldl fun _ _ h => h.setGang
  · exact (h.setGang.foldl fun _ _ h => h.setGang).setTeam

theorem Canon.execSplit {d w} (h : Canon s) : OnNext (execSplit d w s) := by
  unfold Machine.execSplit
  refine h.gangWord fun c => ?_
  split
  · exact .trap
  · extract_lets w1 all needed g
    split
    · exact .trap
    · split
      · exact .trap
      · split
        · exact .wait h.hold
        · split
          · refine .went ?_
            refine h.put.foldl fun s i h' => ?_
            split
            · exact h'.advance
            · exact h'
          · exact .went h.placeParts

theorem Canon.joinGangs {a b sa sb} (h : Canon s) : Canon (s.joinGangs a b sa sb) := by
  unfold State.joinGangs
  extract_lets core s₁ s₂ s₃ s₄
  have h₁ : Canon s₁ := by
    unfold s₁
    split
    · split
      · exact h.setCore
      · exact h
    · exact h
  have h₂ : Canon s₂ := h₁
  have h₄ : Canon s₄ := by
    unfold s₄
    split
    · split
      · exact h₂.setGang
      · exact h₂.setGang.arrive
    · exact h₂.setGang
  split
  · split
    · exact h₄
    · exact h₄.arrive
  · exact h₄

theorem Canon.execFuse {d} (h : Canon s) : OnNext (execFuse d s) := by
  unfold Machine.execFuse
  refine h.gangWord fun c => ?_
  split
  · exact .trap
  · extract_lets status a sa
    have hstatus v : OnFate (status v) := .done h.put
    split
    · exact .trap
    · split
      · exact hstatus 6
      · exact hstatus 1
      · split
        · exact hstatus 6
        · split
          · exact hstatus _
          · split
            · exact .wait h.hold
            · split
              · split
                · exact hstatus 6
                · split
                  · exact .wait h
                  · exact .wait h.hold
              · split
                · exact .done h.put.setGang.advance
                · extract_lets b sb
                  refine .went ?_
                  split <;> exact h.joinGangs

theorem Canon.execFusetmoExpiry {gang entry} (h : Canon s) : OnNext (execFusetmoExpiry gang entry s) := by
  unfold Machine.execFusetmoExpiry
  split
  · exact .next h
  · split
    · exact .next h
    · refine .next ?_
      split
      · exact h.setGang
      · exact h

/-! ### The operations of Machine/Launch -/

theorem Canon.loadControl {id core restore} (h : Canon s) : Canon (s.loadControl id core restore) := by
  unfold State.loadControl
  split
  · exact h
  · extract_lets here c store _
    split <;> exact h

theorem Canon.claimTeamMem {core base size ctx} (h : Canon s) : Canon (s.claimTeamMem core base size ctx) :=
  .stored (wf_foldl _ (fun _ _ hm => wf_own hm _ _) _ (wf_wipe h _ _))

theorem Canon.startTeam {id l core tslot widths restore place} (h : Canon s) :
    Canon (s.startTeam id l core tslot widths restore place) := by
  unfold State.startTeam
  split
  · extract_lets t s₁ s₂ pvec
    refine h.loadControl.claimTeamMem.dropL1.setTeam.foldl fun s x h' => ?_
    extract_lets g g1
    split
    · exact h'.setGang.trapTrace.preemptTrace
    · exact h'.setGang

theorem Canon.dropSaved {ctx launch ident} (h : Canon s) : Canon (s.dropSaved ctx launch ident) := by
  unfold State.dropSaved
  split
  · exact h
  · exact h.setCtx

theorem Canon.serveRecord {die slot r} (h : Canon s) : OnSome Canon (s.serveRecord die slot r) := by
  unfold State.serveRecord
  split
  · exact .none
  · extract_lets d n restore
    split
    · extract_lets saved widths
      split
      · exact .some h.setDie
      · split
        · exact .none
        · split
          · exact .none
          · extract_lets busy s₁ d1
            split
            · exact .none
            · split
              · exact .some h.drainFailure
              · exact .some h.startTeam.dropSaved.setDie

theorem Canon.putRecord {die slot r} (h : Canon s) : Canon (s.putRecord die slot r) := h

theorem Canon.execBindRecordWrite {die slot r} (h : Canon s) : OnNext (execBindRecordWrite die slot r s) := by
  unfold Machine.execBindRecordWrite
  split
  · exact .next h.push
  · next next _ =>
      split
      · exact .next h.putRecord
      · split
        · exact .next h.putRecord.removeTeams
        · split
          · exact .next h.frame.kick
          · exact .next h.putRecord.kick

theorem Canon.serveWhole {die slot n} (h : Canon s) : OnSome Canon (s.serveWhole die slot n) := by
  induction n generalizing s with
  | zero => exact .some h
  | succ n ih =>
    rw [State.serveWhole]
    split
    · split
      · exact h.serveRecord.bind fun _ h => ih h
      · exact .some h
    · exact .none

theorem Canon.admitRecord {x} (h : Canon s) : OnSome Canon (s.admitRecord x) := by
  unfold State.admitRecord
  cases (s.die x.1).freeSlot 0 with
  | none => exact .none
  | some slot => exact h.putRecord.serveWhole

theorem Canon.admitLaunch {id l} (h : Canon s) : OnSome Canon (s.admitLaunch id l) :=
  OnSome.foldl (.some h.frame) fun _ _ hr => hr.bind fun _ h => h.admitRecord

theorem Canon.dispatchAt {die prio} (h : Canon s) : OnSome Canon (s.dispatchAt die prio) := by
  unfold State.dispatchAt
  split
  · next e => exact .some ((OnSome.findSome? fun _ => h.serveRecord).of_some e)
  · exact .findSome? fun _ => h.admitLaunch

theorem Canon.dispatchOne {die} (h : Canon s) : OnSome Canon (s.dispatchOne die) := .findSome? fun _ => h.dispatchAt

theorem Canon.listRemoved {die c} (h : Canon s) : Canon (s.listRemoved die c) := by
  unfold State.listRemoved
  extract_lets x
  split
  · exact h
  · split
    extract_lets done failed
    have hfailed {e} : Canon (failed e) := by
      unfold failed
      extract_lets t
      split
      · exact h.failedAt
      · exact h.failedAt.setCtx
    split
    · exact hfailed
    · split
      · exact hfailed
      · next e => exact (h.vwrite.of_ok e).countRange.setCtx.kick

theorem Canon.readMaps {die} (h : Canon s) : Canon (s.readMaps die) := by
  unfold State.readMaps
  extract_lets s₁
  refine (h.foldl fun _ _ h => h.listRemoved).foldl fun s x h' => ?_
  split
  · split
    · split
      · exact h'.failedAt
      · exact h'
    · exact h'
  · exact h'

theorem Canon.execTeamDispatch {die} (h : Canon s) : OnNext (execTeamDispatch die s) := by
  unfold Machine.execTeamDispatch
  extract_lets s₁
  split
  · exact .next h.readMaps
  · next e => exact .next (h.readMaps.dispatchOne.of_some e).kick

theorem Canon.countLaunch {die ctx l} (h : Canon s) : Canon (s.countLaunch die ctx l) := by
  unfold State.countLaunch
  extract_lets s₁
  split
  · exact h.countRange
  · exact h.countRange.countRange

theorem Canon.nextLaunch {die} (h : Canon s) : Canon (s.nextLaunch die).1 := h.setDie

theorem Canon.openLaunch {id l} (h : Canon s) : Canon (s.openLaunch id l) := by
  unfold State.openLaunch
  extract_lets s₁
  split
  · exact h.frame.kick
  · exact h.frame.push

theorem Canon.setNode {die i f} (h : Canon s) : Canon (s.setNode die i f) := h

theorem Canon.skipNodes {die g ns} (h : Canon s) : Canon (s.skipNodes die g ns) := by
  unfold State.skipNodes
  refine h.foldl fun s i h' => ?_
  split
  · exact h'.nodeRecord
  · exact h'

theorem Canon.endGraph {die g} (h : Canon s) : Canon (s.endGraph die g) := by
  unfold State.endGraph
  extract_lets d nodes failed
  split
  · exact h
  · exact h.setDie.packetDone

theorem Canon.launchNode {die g i} (h : Canon s) : Canon (s.launchNode die g i).1 := by
  unfold State.launchNode
  extract_lets b f l
  split
  next e =>
  have ht := h.nextLaunch.of_pair e
  extract_lets failed
  have hfailed {t code} (h : Canon t) : Canon (failed t code) := h.nodeRecord
  split
  · exact ht.countLaunch.setNode.nodeTrace.openLaunch
  · dsimp only
    split
    · exact (hfailed ht).queueError
    · exact hfailed ht
  · dsimp only
    split
    · exact ht.failedAt
    · exact hfailed ht.failedAt

theorem Canon.launchNodes {die g ns} (h : Canon s) : Canon (s.launchNodes die g ns) := by
  unfold State.launchNodes
  refine h.foldl fun s i h' => ?_
  split
  · exact h'
  · extract_lets r d
    split
    · exact h'.launchNode
    · exact h'.launchNode.skipNodes

theorem Canon.nodeDone {die i failed} (h : Canon s) : Canon (s.nodeDone die i failed) := by
  unfold State.nodeDone
  extract_lets d succs s₁ ready
  split
  · exact h
  · split
    · exact h.skipNodes.endGraph
    · exact (h.foldl fun _ _ h => h.setNode).launchNodes.endGraph

theorem Canon.execLaunchComplete {die launch} (h : Canon s) : OnNext (execLaunchComplete die launch s) := by
  unfold Machine.execLaunchComplete
  split
  · exact .next h
  · split
    · exact .next h
    · extract_lets s₁
      split
      · exact .next h.frame.packetDone
      · exact .next h.frame.nodeRecord.nodeDone

/-! ### The operations of Machine/Front -/

theorem Canon.queueFault {die q e} (h : Canon s) : Canon (s.queueFault die q e) := by
  unfold State.queueFault
  split
  · exact h
  · exact h.queueError

theorem Canon.took {die q} (h : Canon s) : Canon (s.took die q) := h

theorem Canon.block {die q sig} (h : Canon s) : Canon (s.block die q sig) := h

theorem Canon.waitOn {die q} (h : Canon s) : Canon (s.waitOn die q) := by
  unfold State.waitOn
  extract_lets x
  split
  · exact h
  · exact h.block

theorem Canon.retest {die} (h : Canon s) : Canon (s.retest die) := by
  unfold State.retest
  refine h.foldl fun s q h' => ?_
  extract_lets x
  split
  · exact h'
  · split
    · exact h'.readyQueue
    · split
      · exact h'.waitOn
      · exact h'

theorem Canon.openPacket {die q index} (h : Canon s) : Canon (s.openPacket die q index) := h

theorem Canon.finishPacket {p status code launch} (h : Canon s) : Canon (s.finishPacket p status code launch) := h.took.packetDone

theorem Canon.doSetsig {p} (h : Canon s) : Canon (s.doSetsig p) := by
  unfold State.doSetsig
  extract_lets val r
  have hr : OnOk Canon r := by
    unfold r
    split
    · exact h.signalSet
    · exact h.signalAdd
  clear_value r
  split
  · exact h.failedSignal.queueFault
  · exact (hr.of_ok rfl).countRange.finishPacket.notify

theorem Canon.doWaitsig {p} (h : Canon s) : Canon (s.doWaitsig p) := by
  unfold State.doWaitsig
  split
  · exact h.failedAt.queueFault
  · extract_lets s₁
    split
    · exact h.countRange.finishPacket
    · exact h.countRange.block

theorem Canon.doFence {p} (h : Canon s) : Canon (s.doFence p) := by
  unfold State.doFence
  split
  · exact h.finishPacket
  · exact h.block

theorem Canon.doStamp {p} (h : Canon s) : Canon (s.doStamp p) := by
  unfold State.doStamp
  split
  · exact h.failedAt.queueFault
  · next e => exact (h.vwrite.of_ok e).countRange.finishPacket

theorem Canon.doCopy {p} (h : Canon s) : Canon (s.doCopy p) := by
  unfold State.doCopy
  split
  · exact h.block
  · extract_lets r
    split
    · exact h.chainStart.took.openPacket
    · exact h.queueError

theorem Canon.doGraph {p} (h : Canon s) : Canon (s.doGraph p) := by
  unfold State.doGraph
  extract_lets d first n g s₁ all s₂ d1 s₃ roots s₄
  have h₄ : Canon s₄ := by
    unfold s₄
    split
    · exact (h.took.openPacket.foldl fun _ _ h => h.setNode).setDie.skipNodes
    · exact (h.took.openPacket.foldl fun _ _ h => h.setNode).setDie.launchNodes
  split
  · exact h.block
  · split
    · exact h.queueError
    · exact h₄.endGraph

theorem Canon.doLaunch {p} (h : Canon s) : Canon (s.doLaunch p) := by
  unfold State.doLaunch
  split
  · exact h.block
  · extract_lets l
    split
    · next e₁ =>
        split
        · exact (h.nextLaunch.of_pair e₁).countLaunch.took.openPacket.openLaunch
        · split
          · exact (h.nextLaunch.of_pair e₁).packetDone.queueError
          · exact (h.nextLaunch.of_pair e₁).finishPacket
        · extract_lets t
          split
          · exact (h.nextLaunch.of_pair e₁).failedAt
          · exact (h.nextLaunch.of_pair e₁).failedAt.finishPacket

theorem Canon.decidePacket {p} (h : Canon s) : Canon (s.decidePacket p) := by
  unfold State.decidePacket
  split
  · exact h
  · split
    · exact h.finishPacket
    · exact h.doLaunch
    · exact h.doGraph
    · exact h.doWaitsig
    · exact h.doSetsig
    · exact h.doCopy
    · exact h.doStamp
    · exact h.doFence

theorem Canon.readLanes {die qs} (h : Canon s) : Canon (s.readLanes die qs).1 := by
  induction qs generalizing s with
  | nil => exact h
  | cons q qs ih =>
    rw [State.readLanes]
    split
    · exact ih h.failedAt.queueFault
    · split
      · exact ih h.countRange.queueError
      · split
        · exact ih h.countRange.block
        · exact ih h.countRange

theorem Canon.execPacketProcessorStep {die} (h : Canon s) : OnNext (execPacketProcessorStep die s) := by
  unfold Machine.execPacketProcessorStep
  extract_lets t t' r u
  have hu : Canon u := h.retest.setDie.readLanes.foldl fun _ _ h => h.foldl fun _ _ h => h.decidePacket
  refine .next ?_
  split
  · exact hu.kick
  · exact hu

theorem Canon.execWaitsigTimeout {die queue} (h : Canon s) : OnNext (execWaitsigTimeout die queue s) := by
  unfold Machine.execWaitsigTimeout
  extract_lets x e
  split
  · exact .next h.failedAt
  · split
    · exact .next h
    · split
      · exact .next h.queueError
      · exact .next h.kick

theorem Canon.execCompletionRecordRetry {die ctx} (h : Canon s) : OnNext (execCompletionRecordRetry die ctx s) := by
  unfold Machine.execCompletionRecordRetry
  extract_lets r s₁
  split
  · exact .next h
  · refine .next ?_
    split
    · exact h.drainCompletions.leaveContext
    · exact h.drainCompletions.leaveContext.kick

/-! ### The operations of Machine/Preempt -/

theorem Canon.drainTrace {c d step} (h : Canon s) : Canon (s.drainTrace c d step) := h.foldl fun _ _ h => h.preemptTrace

theorem Canon.escalate {c d reason} (h : Canon s) : Canon (s.escalate c d reason) := by
  unfold State.escalate
  extract_lets x s₁ s₂
  refine h.setCtx.drainTrace.foldl fun s x h' => ?_
  split
  · exact h'.setGang.kick
  · exact h'

theorem Canon.startDrain {c die save mails} (h : Canon s) : Canon (s.startDrain c die save mails) := by
  unfold State.startDrain
  extract_lets x d s₁ s₂ s₃ s₄
  have h₂ : Canon s₂ := by
    unfold s₂
    refine h.setCtx.foldl fun s k h' => ?_
    split
    · exact h'.stopQueues
    · exact h'
  have h₄ : Canon s₄ := by
    unfold s₄
    split
    · exact h₂.drainTrace.escalate
    · split
      · exact h₂.drainTrace.escalate
      · split
        · exact h₂.drainTrace.escalate
        · exact h₂.drainTrace
  exact h₄.checkDrain

theorem Canon.execDrainlimExpiry {ctx} (h : Canon s) : OnNext (execDrainlimExpiry ctx s) := .next (h.foldl fun _ _ h => h.escalate)

theorem Canon.withdraw {g sp} (h : Canon s) : Canon (s.withdraw g sp) := by
  unfold State.withdraw
  split
  · split
    · exact h
    · extract_lets b n
      split
      · exact h
      · exact h.setTeam
  · exact h

theorem Canon.freezeNest {g} (h : Canon s) : Canon (s.freezeNest g).1 := by
  unfold State.freezeNest
  split
  · exact h
  · split
    · exact h.setCore.kick
    · exact h

theorem Canon.execPreemptEntry {gang} (h : Canon s) : OnNext (execPreemptEntry gang s) := by
  unfold Machine.execPreemptEntry
  split
  · exact .next h
  · split
    · exact .next h
    · next next _ =>
        split
        · exact .next h
        · extract_lets r s₁ g1
          have h₁ : Canon s₁ := by
            unfold s₁
            refine h.foldl fun s o h' => ?_
            split
            · exact h'.withdraw
            · exact h'
          split
          · exact .next h.freezeNest
          · split
            · exact .next h.freezeNest
            · split
              · exact .next h.drainFailure
              · split
                · exact .next h₁
                · exact .next h₁.setGang.trapTrace.preemptTrace

theorem Canon.execForcedSaveHeldTimeout {ctx} (h : Canon s) : OnNext (execForcedSaveHeldTimeout ctx s) := by
  unfold Machine.execForcedSaveHeldTimeout
  split
  · exact .next h.drainFailure
  · exact .next h

theorem Canon.execHandlerRttTimeout {ctx} (h : Canon s) : OnNext (execHandlerRttTimeout ctx s) := by
  unfold Machine.execHandlerRttTimeout
  split
  · exact .next h.drainFailure
  · exact .next h

/-! ### The operations of Machine/Reset -/

theorem Canon.failTeams {cores code} (h : Canon s) : Canon (s.failTeams cores code) := by
  unfold State.failTeams
  extract_lets s₁ s₂
  have h₂ : Canon s₂ := h.frame.dropGangs
  refine h₂.foldl fun s t h' => ?_
  split
  · exact h'.endTeam
  · exact h'

theorem Canon.startCoreReset {core m} (h : Canon s) : Canon (s.startCoreReset core m) := by
  unfold State.startCoreReset
  extract_lets c s₁ s₂ c1
  split
  · exact h.setCore
  · exact h.setCore.failTeams.setCore.push

theorem Canon.execCoreResetComplete {core} (h : Canon s) : OnNext (execCoreResetComplete core s) := by
  unfold Machine.execCoreResetComplete
  extract_lets c s₁ s₂
  have h₁ : Canon s₁ := wf_wipe h _ _
  split
  · exact .next h
  · exact .next h₁.setCore.restartCycles.replyAll.kick

theorem Canon.failWork {die} (h : Canon s) : Canon (s.failWork die) := by
  unfold State.failWork
  extract_lets mine s₁ s₂
  have h₁ : Canon s₁ := by
    unfold s₁
    refine h.foldl fun s x h' => ?_
    split
    · exact h'.abandonLaunch
    · exact h'
  refine (h₁.foldl fun _ _ h => h.abandonGraphs).foldl fun s x h' => ?_
  split
  · exact h'.abortRecord.walkRecord.setChan
  · exact h'

theorem Canon.loseRecords {die} (h : Canon s) : Canon (s.loseRecords die) := by
  unfold State.loseRecords
  extract_lets d
  refine h.foldl fun s x h' => ?_
  extract_lets n id
  split
  · exact h'
  · extract_lets s₁
    have h₁ : Canon s₁ := h'
    split
    · exact h₁.push
    · exact h₁

theorem Canon.sweepContexts (h : Canon s) : Canon (s.sweepContexts) := h

theorem Canon.failDrain {die c} (h : Canon s) : Canon (s.failDrain die c) := by
  unfold State.failDrain
  extract_lets x
  split
  · exact h.setCtx.irq
  · exact h

theorem Canon.startDieReset {die mails} (h : Canon s) : Canon (s.startDieReset die mails) := by
  unfold State.startDieReset
  extract_lets d ctxs s₁ s₂ s₃ _ s₄ s₅ s₆ s₇ cores s₈ s₉ s10
  have h₄ : Canon s₄ := ((h.failWork.loseRecords.foldl fun _ _ h => h.failDrain).foldl fun _ _ h => (h.foldl fun _ _ h => h.releaseToken)).frame
  have h₈ : Canon s₈ := h₄.failTeams.endAttar.setDie.replyAll.foldl fun _ _ h => h.frame.replyAll
  split
  · exact h.replyAll
  · exact (h₈.restartCycles.foldl fun _ _ h => h.checkDrain).sweepContexts.push

theorem Canon.execDieResetComplete {die} (h : Canon s) : OnNext (execDieResetComplete die s) := by
  unfold Machine.execDieResetComplete
  extract_lets d s₁ s₂
  split
  · exact .next h
  · exact .next (h.wipeDie.restartCycles.setDie.foldl fun _ _ h => h.leaveContext).sweepContexts.replyAll

theorem Canon.performNow {sock p} (h : Canon s) : Canon (s.performNow sock p) := by
  unfold State.performNow
  split
  · next e => exact h.execMemoryRequest.of_next e
  · exact h

theorem Canon.flushRouter {r} (h : Canon s) : Canon (s.flushRouter r) :=
  (h.setBase.foldl fun _ _ h => (h.foldl fun _ _ h => h.depart)).frame.foldl fun _ _ h => h.performNow

theorem Canon.failColls {r} (h : Canon s) : Canon (s.failColls r) := by
  unfold State.failColls
  refine h.foldl fun s x h' => ?_
  split
  · split
    · exact h'.setJob.settle
    · exact h'
  · exact h'

theorem Canon.startBaseReset {r m} (h : Canon s) : Canon (s.startBaseReset r m) := by
  unfold State.startBaseReset
  extract_lets b s₁ s₂ groups _ s₃ s₄ gone mem s₅ s₆ _ s₇
  have h₂ : Canon s₂ := h.flushRouter.foldl fun _ _ h => h.endProgram
  have h₄ : Canon s₄ := h₂.setBase.foldl fun _ _ h => h.refuse
  have hm : mem.wf = true := wf_foldl _ (fun _ _ hm => wf_clear hm _ _) _ h₄
  have h₅ : Canon s₅ := .stored hm
  have h₆ : Canon s₆ := h₅.failColls
  clear_value s₆
  split
  · exact h.setBase
  · exact h₆.frame.push

theorem Canon.execBaseDieResetComplete {sock} (h : Canon s) : OnNext (execBaseDieResetComplete sock s) := by
  unfold Machine.execBaseDieResetComplete
  extract_lets b s₁ _ s₂
  split
  · exact .next h
  · exact .next h.frame.replyAll.push

theorem Canon.resetPackage (h : Canon s) : Canon (s.resetPackage) := wf_dramOnly h

theorem Canon.execFundamentalReset (h : Canon s) : OnNext (execFundamentalReset s) := .next h.resetPackage

theorem Canon.execPowerGood (h : Canon s) : OnNext (execPowerGood s) :=
  .next (cellsWf_filter _ _ _ h.resetPackage)

theorem Canon.execFunctionLevelReset {fn} (h : Canon s) : OnNext (execFunctionLevelReset fn s) := by
  unfold Machine.execFunctionLevelReset
  split
  · exact .next h.startDieReset
  · exact .next h

/-! ### The operations of Machine/Manage -/

theorem Canon.badSocket {m} (h : Canon s) : Canon (s.badSocket m) := h

theorem Canon.serve {m sockets n ok k} (h : Canon s) (hk : ∀ t, Canon t → Canon (k t)) : Canon (s.serve m sockets n ok k) := by
  unfold State.serve
  split
  · exact h.badSocket.replyWords
  · split
    · exact h.replyWords
    · split
      · exact h.replyWords
      · split
        · exact h.replyWords
        · exact hk s h

theorem Canon.execPowerRead {m} (h : Canon s) : OnNext (execPowerRead m s) := .next (h.serve (fun _ hs => hs.replyWords))

theorem Canon.execPowerPackageLimit {m} (h : Canon s) : OnNext (execPowerPackageLimit m s) := by
  unfold Machine.execPowerPackageLimit
  refine .next ?_
  refine h.serve fun s hs => ?_
  refine Canon.replyWords ?_
  split <;> exact hs

theorem Canon.execPowerIslandLimit {m} (h : Canon s) : OnNext (execPowerIslandLimit m s) := by
  unfold Machine.execPowerIslandLimit
  extract_lets i v
  refine .next ?_
  refine h.serve fun s hs => ?_
  extract_lets s₁ _
  have h₁ : Canon s₁ := by
    unfold s₁
    split
    · exact hs.setClock
    · exact hs
  exact h₁.frame.replyWords

theorem Canon.execPowerDieDown {m} (h : Canon s) : OnNext (execPowerDieDown m s) := by
  unfold Machine.execPowerDieDown
  refine .next ?_
  refine h.serve fun s hs => ?_
  extract_lets k d s₁ ctxs
  split
  · exact hs.replyWords
  · split
    · exact hs.replyWords
    · exact (hs.setDie.foldl fun _ _ h => h.startDrain).checkDown

theorem Canon.execPowerDieUp {m} (h : Canon s) : OnNext (execPowerDieUp m s) := by
  unfold Machine.execPowerDieUp
  refine .next ?_
  refine h.serve fun s hs => ?_
  extract_lets k _ s₁ src
  have h₁ : Canon s₁ := by
    unfold s₁
    split
    · exact hs.restartCycles
    · exact hs
  split
  · exact hs.setDie
  · exact h₁.setDie.replyWords

theorem Canon.execResetDrain {m} (h : Canon s) : OnNext (execResetDrain m s) := by
  unfold Machine.execResetDrain
  refine .next ?_
  refine h.serve fun s hs => ?_
  split
  · exact hs
  · exact hs.startDrain

theorem Canon.execResetCore {m} (h : Canon s) : OnNext (execResetCore m s) := .next (h.serve (fun _ hs => hs.startCoreReset))

theorem Canon.execResetMatrixEngine {m} (h : Canon s) : OnNext (execResetMatrixEngine m s) :=
  .next (h.serve (fun _ hs => hs.resetEngine.replyWords))

theorem Canon.execResetDie {m} (h : Canon s) : OnNext (execResetDie m s) := by
  unfold Machine.execResetDie
  split
  · exact .next h.replyWords
  · exact .next (h.serve (fun s hs => hs.startDieReset))

theorem Canon.execResetBaseDie {m} (h : Canon s) : OnNext (execResetBaseDie m s) := .next (h.serve (fun _ hs => hs.startBaseReset))

theorem Canon.execResetPackage {m} (h : Canon s) : OnNext (execResetPackage m s) := .next (h.serve (fun _ hs => hs.replyWords.resetPackage))

theorem Canon.execResetTlbinv {m} (h : Canon s) : OnNext (execResetTlbinv m s) := by
  unfold Machine.execResetTlbinv
  refine .next ?_
  refine h.serve fun s hs => ?_
  split
  · exact hs
  · exact hs.dropTlb.replyWords

theorem Canon.setErrlog {m l} (h : Canon s) : Canon (s.setErrlog m l) := h

theorem Canon.execErrlogRead {m} (h : Canon s) : OnNext (execErrlogRead m s) := by
  unfold Machine.execErrlogRead
  refine .next ?_
  refine h.serve fun s hs => ?_
  extract_lets l
  split
  · exact hs.replyWords
  · exact hs.setErrlog.replyWords

theorem Canon.execErrlogCounters {m} (h : Canon s) : OnNext (execErrlogCounters m s) := .next (h.serve (fun _ hs => hs.replyWords))

theorem Canon.execErrlogClear {m} (h : Canon s) : OnNext (execErrlogClear m s) := .next (h.serve (fun _ hs => hs.setErrlog.replyWords))

theorem Canon.execTimeStatus {m} (h : Canon s) : OnNext (execTimeStatus m s) := .next (h.serve (fun _ hs => hs.replyWords))

theorem Canon.execTimeStep {m} (h : Canon s) : OnNext (execTimeStep m s) := .next (h.serve (fun s hs => hs.frame.replyWords))

theorem Canon.execTimeLoad {m} (h : Canon s) : OnNext (execTimeLoad m s) := .next (h.serve (fun s hs => hs.frame.replyWords))

theorem Canon.execTimePortSelect {m} (h : Canon s) : OnNext (execTimePortSelect m s) := .next (h.serve (fun s hs => hs.frame.replyWords))

theorem Canon.execPtpSync {offset ppb master} (h : Canon s) : OnNext (execPtpSync offset ppb master s) := .next h

theorem Canon.execIoDieFailover (h : Canon s) : OnNext (execIoDieFailover s) := .next h

theorem Canon.execKeysLoad {m keys secured} (h : Canon s) : OnNext (execKeysLoad m keys secured s) := by
  unfold Machine.execKeysLoad
  split
  · exact .next (h.serve (fun s hs => hs.replyWords))
  · split
    · exact .next h.badSocket.emit
    · split
      · exact .next h.emit
      · split
        · exact .next h.emit
        · exact .next h.frame.emit

theorem Canon.execKeysClear {m} (h : Canon s) : OnNext (execKeysClear m s) := .next (h.serve (fun s hs => hs.frame.replyWords))

theorem Canon.execKeysRead {m} (h : Canon s) : OnNext (execKeysRead m s) := by
  unfold Machine.execKeysRead
  refine .next ?_
  refine h.serve fun s hs => ?_
  split <;> exact hs.replyWords

theorem Canon.setRing {m r} (h : Canon s) : Canon (s.setRing m r) := h

theorem Canon.execTelemetrySetRing {m} (h : Canon s) : OnNext (execTelemetrySetRing m s) :=
  .next (h.serve (fun _ hs => hs.setRing.traceDrops.replyWords))

theorem Canon.execTelemetryDrain {m} (h : Canon s) : OnNext (execTelemetryDrain m s) := by
  unfold Machine.execTelemetryDrain
  extract_lets n
  refine .next ?_
  refine h.serve fun s hs => ?_
  extract_lets r s'
  refine Canon.replyWords ?_
  split
  · exact hs.setRing.traceDrops
  · exact hs.setRing

theorem Canon.execTelemetryRead {m} (h : Canon s) : OnNext (execTelemetryRead m s) := .next (h.serve (fun _ hs => hs.replyWords))

theorem Canon.execRoutesSetPkg {m} (h : Canon s) : OnNext (execRoutesSetPkg m s) := by
  unfold Machine.execRoutesSetPkg
  refine .next ?_
  refine h.serve fun s hs => ?_
  extract_lets busy _
  split
  · exact hs.replyWords
  · exact hs.frame.replyWords

theorem Canon.execRoutesWrite {m} (h : Canon s) : OnNext (execRoutesWrite m s) := .next (h.serve (fun _ hs => hs.setBase.replyWords))

theorem Canon.execRoutesAgemax {m} (h : Canon s) : OnNext (execRoutesAgemax m s) := .next (h.serve (fun _ hs => hs.setBase.replyWords))

theorem Canon.execRoutesPartitionMap {m} (h : Canon s) : OnNext (execRoutesPartitionMap m s) :=
  .next (h.serve (fun _ hs => hs.setBase.replyWords))

theorem Canon.execMigrationThreshold {m} (h : Canon s) : OnNext (execMigrationThreshold m s) :=
  .next (h.serve (fun _ hs => hs.setBase.replyWords))

theorem Canon.execMigrationReadCounters {m} (h : Canon s) : OnNext (execMigrationReadCounters m s) :=
  .next (h.serve (fun _ hs => hs.setBase.reply))

theorem Canon.execGovernorClockChange {island mhz} (h : Canon s) : OnNext (execGovernorClockChange island mhz s) := by
  unfold Machine.execGovernorClockChange
  extract_lets ok
  refine .next ?_
  split
  · exact h.setClock
  · exact h

/-! ### The operations of Machine/Secure -/

theorem Canon.spdm {req states code next fixed} (h : Canon s) : OnNext (spdm req states code next fixed s) := by
  unfold Machine.spdm
  split
  · exact .next h
  · split
    · exact .next h.emit
    · exact .next h.frame.emit

theorem Canon.spdmRead {req code fixed} (h : Canon s) : OnNext (spdmRead req code fixed s) := h.spdm

theorem Canon.execGetVersion {req} (h : Canon s) : OnNext (execGetVersion req s) := h.spdm

theorem Canon.execGetCapabilities {req} (h : Canon s) : OnNext (execGetCapabilities req s) := h.spdm

theorem Canon.execNegotiateAlgorithms {req} (h : Canon s) : OnNext (execNegotiateAlgorithms req s) := h.spdm

theorem Canon.execGetDigests {req} (h : Canon s) : OnNext (execGetDigests req s) := h.spdmRead

theorem Canon.execGetCertificate {req} (h : Canon s) : OnNext (execGetCertificate req s) := h.spdmRead

theorem Canon.execChallenge {req} (h : Canon s) : OnNext (execChallenge req s) := h.spdmRead

theorem Canon.execGetMeasurements {req} (h : Canon s) : OnNext (execGetMeasurements req s) := h.spdmRead

theorem Canon.execKeyExchange {req} (h : Canon s) : OnNext (execKeyExchange req s) := h.spdm

theorem Canon.execFinish {req} (h : Canon s) : OnNext (execFinish req s) := h.spdm

theorem Canon.execEndSession {req} (h : Canon s) : OnNext (execEndSession req s) := h.spdm

theorem Canon.execIdeKm {fn stream key} (h : Canon s) : OnNext (execIdeKm fn stream key s) := by
  unfold Machine.execIdeKm
  split <;> exact .next h

theorem Canon.execTdispMessage {fn req} (h : Canon s) : OnNext (execTdispMessage fn req s) := by
  unfold Machine.execTdispMessage
  split
  · exact .next h
  · exact .next h.frame.emit

theorem Canon.execFirmwareImageWrite {image signed} (h : Canon s) : OnNext (execFirmwareImageWrite image signed s) := .next h

/-! ### The operations of Machine/Agenda -/

theorem Canon.answer {m status} (h : Canon s) : OnNext (s.answer m status) := .next h.replyWords

theorem Canon.mailPower {op m} (h : Canon s) : OnNext (s.mailPower op m) := by
  unfold State.mailPower
  split
  · exact h.execPowerRead
  · exact h.execPowerPackageLimit
  · exact h.execPowerIslandLimit
  · split
    · exact h.execPowerDieUp
    · exact h.execPowerDieDown
  · exact h.answer

theorem Canon.mailReset {op m} (h : Canon s) : OnNext (s.mailReset op m) := by
  unfold State.mailReset
  split
  · exact h.execResetDrain
  · exact h.execResetCore
  · exact h.execResetMatrixEngine
  · exact h.execResetDie
  · exact h.execResetBaseDie
  · exact h.execResetPackage
  · exact h.execResetTlbinv
  · exact h.answer

theorem Canon.mailErrlog {op m} (h : Canon s) : OnNext (s.mailErrlog op m) := by
  unfold State.mailErrlog
  split
  · exact h.execErrlogRead
  · exact h.execErrlogCounters
  · exact h.execErrlogClear
  · exact h.answer

theorem Canon.mailTime {op m} (h : Canon s) : OnNext (s.mailTime op m) := by
  unfold State.mailTime
  split
  · exact h.execTimeStatus
  · exact h.execTimeStep
  · exact h.execTimeLoad
  · exact h.execTimePortSelect
  · exact h.answer

theorem Canon.mailKeys {op m} (h : Canon s) : OnNext (s.mailKeys op m) := by
  unfold State.mailKeys
  split
  · exact h.execKeysLoad
  · exact h.execKeysClear
  · exact h.execKeysRead
  · exact h.answer

theorem Canon.mailTelemetry {op m} (h : Canon s) : OnNext (s.mailTelemetry op m) := by
  unfold State.mailTelemetry
  split
  · exact h.execTelemetrySetRing
  · exact h.execTelemetryDrain
  · exact h.execTelemetryRead
  · exact h.answer

theorem Canon.mailRoutes {op m} (h : Canon s) : OnNext (s.mailRoutes op m) := by
  unfold State.mailRoutes
  split
  · exact h.execRoutesSetPkg
  · exact h.execRoutesWrite
  · exact h.execRoutesAgemax
  · exact h.execRoutesPartitionMap
  · exact h.answer

theorem Canon.mailMigration {op m} (h : Canon s) : OnNext (s.mailMigration op m) := by
  unfold State.mailMigration
  split
  · exact h.execMigrationThreshold
  · exact h.execMigrationReadCounters
  · exact h.answer

theorem Canon.runMail {endpoint op m} (h : Canon s) : OnNext (s.runMail endpoint op m) := by
  unfold State.runMail
  split
  · exact h.badSocket.answer
  · split
    · exact h.mailPower
    · exact h.mailReset
    · exact h.mailErrlog
    · exact h.mailTime
    · exact h.mailKeys
    · exact h.mailTelemetry
    · exact h.mailRoutes
    · exact h.mailMigration
    · exact h.answer

theorem Canon.runPending {a} (h : Canon s) : OnNext (s.runPending a) := by
  unfold State.runPending
  split
  · exact h.execAccessComplete
  · exact h.execRouterPacketArrive
  · exact h.execOutputGrant
  · exact h.execMemoryRequest
  · exact h.execEchoReply
  · exact h.execFailedReply
  · exact h.execTokenAcquireRequest
  · exact h.execTokenRecall
  · exact h.execRecallAck
  · exact h.execResponseTimeout
  · exact h.execQuarterOpComplete
  · exact h.execMatrixHang
  · exact h.execTileStep
  · exact h.execPrismTileWrite
  · exact h.execCopyJobComplete
  · exact h.execCopymReceiverArrive
  · exact h.execChainRecordStep
  · exact h.execNetRetryTimeout
  · exact h.execAttarStart
  · exact h.execContributionAccept
  · exact h.execContributionRetry
  · exact h.execMessageStore
  · exact h.execMessageExpiry
  · exact h.execCrecvTimeout
  · exact h.execSlotDeadline
  · exact h.execPacketProcessorStep
  · exact h.execWaitsigTimeout
  · exact h.execLaunchComplete
  · exact h.execCompletionRecordRetry
  · exact h.execBindRecordWrite
  · exact h.execTeamDispatch
  · exact h.execPreemptEntry
  · exact h.execGangEnd
  · exact h.execDozeWake
  · exact h.execFusetmoExpiry
  · exact h.execDrainlimExpiry
  · exact h.execForcedSaveHeldTimeout
  · exact h.execHandlerRttTimeout
  · exact h.execDieResetComplete
  · exact h.execBaseDieResetComplete
  · exact h.execCoreResetComplete
  · exact h.execRouteRecompute
  · exact .next h.runHost
  · refine .next ?_
    split
    · exact h.foundBad
    · exact h
  · exact h.execLinkDown
  · exact .next h.retryTraps
  · exact .next h.sealedStep
  · exact h.runMail

/-! ### The operations of Machine/Clause -/

theorem Canon.execClauseIssue {hdr} (h : Canon s) : OnNext (execClauseIssue hdr s) := by
  unfold Machine.execClauseIssue
  split
  · exact .fault
  · split
    · exact .next h.takeTrap
    · split
      · exact .next h.hold
      · split
        · next e =>
          split at e
          · exact .next (h.deliver.of_some e)
          · cases e
        · exact .next h.put

theorem Canon.execIssueAgePromotion {gang entry} (h : Canon s) : OnNext (execIssueAgePromotion gang entry s) := by
  unfold Machine.execIssueAgePromotion
  split
  · exact .next h
  · split
    · exact .next h
    · exact .next h.setGang

/-! ### The operations of Machine/Compare -/

theorem Canon.execCmpeq {d a b} (h : Canon s) : OnNext (execCmpeq d a b s) := h.cmp32

theorem Canon.execCmpne {d a b} (h : Canon s) : OnNext (execCmpne d a b s) := h.cmp32

theorem Canon.execCmplt {d a b} (h : Canon s) : OnNext (execCmplt d a b s) := h.cmp32

theorem Canon.execCmple {d a b} (h : Canon s) : OnNext (execCmple d a b s) := h.cmp32

theorem Canon.execCmpltu {d a b} (h : Canon s) : OnNext (execCmpltu d a b s) := h.cmp32

theorem Canon.execCmpleu {d a b} (h : Canon s) : OnNext (execCmpleu d a b s) := h.cmp32

theorem Canon.execPand {d a b} (h : Canon s) : OnNext (execPand d a b s) := h.binPred

theorem Canon.execPor {d a b} (h : Canon s) : OnNext (execPor d a b s) := h.binPred

theorem Canon.execPxor {d a b} (h : Canon s) : OnNext (execPxor d a b s) := h.binPred

theorem Canon.execPnot {d a} (h : Canon s) : OnNext (execPnot d a s) := h.laneWord

theorem Canon.execP2v {d a} (h : Canon s) : OnNext (execP2v d a s) := h.laneWord

theorem Canon.execV2p {d a} (h : Canon s) : OnNext (execV2p d a s) := h.laneWord

theorem Canon.execFcmpeq {d a b} (h : Canon s) : OnNext (execFcmpeq d a b s) := h.fcmp32

theorem Canon.execFcmplt {d a b} (h : Canon s) : OnNext (execFcmplt d a b s) := h.fcmp32

theorem Canon.execFcmple {d a b} (h : Canon s) : OnNext (execFcmple d a b s) := h.fcmp32

theorem Canon.execFcmpun {d a b} (h : Canon s) : OnNext (execFcmpun d a b s) := h.fcmp32

theorem Canon.execDcmpeq {d a b} (h : Canon s) : OnNext (execDcmpeq d a b s) := h.fcmp64

theorem Canon.execDcmplt {d a b} (h : Canon s) : OnNext (execDcmplt d a b s) := h.fcmp64

theorem Canon.execDcmple {d a b} (h : Canon s) : OnNext (execDcmple d a b s) := h.fcmp64

theorem Canon.execDcmpun {d a b} (h : Canon s) : OnNext (execDcmpun d a b s) := h.fcmp64

/-! ### The operations of Machine/Cross -/

theorem Canon.shuffle {i d a b wide pv src} (h : Canon s) : OnNext (shuffle i d a b wide pv src s) := by
  unfold Machine.shuffle
  refine h.gangWord fun c => ?_
  split
  · exact .trap
  · exact .done h.put

theorem Canon.execShfl {d a b wide pv} (h : Canon s) : OnNext (execShfl d a b wide pv s) := h.shuffle

theorem Canon.execShflup {d a b wide pv} (h : Canon s) : OnNext (execShflup d a b wide pv s) := h.shuffle

theorem Canon.execShfldn {d a b wide pv} (h : Canon s) : OnNext (execShfldn d a b wide pv s) := h.shuffle

theorem Canon.execShflx {d a b wide pv} (h : Canon s) : OnNext (execShflx d a b wide pv s) := h.shuffle

theorem Canon.execVoteall {d a} (h : Canon s) : OnNext (execVoteall d a s) := by
  unfold Machine.execVoteall
  refine h.gangWord fun c => ?_
  split
  · exact .trap
  · exact .done h.put

theorem Canon.execVoteany {d a} (h : Canon s) : OnNext (execVoteany d a s) := by
  unfold Machine.execVoteany
  refine h.gangWord fun c => ?_
  split
  · exact .trap
  · exact .done h.put

theorem Canon.execBallot {d a} (h : Canon s) : OnNext (execBallot d a s) := by
  unfold Machine.execBallot
  refine h.gangWord fun c => ?_
  split
  · exact .trap
  · exact .done h.put

theorem Canon.execMatchLanes {d a} (h : Canon s) : OnNext (execMatchLanes d a s) := by
  unfold Machine.execMatchLanes
  refine h.gangWord fun c => ?_
  split
  · exact .trap
  · exact .done h.put

theorem Canon.reduction {i d a wide op among} (h : Canon s) : OnNext (reduction i d a wide op among s) := by
  unfold Machine.reduction
  refine h.gangWord fun c => ?_
  split
  · exact .trap
  · extract_lets r
    split
    · exact .trap
    · exact .done h.put

theorem Canon.execGred {d a wide op} (h : Canon s) : OnNext (execGred d a wide op s) := h.reduction

theorem Canon.execGscan {d a wide op} (h : Canon s) : OnNext (execGscan d a wide op s) := h.reduction

/-! ### The operations of Machine/Fp -/

theorem Canon.execFadd {d a b} (h : Canon s) : OnNext (execFadd d a b s) := h.fbin32

theorem Canon.execFsub {d a b} (h : Canon s) : OnNext (execFsub d a b s) := h.fbin32

theorem Canon.execFmul {d a b} (h : Canon s) : OnNext (execFmul d a b s) := h.fbin32

theorem Canon.execFdiv {d a b} (h : Canon s) : OnNext (execFdiv d a b s) := h.fbin32

theorem Canon.execFfma {d a b} (h : Canon s) : OnNext (execFfma d a b s) := h.fp32Word

theorem Canon.execFmin {d a b} (h : Canon s) : OnNext (execFmin d a b s) := h.fp32Word

theorem Canon.execFmax {d a b} (h : Canon s) : OnNext (execFmax d a b s) := h.fp32Word

theorem Canon.execDadd {d a b} (h : Canon s) : OnNext (execDadd d a b s) := h.fbin64

theorem Canon.execDsub {d a b} (h : Canon s) : OnNext (execDsub d a b s) := h.fbin64

theorem Canon.execDmul {d a b} (h : Canon s) : OnNext (execDmul d a b s) := h.fbin64

theorem Canon.execDdiv {d a b} (h : Canon s) : OnNext (execDdiv d a b s) := h.fbin64

theorem Canon.execDfma {d a b} (h : Canon s) : OnNext (execDfma d a b s) := h.fp64Word

theorem Canon.execDmin {d a b} (h : Canon s) : OnNext (execDmin d a b s) := h.fp64Word

theorem Canon.execDmax {d a b} (h : Canon s) : OnNext (execDmax d a b s) := h.fp64Word

theorem Canon.execFabs {d a} (h : Canon s) : OnNext (execFabs d a s) := h.un32

theorem Canon.execFneg {d a} (h : Canon s) : OnNext (execFneg d a s) := h.un32

theorem Canon.execFrcp {d a} (h : Canon s) : OnNext (execFrcp d a s) := h.fun32

theorem Canon.execFrsq {d a} (h : Canon s) : OnNext (execFrsq d a s) := h.fun32

theorem Canon.execFsqrt {d a} (h : Canon s) : OnNext (execFsqrt d a s) := h.fun32

theorem Canon.execFlog2 {d a} (h : Canon s) : OnNext (execFlog2 d a s) := h.fun32

theorem Canon.execFexp2 {d a} (h : Canon s) : OnNext (execFexp2 d a s) := h.fun32

theorem Canon.execFln {d a} (h : Canon s) : OnNext (execFln d a s) := h.fun32

theorem Canon.execFexp {d a} (h : Canon s) : OnNext (execFexp d a s) := h.fun32

theorem Canon.execDsqrt {d a} (h : Canon s) : OnNext (execDsqrt d a s) := h.fp64Word

/-! ### The operations of Machine/Integer -/

theorem Canon.execAdd {d a b} (h : Canon s) : OnNext (execAdd d a b s) := h.bin32

theorem Canon.execSub {d a b} (h : Canon s) : OnNext (execSub d a b s) := h.bin32

theorem Canon.execMul {d a b} (h : Canon s) : OnNext (execMul d a b s) := h.bin32

theorem Canon.execMulhi {d a b} (h : Canon s) : OnNext (execMulhi d a b s) := h.bin32

theorem Canon.execMulhu {d a b} (h : Canon s) : OnNext (execMulhu d a b s) := h.bin32

theorem Canon.execMin {d a b} (h : Canon s) : OnNext (execMin d a b s) := h.bin32

theorem Canon.execMax {d a b} (h : Canon s) : OnNext (execMax d a b s) := h.bin32

theorem Canon.execMinu {d a b} (h : Canon s) : OnNext (execMinu d a b s) := h.bin32

theorem Canon.execMaxu {d a b} (h : Canon s) : OnNext (execMaxu d a b s) := h.bin32

theorem Canon.execAdds {d a b} (h : Canon s) : OnNext (execAdds d a b s) := h.bin32

theorem Canon.execAddi {d a imm} (h : Canon s) : OnNext (execAddi d a imm s) := h.un32

theorem Canon.execMad {d a b} (h : Canon s) : OnNext (execMad d a b s) := h.laneWord

theorem Canon.execAbs {d a} (h : Canon s) : OnNext (execAbs d a s) := h.un32

theorem Canon.execAdd64 {d a b} (h : Canon s) : OnNext (execAdd64 d a b s) := h.bin64

theorem Canon.execSub64 {d a b} (h : Canon s) : OnNext (execSub64 d a b s) := h.bin64

theorem Canon.execMul64 {d a b} (h : Canon s) : OnNext (execMul64 d a b s) := h.bin64

/-! ### The operations of Machine/Logic -/

theorem Canon.execAnd {d a b} (h : Canon s) : OnNext (execAnd d a b s) := h.bin32

theorem Canon.execOr {d a b} (h : Canon s) : OnNext (execOr d a b s) := h.bin32

theorem Canon.execXor {d a b} (h : Canon s) : OnNext (execXor d a b s) := h.bin32

theorem Canon.execAndn {d a b} (h : Canon s) : OnNext (execAndn d a b s) := h.bin32

theorem Canon.execShl {d a b} (h : Canon s) : OnNext (execShl d a b s) := h.bin32

theorem Canon.execShr {d a b} (h : Canon s) : OnNext (execShr d a b s) := h.bin32

theorem Canon.execSar {d a b} (h : Canon s) : OnNext (execSar d a b s) := h.bin32

theorem Canon.execRotl {d a b} (h : Canon s) : OnNext (execRotl d a b s) := h.bin32

theorem Canon.execShli {d a imm} (h : Canon s) : OnNext (execShli d a imm s) := by
  unfold Machine.execShli
  split
  · exact h.gangWord fun x => .trap
  · exact h.un32

theorem Canon.execShri {d a imm} (h : Canon s) : OnNext (execShri d a imm s) := by
  unfold Machine.execShri
  split
  · exact h.gangWord fun x => .trap
  · exact h.un32

theorem Canon.execSari {d a imm} (h : Canon s) : OnNext (execSari d a imm s) := by
  unfold Machine.execSari
  split
  · exact h.gangWord fun x => .trap
  · exact h.un32

theorem Canon.execNot {d a} (h : Canon s) : OnNext (execNot d a s) := h.un32

theorem Canon.execPopc {d a} (h : Canon s) : OnNext (execPopc d a s) := h.un32

theorem Canon.execClz {d a} (h : Canon s) : OnNext (execClz d a s) := h.un32

theorem Canon.execBfe {d a sx pos len} (h : Canon s) : OnNext (execBfe d a sx pos len s) := h.un32

theorem Canon.execBfi {d a pos len} (h : Canon s) : OnNext (execBfi d a pos len s) := h.laneWord

/-! ### The operations of Machine/Moves -/

theorem Canon.execNop (h : Canon s) : OnNext (execNop s) := h.gangWord fun _ => .done h.put

theorem Canon.execMov {d a} (h : Canon s) : OnNext (execMov d a s) := h.un32

theorem Canon.execMovi {d imm} (h : Canon s) : OnNext (execMovi d imm s) := h.laneWord

theorem Canon.execMovh {d imm} (h : Canon s) : OnNext (execMovh d imm s) := h.laneWord

theorem Canon.execMovw {d imm} (h : Canon s) : OnNext (execMovw d imm s) := h.laneWord

theorem Canon.execSel {d a b wide neg pred} (h : Canon s) : OnNext (execSel d a b wide neg pred s) := h.laneWord

/-! ### The operations of Machine/Random -/

theorem Canon.execRand {d} (h : Canon s) : OnNext (execRand d s) := h.laneWord

theorem Canon.execRseed {a} (h : Canon s) : OnNext (execRseed a s) := h.laneWord

theorem Canon.execTime {d} (h : Canon s) : OnNext (execTime d s) := h.laneWord

theorem Canon.execCycle {d} (h : Canon s) : OnNext (execCycle d s) := by
  unfold Machine.execCycle
  refine h.gangWord fun c => ?_
  split
  · exact .trap
  · exact .done h.put

theorem Canon.execTrace {a tag} (h : Canon s) : OnNext (execTrace a tag s) := by
  unfold Machine.execTrace
  refine h.gangWord fun c => ?_
  split
  · exact .trap
  · split
    · exact .trap
    · exact .done h.put.trace

/-! ### The operations of Machine/Dispatch -/

theorem Canon.exec {i} (h : Canon s) : OnNext (exec i s) := by
  unfold Machine.exec
  split
  · exact h.execClauseIssue
  · exact h.execIssueAgePromotion
  · exact h.execNop
  · exact h.execMov
  · exact h.execMovi
  · exact h.execMovh
  · exact h.execMovw
  · exact h.execSel
  · exact h.execView
  · exact h.execRdsr
  · exact h.execWrsr
  · exact h.execAdd
  · exact h.execSub
  · exact h.execAddi
  · exact h.execMul
  · exact h.execMulhi
  · exact h.execMulhu
  · exact h.execMad
  · exact h.execAdd64
  · exact h.execSub64
  · exact h.execMul64
  · exact h.execMin
  · exact h.execMax
  · exact h.execMinu
  · exact h.execMaxu
  · exact h.execAbs
  · exact h.execAdds
  · exact h.execAnd
  · exact h.execOr
  · exact h.execXor
  · exact h.execAndn
  · exact h.execNot
  · exact h.execShl
  · exact h.execShr
  · exact h.execSar
  · exact h.execShli
  · exact h.execShri
  · exact h.execSari
  · exact h.execRotl
  · exact h.execPopc
  · exact h.execClz
  · exact h.execBfe
  · exact h.execBfi
  · exact h.execCmpeq
  · exact h.execCmpne
  · exact h.execCmplt
  · exact h.execCmple
  · exact h.execCmpltu
  · exact h.execCmpleu
  · exact h.execFcmpeq
  · exact h.execFcmplt
  · exact h.execFcmple
  · exact h.execFcmpun
  · exact h.execPand
  · exact h.execPor
  · exact h.execPxor
  · exact h.execPnot
  · exact h.execP2v
  · exact h.execV2p
  · exact h.execFadd
  · exact h.execFsub
  · exact h.execFmul
  · exact h.execFfma
  · exact h.execFmin
  · exact h.execFmax
  · exact h.execFabs
  · exact h.execFneg
  · exact h.execFrcp
  · exact h.execFrsq
  · exact h.execFsqrt
  · exact h.execFdiv
  · exact h.execFlog2
  · exact h.execFexp2
  · exact h.execFln
  · exact h.execFexp
  · exact h.execDadd
  · exact h.execDsub
  · exact h.execDmul
  · exact h.execDfma
  · exact h.execDmin
  · exact h.execDmax
  · exact h.execDdiv
  · exact h.execDsqrt
  · exact h.execDcmpeq
  · exact h.execDcmplt
  · exact h.execDcmple
  · exact h.execDcmpun
  · exact h.execCvt
  · exact h.execPkln6
  · exact h.execUpln6
  · exact h.execFrnd
  · exact h.execShfl
  · exact h.execShflup
  · exact h.execShfldn
  · exact h.execShflx
  · exact h.execVoteall
  · exact h.execVoteany
  · exact h.execBallot
  · exact h.execGred
  · exact h.execGscan
  · exact h.execMatchLanes
  · exact h.execSplit
  · exact h.execFuse
  · exact h.execFusetmoExpiry
  · exact h.execConverge
  · exact h.execBra
  · exact h.execBrp
  · exact h.execBru
  · exact h.execBrx
  · exact h.execCall
  · exact h.execCallx
  · exact h.execRet
  · exact h.execExit
  · exact h.execGangEnd
  · exact h.execTrap
  · exact h.execRtt
  · exact h.execMcall
  · exact h.execFork
  · exact h.execJoine
  · exact h.execDoze
  · exact h.execDozeWake
  · exact h.execYield
  · exact h.execBrk
  · exact h.execLdt
  · exact h.execStt
  · exact h.execAtomt
  · exact h.execLdsp
  · exact h.execStsp
  · exact h.execLdp
  · exact h.execStp
  · exact h.execRingrot
  · exact h.execLdg
  · exact h.execStg
  · exact h.execAtomg
  · exact h.execFaddg
  · exact h.execCasg
  · exact h.execPrefg
  · exact h.execAccessComplete
  · exact h.execWaitc
  · exact h.execFence
  · exact h.execAcq
  · exact h.execRel
  · exact h.execBind
  · exact h.execUnbind
  · exact h.execTokacq
  · exact h.execTokrel
  · exact h.execTokqry
  · exact h.execColl
  · exact h.execBar
  · exact h.execBararv
  · exact h.execBarwt
  · exact h.execMbinit
  · exact h.execMbarv
  · exact h.execMbwait
  · exact h.execBseal
  · exact h.execBwait
  · exact h.execClbar
  · exact h.execSignal
  · exact h.execShbegin
  · exact h.execAccept
  · exact h.execShabort
  · exact h.execShread
  · exact h.execRand
  · exact h.execRseed
  · exact h.execAccrd
  · exact h.execAccclr
  · exact h.execTime
  · exact h.execTrace
  · exact h.execCycle
  · exact h.execXsave
  · exact h.execXrstr
  · exact h.execSplrd
  · exact h.execSplwr
  · exact h.execReplv
  · exact h.execTlbinv
  · exact h.execShsave
  · exact h.execShrstr
  · exact h.execMstore
  · exact h.execDrainlimExpiry
  · exact h.execPreemptEntry
  · exact h.execForcedSaveHeldTimeout
  · exact h.execHandlerRttTimeout
  · exact h.execTmma
  · exact h.execTgmma
  · exact h.execTzero
  · exact h.execTld
  · exact h.execTst
  · exact h.execAccst
  · exact h.execAccld
  · exact h.execTamax
  · exact h.execTtrans
  · exact h.execTbmap
  · exact h.execStrdef
  · exact h.execStrsub
  · exact h.execStradv
  · exact h.execStrunsub
  · exact h.execMloop
  · exact h.execMend
  · exact h.execMresume
  · exact h.execMsave
  · exact h.execQuarterOpComplete
  · exact h.execTileStep
  · exact h.execMatrixHang
  · exact h.execPrismTileWrite
  · exact h.execCopy
  · exact h.execCopyt
  · exact h.execCopyg
  · exact h.execCopys
  · exact h.execCopym
  · exact h.execCopyn
  · exact h.execFill
  · exact h.execChain
  · exact h.execChstat
  · exact h.execChabort
  · exact h.execMigr
  · exact h.execCopyr
  · exact h.execCopyJobComplete
  · exact h.execChainRecordStep
  · exact h.execCopymReceiverArrive
  · exact h.execNetPacketReceive
  · exact h.execNetAckReceive
  · exact h.execNegativeAck
  · exact h.execNetRetryTimeout
  · exact h.execCmovi
  · exact h.execCaddi
  · exact h.execCadd
  · exact h.execCld
  · exact h.execCst
  · exact h.execCldl
  · exact h.execCstl
  · exact h.execCvop
  · exact h.execCopen
  · exact h.execCcont
  · exact h.execCwait
  · exact h.execCres
  · exact h.execCstat
  · exact h.execCsend
  · exact h.execCrecv
  · exact h.execCbz
  · exact h.execCbnz
  · exact h.execCbra
  · exact h.execCsig
  · exact h.execCfree
  · exact h.execCend
  · exact h.execAttarStart
  · exact h.execContributionAccept
  · exact h.execSlotDeadline
  · exact h.execContributionRetry
  · exact h.execMessageStore
  · exact h.execMessageExpiry
  · exact h.execCrecvTimeout
  · exact h.execRouterPacketArrive
  · exact h.execOutputGrant
  · exact h.execEchoReply
  · exact h.execFailedReply
  · exact h.execLinkFlitReceive
  · exact h.execLinkRetrain
  · exact h.execLinkDown
  · exact h.execRouteRecompute
  · exact h.execResponseTimeout
  · exact h.execMemoryRequest
  · exact h.execTokenAcquireRequest
  · exact h.execTokenRecall
  · exact h.execRecallAck
  · exact h.execScrubArrays
  · exact h.execScrubDram
  · exact h.execHostWrite
  · exact h.execHostRead
  · exact h.execDoorbell
  · exact h.execQueueEnable
  · exact h.execQueueDisable
  · exact h.execQueueRecordWrite
  · exact h.execPacketProcessorStep
  · exact h.execWaitsigTimeout
  · exact h.execLaunchComplete
  · exact h.execCompletionRecordRetry
  · exact h.execBindRecordWrite
  · exact h.execTeamDispatch
  · exact h.execContextValidSet
  · exact h.execContextValidClear
  · exact h.execContextRecordWrite
  · exact h.execFaultReplay
  · exact h.execFaultCancel
  · exact h.execMmioRegisterWrite
  · exact h.execPowerRead
  · exact h.execPowerPackageLimit
  · exact h.execPowerIslandLimit
  · exact h.execPowerDieDown
  · exact h.execPowerDieUp
  · exact h.execResetDrain
  · exact h.execResetCore
  · exact h.execResetMatrixEngine
  · exact h.execResetDie
  · exact h.execDieResetComplete
  · exact h.execResetBaseDie
  · exact h.execResetPackage
  · exact h.execResetTlbinv
  · exact h.execFunctionLevelReset
  · exact h.execFundamentalReset
  · exact h.execErrlogRead
  · exact h.execErrlogCounters
  · exact h.execErrlogClear
  · exact h.execTimeStatus
  · exact h.execTimeStep
  · exact h.execTimeLoad
  · exact h.execTimePortSelect
  · exact h.execPtpSync
  · exact h.execIoDieFailover
  · exact h.execKeysLoad
  · exact h.execKeysClear
  · exact h.execKeysRead
  · exact h.execTelemetrySetRing
  · exact h.execTelemetryDrain
  · exact h.execTelemetryRead
  · exact h.execRoutesSetPkg
  · exact h.execRoutesWrite
  · exact h.execRoutesAgemax
  · exact h.execRoutesPartitionMap
  · exact h.execMigrationThreshold
  · exact h.execMigrationReadCounters
  · exact h.execGetVersion
  · exact h.execGetCapabilities
  · exact h.execNegotiateAlgorithms
  · exact h.execGetDigests
  · exact h.execGetCertificate
  · exact h.execChallenge
  · exact h.execGetMeasurements
  · exact h.execKeyExchange
  · exact h.execFinish
  · exact h.execEndSession
  · exact h.execIdeKm
  · exact h.execFirmwareImageWrite
  · exact h.execPowerGood
  · exact h.execTdispMessage
  · exact h.execBaseDieResetComplete
  · exact h.execCoreResetComplete
  · exact h.execGovernorClockChange

/-! ### The operations of Machine/Fetch -/

theorem Canon.issueSplit (h : Canon s) : OnNext (s.issueSplit) := by
  unfold State.issueSplit
  split
  · exact .next h
  · split
    · exact .next h.resumeSplit
    · split
      · split
        · exact .next h.raise
        · exact h.exec
      · split
        · exact .next h.advance
        · split
          · exact .next h.raise
          · exact h.exec

theorem Canon.issueAttar (h : Canon s) : OnNext (s.issueAttar) := by
  unfold State.issueAttar
  split
  · exact .next h
  · extract_lets w _
    split
    · split
      · exact .next h.attarTrap
      · next next _ =>
          split
          · exact .next h.attarTrap
          · exact .next h.setACtx
    · split
      · exact .next h.attarTrap
      · exact h.exec

theorem Canon.atSplit {key idx} (h : Canon s) : Canon (s.atSplit key idx) := h

theorem Canon.modSplit {key idx f} (h : Canon s) : Canon (s.modSplit key idx f) := by
  unfold State.modSplit
  split
  · exact h
  · exact h.setGang

theorem Canon.select {core port e} (h : Canon s) : Canon (s.select core port e) :=
  (h.foldl fun _ _ h => h.modSplit).setCore.modSplit.atSplit

theorem Canon.yieldPort {key idx port sp} (h : Canon s) : Canon (s.yieldPort key idx port sp) := by
  unfold State.yieldPort
  split
  · exact h
  · split
    · exact h.setCore
    · exact h

theorem Canon.portTurn {core port} (h : Canon s) : OnNext (s.portTurn core port) := by
  unfold State.portTurn
  split
  · exact .next h
  · extract_lets t
    have ht : Canon t := h.select
    have ho := ht.kept (owner := t.cursor) ht.issueSplit
    split
    · next e _ => exact .next (ho.of_next e).yieldPort
    · exact ho

theorem Canon.atContext {sock k} (h : Canon s) : Canon (s.atContext sock k) := h

theorem Canon.attarStep {sock} (h : Canon s) : OnNext (s.attarStep sock) := by
  unfold State.attarStep
  split
  · exact .next h
  · exact Canon.kept h.setBase.atContext h.setBase.atContext.issueAttar

/-! ### The operations of Machine/Turn -/

theorem Canon.wake (h : Canon s) : Canon s.wake := h.foldl fun _ _ h => h.kick

theorem Canon.tick (h : Canon s) : Canon (s.tick) := h

theorem Canon.nextMove {m t} (h : Canon s) (e : s.nextMove = some (m, t)) : Canon t := by
  unfold State.nextMove at e
  split at e
  · cases e
    exact h
  · split at e
    · cases e
    · obtain ⟨m', -, e⟩ := Option.map_eq_some_iff.1 e
      cases e
      exact h

theorem Canon.eventTurn {k} (h : Canon s) : OnNext (s.eventTurn k) := by
  unfold State.eventTurn
  extract_lets k'
  split
  · exact .next h
  · extract_lets t
    have ht : Canon t := h
    exact ht.kept ht.runPending

theorem Canon.inputTurn (h : Canon s) : OnNext s.inputTurn := by
  unfold State.inputTurn
  split
  · exact .next h
  · extract_lets t
    have ht : Canon t := h
    exact ht.kept ht.exec

theorem Canon.move {a} (h : Canon s) : OnNext (s.move a) := by
  unfold State.move
  split
  · exact h.portTurn
  · exact h.attarStep
  · exact h.eventTurn
  · exact h.inputTurn

/-! ### The operations of Machine/Step -/

theorem Canon.step (h : Canon s) : OnNext (step s) := by
  unfold Machine.step
  split
  · exact .next h.tick.wake
  · next m t e =>
    have ho : OnNext (t.move m) := (h.nextMove e).move
    split
    · next e => exact .next (ho.of_next e).tick.wake
    · exact .fault
    · exact .refused

/-! ### The obligation -/

/-- Settles O59: a step is the sum of the operations above, each of which keeps canonical memory. -/
theorem memoryStaysCanonical : Obligations.MemoryStaysCanonical := by
  unfold Obligations.MemoryStaysCanonical
  intro s t e h
  exact (Canon.step h).of_next e

end Sys2Proof.Proofs
end

section
/-!
PROOF. The hand-off of matrix words (R24, R258): what `matrixWord` comes to at an issued word, stated once for every word of the class, and the
row words with it.
-/
set_option Elab.async false
namespace Sys2Proof.Proofs
open Sys2Proof Sys2Proof.Machine Sys2Proof.Laws

section MatrixWord

variable {i : Instr} {ctr : BitVec 4} {checks : Issue → State → Option Trap} {mk : Issue → State → MJob} {after : Issue → State → State}

/-- An issued matrix word traps, stalls or is handed off, in this order (R24). -/
theorem handsOffBehind_of_matrixWord {stall : State → Issue → Bool} (h : ∀ s, exec i s = matrixWord i ctr checks mk after s)
    (hs : ∀ (s : State) (c : Issue), s.stalls c i ctr.toNat = (decide (63 ≤ c.g.outstanding ctr.toNat) || stall s c)) :
    i.handsOffBehind ctr stall (fun s c => checks c s) (fun s c => mk c s) after := by
  intro s c hi
  rw [h, matrixWord, gangWord_of_issues hi]
  dsimp only
  cases checks c s with
  | some t => rfl
  | none =>
    have hw : s.stalls c i ctr.toNat = true ↔ 63 ≤ c.g.outstanding ctr.toNat ∨ stall s c = true := by
      simp only [hs, Bool.or_eq_true, decide_eq_true_eq]
    by_cases w : s.stalls c i ctr.toNat = true
    · rw [if_pos w, if_pos (hw.mp w)]
    · rw [if_neg w, if_neg (mt hw.mpr w)]

/-- A matrix word for which `State.stalls` knows no reason of its own stalls only at a counter of 63. -/
theorem handsOffMatrix_of_matrixWord (h : ∀ s, exec i s = matrixWord i ctr checks mk after s)
    (hs : ∀ (s : State) (c : Issue), s.stalls c i ctr.toNat = (decide (63 ≤ c.g.outstanding ctr.toNat) || false)) :
    i.handsOffMatrix ctr (fun s c => checks c s) (fun s c => mk c s) after :=
  handsOffBehind_of_matrixWord h hs

end MatrixWord

/-- ACCLD and ACCST move 128 bytes of memory in mode 0 and 64 in every other (R262). -/
theorem accMove_toNat (mode : BitVec 2) : accMove mode.toNat = if mode = 0 then 128 else 64 := by
  have : mode.toNat = 0 ↔ mode = 0 := (BitVec.toNat_eq (x := mode) (y := 0)).symm
  simp only [accMove, this]

/-- Settles O37: each row word is `matrixWord` of its own checks and job; only ACCST and ACCLD give their size by the mode's number. -/
theorem matrixRowHandOffs : Obligations.MatrixRowHandOffs := by
  unfold Obligations.MatrixRowHandOffs
  intro same acc tile bsrc ctr f mode pl accOk team accJob skip tl
  refine ⟨?tmma, ?tgmma, ?tzero, ?tld, ?tst, ?accst, ?accld, ?tamax⟩
  case accst | accld =>
    rw [← accMove_toNat]
    exact handsOffMatrix_of_matrixWord (fun _ => rfl) fun _ _ => rfl
  all_goals exact handsOffMatrix_of_matrixWord (fun _ => rfl) fun _ _ => rfl

end Sys2Proof.Proofs
end
